-- ==== Sys2Proof/Word.lean ====
section
/-! DEFINITION. Sys2Proof/Word.lean: the word types of R7 and their plainest arithmetic. -/

namespace Sys2Proof

/-- One byte of memory. -/
abbrev Byte := BitVec 8
/-- A half-word of a code line (R52). -/
abbrev Half := BitVec 16
/-- A 32-bit word. -/
abbrev W32 := BitVec 32
/-- An x-register (R14). -/
abbrev W64 := BitVec 64
/-- A vector register (R166). -/
abbrev V512 := BitVec 512

/-- SExt of R12: the low `n` bits of `v`, sign-extended to 64 bits. -/
def sextTo64 (n : Nat) (v : W64) : W64 := (v.setWidth n).signExtend 64

/-- ZExt of R12: the low `n` bits of `v`, zero-extended to 64 bits. -/
def zextTo64 (n : Nat) (v : W64) : W64 := (v.setWidth n).setWidth 64

/-- A natural number as a 64-bit word. -/
abbrev w64 (n : Nat) : W64 := BitVec.ofNat 64 n

/-- An integer as a 64-bit two's complement word. -/
abbrev w64i (i : Int) : W64 := BitVec.ofInt 64 i

/-- Bits `[hi:lo]` of a word, as a number. -/
def bitsOf (v : W64) (hi lo : Nat) : Nat := (v.toNat >>> lo) % 2 ^ (hi + 1 - lo)

/-- Bit `i` of a natural number. -/
def bitOf (n i : Nat) : Bool := (n >>> i) % 2 == 1

end Sys2Proof
end

