-- ==== Sys2Proof/Syntax.lean ====
section
/-! DEFINITION. Sys2Proof/Syntax.lean: the instructions of the Gorut set (R62) and the machine's events, one constructor of
`Instr` per row of spec/opcode_table.json. The first part are the encoded instructions, with their operands decoded; the second
part are the events of the table, with the names of the units they happen at. -/

namespace Sys2Proof

/-- x-class operand: `x0`–`x31` (R59). -/
abbrev XReg := BitVec 5
/-- Guard-class operand: `g0`–`g7` (R59). -/
abbrev GReg := BitVec 3
/-- The control word of R56, absent when TL is the base length. -/
abbrev Ctl := Option (BitVec 16)

/-- Direction class (R59): 0 W, 1 N, 2 E, 3 S. -/
inductive Dir where
  | w | n | e | s
deriving DecidableEq, Repr

/-- v-class operand (R59): a register, a link port, a stream port, or null. -/
inductive VOp where
  | reg (r : BitVec 5)
  | link (d : Dir)
  | stream (q : BitVec 2)
  | null
deriving DecidableEq, Repr

/-- Mask-class operand (R59, R168): `z` selects zeroing. -/
structure MaskOp where
  m : BitVec 3
  z : Bool
deriving DecidableEq, Repr

/-- The lane types 0–8 of R167. -/
inductive VType where
  | f32 | f16 | bf16 | i32 | i16 | i8 | n32 | n16 | n8
deriving DecidableEq, Repr

/-- The TYPE field of the vector memory forms (R184): a lane type, or `auto` (code 9). -/
inductive MType where
  | ty (t : VType)
  | auto
deriving DecidableEq, Repr

/-- The conditions of CMP and CMPI (R99). -/
inductive Cond where
  | eq | ne | lt | le | ltn | len | any | none
deriving DecidableEq, Repr

/-- The conditions of FCMP (R109). -/
inductive FCond where
  | eq | lt | le | un
deriving DecidableEq, Repr

/-- The conditions of VCMP (R175). -/
inductive VCond where
  | eq | ne | lt | le
deriving DecidableEq, Repr

/-- The load sizes of R103. -/
inductive LdSize where
  | n8 | n16 | n32 | n64 | i8 | i16 | i32
deriving DecidableEq, Repr

/-- The store sizes of R103. -/
inductive StSize where
  | s8 | s16 | s32 | s64
deriving DecidableEq, Repr

/-- Rounding modes of R77. -/
inductive RM where
  | rne | rz | ru | rd | rs
deriving DecidableEq, Repr

/-- Scalar conversion codes 0–13 of R80. -/
inductive SType where
  | f64 | f32 | bf16 | f16 | e4m3 | e5m2 | i64 | i32 | i16 | i8 | n64 | n32 | n16 | n8
deriving DecidableEq, Repr

/-- VCVT's codes 0–14 of R178. -/
inductive CType where
  | ty (t : VType)
  | e4m3 | e5m2 | e2m1 | i4 | e3m2 | e2m3
deriving DecidableEq, Repr

/-- Scopes of R11 with the codes of R32. -/
inductive Scope where
  | core | plot | die | dev | tenant | sys
deriving DecidableEq, Repr

/-- The ordering of an atomic (R273). -/
inductive Ord where
  | relaxed | acquire | release | acqrel
deriving DecidableEq, Repr

/-- The members of AMO (R275). -/
inductive AmoOp where
  | add | min | max | minn | maxn | and | or | xor | swap
deriving DecidableEq, Repr

/-- The members of LOG (R280). -/
inductive LogOp where
  | add | min | max
deriving DecidableEq, Repr

/-- The log types of R280. -/
inductive LogTy where
  | f32 | f64 | i32 | i64 | n32 | n64
deriving DecidableEq, Repr

/-- The system registers of R377. -/
inductive SysReg where
  | xpc | xcause | xinfo (i : BitVec 2) | tvec | lpc | status | cycle | seed | tenant
  | repstate | reppc | repmpc | hdrsel | hdrfld | cecnt | bankfmt (b : Fin 12)
deriving DecidableEq, Repr

/-- The kinds of core that execute instructions (R63, R359). -/
inductive CoreKind where
  | compute | slice | control
deriving DecidableEq, Repr

/-- The name of a core: a compute core by die and die-local (x, y) (R5), a slice core by die and slice index in `x` (R346), the
package control core (R359). -/
structure Loc where
  kind : CoreKind
  die : Nat
  x : Nat
  y : Nat
deriving DecidableEq, Repr

/-- A translation's access kind, the bits of XINFO0 in R361. -/
structure Access where
  write : Bool
  fetch : Bool
  atomic : Bool
deriving DecidableEq, Repr

/-- A thread as SUPCMD names it: its launch's number, and CORE (R410). -/
structure SupThread where
  launch : Nat
  core : Nat
deriving DecidableEq, Repr

/-- What MGMTCMD names beside its command: DIE, and ARG (R422). -/
structure MgmtTarget where
  die : Nat
  arg : Nat
deriving DecidableEq, Repr

/-- The kinds of slice trigger (R349). -/
inductive Trigger where
  | miss | fill | evict | msg
deriving DecidableEq, Repr

/-- The instructions and the events of the opcode table. -/
inductive Instr where
  -- NOP and HALT (R23, R24)
  | nop (c : Ctl)
  | halt (code : BitVec 6) (c : Ctl)
  -- 0x02 and 0x03 (R90, R91); `w` is the suffix .w
  | add (w : Bool) (d b a : XReg) (c : Ctl)
  | sub (w : Bool) (d b a : XReg) (c : Ctl)
  | and (w : Bool) (d b a : XReg) (c : Ctl)
  | or (w : Bool) (d b a : XReg) (c : Ctl)
  | xor (w : Bool) (d b a : XReg) (c : Ctl)
  | andn (w : Bool) (d b a : XReg) (c : Ctl)
  | shl (w : Bool) (d b a : XReg) (c : Ctl)
  | shr (w : Bool) (d b a : XReg) (c : Ctl)
  | sar (w : Bool) (d b a : XReg) (c : Ctl)
  | rot (w : Bool) (d b a : XReg) (c : Ctl)
  | min (w : Bool) (d b a : XReg) (c : Ctl)
  | max (w : Bool) (d b a : XReg) (c : Ctl)
  | minn (w : Bool) (d b a : XReg) (c : Ctl)
  | maxn (w : Bool) (d b a : XReg) (c : Ctl)
  -- 0x04 (R92)
  | addi (d a : XReg) (i : BitVec 16) (c : Ctl)
  | andi (d a : XReg) (i : BitVec 16) (c : Ctl)
  | ori (d a : XReg) (i : BitVec 16) (c : Ctl)
  | xori (d a : XReg) (i : BitVec 16) (c : Ctl)
  | shli (d a : XReg) (n : BitVec 6) (c : Ctl)
  | shri (d a : XReg) (n : BitVec 6) (c : Ctl)
  | sari (d a : XReg) (n : BitVec 6) (c : Ctl)
  | roti (d a : XReg) (n : BitVec 6) (c : Ctl)
  -- 0x05, 0x06 (R93, R94)
  | li (d : XReg) (i : BitVec 16) (c : Ctl)
  | lic (d a : XReg) (k : BitVec 2) (i : BitVec 16) (c : Ctl)
  -- 0x07 (R95)
  | mul (d b a : XReg) (c : Ctl)
  | mulh (d b a : XReg) (c : Ctl)
  | mulhn (d b a : XReg) (c : Ctl)
  | div (d b a : XReg) (c : Ctl)
  | divn (d b a : XReg) (c : Ctl)
  | rem (d b a : XReg) (c : Ctl)
  | remn (d b a : XReg) (c : Ctl)
  -- 0x08 (R96)
  | clz (d a : XReg) (c : Ctl)
  | ctz (d a : XReg) (c : Ctl)
  | popc (d a : XReg) (c : Ctl)
  | brev (d a : XReg) (c : Ctl)
  | bswap (d a : XReg) (c : Ctl)
  -- 0x09, 0x0A (R97, R98)
  | bfx (d a : XReg) (pos width : BitVec 6) (c : Ctl)
  | bfxs (d a : XReg) (pos width : BitVec 6) (c : Ctl)
  | bfi (d b a : XReg) (pos width : BitVec 6) (c : Ctl)
  -- 0x0B to 0x0F (R99 to R102)
  | cmp (d : GReg) (cc : Cond) (b a : XReg) (c : Ctl)
  | cmpi (d : GReg) (cc : Cond) (a : XReg) (i : BitVec 16) (c : Ctl)
  | gand (d b a : GReg) (c : Ctl)
  | gor (d b a : GReg) (c : Ctl)
  | gxor (d b a : GReg) (c : Ctl)
  | gandn (d b a : GReg) (c : Ctl)
  | sel (d b a : XReg) (g : GReg) (c : Ctl)
  | gtox (d : XReg) (c : Ctl)
  | xtog (a : XReg) (c : Ctl)
  -- 0x10 to 0x13 (R103, R104)
  | ldl (d a : XReg) (sz : LdSize) (off : BitVec 16) (c : Ctl)
  | stl (d a : XReg) (sz : StSize) (off : BitVec 16) (c : Ctl)
  | ld (d a : XReg) (sz : LdSize) (off : BitVec 16) (c : Ctl)
  | st (d a : XReg) (sz : StSize) (off : BitVec 16) (c : Ctl)
  -- 0x14 to 0x19 (R107 to R110); `t` is true for f32
  | fadd (t : Bool) (d b a : XReg) (c : Ctl)
  | fsub (t : Bool) (d b a : XReg) (c : Ctl)
  | fmul (t : Bool) (d b a : XReg) (c : Ctl)
  | fdiv (t : Bool) (d b a : XReg) (c : Ctl)
  | fsqrt (t : Bool) (d a : XReg) (c : Ctl)
  | fmin (t : Bool) (d b a : XReg) (c : Ctl)
  | fmax (t : Bool) (d b a : XReg) (c : Ctl)
  | fabs (t : Bool) (d a : XReg) (c : Ctl)
  | fneg (t : Bool) (d a : XReg) (c : Ctl)
  | fclass (t : Bool) (d a : XReg) (c : Ctl)
  | fma (t : Bool) (d e b a : XReg) (c : Ctl)
  | fms (t : Bool) (d e b a : XReg) (c : Ctl)
  | fnma (t : Bool) (d e b a : XReg) (c : Ctl)
  | fnms (t : Bool) (d e b a : XReg) (c : Ctl)
  | fcmp (d : GReg) (t : Bool) (cc : FCond) (b a : XReg) (c : Ctl)
  | fcvt (d a : XReg) (src dst : SType) (rm : RM) (sat : Bool) (c : Ctl)
  -- 0x1A to 0x20 (R112 to R116)
  | br (g : BitVec 4) (i : BitVec 16) (c : Ctl)
  | jmp (off : BitVec 32) (c : Ctl)
  | call (off : BitVec 32) (c : Ctl)
  | jr (a : XReg) (c : Ctl)
  | callr (a : XReg) (c : Ctl)
  | loop (d : XReg) (i : BitVec 16) (c : Ctl)
  | svc (code : BitVec 6) (c : Ctl)
  | brk (code : BitVec 6) (c : Ctl)
  -- 0x40 to 0x45 (R172 to R177)
  | vadd (d b a : VOp) (t : VType) (m : MaskOp) (c : Ctl)
  | vsub (d b a : VOp) (t : VType) (m : MaskOp) (c : Ctl)
  | vmul (d b a : VOp) (t : VType) (m : MaskOp) (c : Ctl)
  | vmin (d b a : VOp) (t : VType) (m : MaskOp) (c : Ctl)
  | vmax (d b a : VOp) (t : VType) (m : MaskOp) (c : Ctl)
  | vabs (d a : VOp) (t : VType) (m : MaskOp) (c : Ctl)
  | vneg (d a : VOp) (t : VType) (m : MaskOp) (c : Ctl)
  | vadds (d b a : VOp) (t : VType) (m : MaskOp) (c : Ctl)
  | vsubs (d b a : VOp) (t : VType) (m : MaskOp) (c : Ctl)
  | vfma (d e b a : VOp) (t : VType) (m : MaskOp) (c : Ctl)
  | vfms (d e b a : VOp) (t : VType) (m : MaskOp) (c : Ctl)
  | vfnma (d e b a : VOp) (t : VType) (m : MaskOp) (c : Ctl)
  | vand (d b a : VOp) (t : VType) (m : MaskOp) (c : Ctl)
  | vor (d b a : VOp) (t : VType) (m : MaskOp) (c : Ctl)
  | vxor (d b a : VOp) (t : VType) (m : MaskOp) (c : Ctl)
  | vandn (d b a : VOp) (t : VType) (m : MaskOp) (c : Ctl)
  | vshl (d b a : VOp) (t : VType) (m : MaskOp) (c : Ctl)
  | vshr (d b a : VOp) (t : VType) (m : MaskOp) (c : Ctl)
  | vsar (d b a : VOp) (t : VType) (m : MaskOp) (c : Ctl)
  | vcmp (d : BitVec 3) (cc : VCond) (b a : VOp) (t : VType) (m : MaskOp) (c : Ctl)
  | vsel (d b a : VOp) (k : BitVec 3) (t : VType) (m : MaskOp) (c : Ctl)
  | vexp2 (d a : VOp) (m : MaskOp) (c : Ctl)
  | vlog2 (d a : VOp) (m : MaskOp) (c : Ctl)
  | vrcp (d a : VOp) (m : MaskOp) (c : Ctl)
  | vrsq (d a : VOp) (m : MaskOp) (c : Ctl)
  | vsqrt (d a : VOp) (m : MaskOp) (c : Ctl)
  -- 0x46 to 0x4A (R178 to R183)
  | vcvt (d a : VOp) (sp dp : BitVec 2) (src dst : CType) (rm : RM) (sat : Bool) (c : Ctl)
  | vredadd (d : XReg) (a : VOp) (rm : RM) (t : VType) (m : BitVec 3) (c : Ctl)
  | vredmin (d : XReg) (a : VOp) (t : VType) (m : BitVec 3) (c : Ctl)
  | vredmax (d : XReg) (a : VOp) (t : VType) (m : BitVec 3) (c : Ctl)
  | vscanadd (d a : VOp) (b : XReg) (rm : RM) (t : VType) (m : MaskOp) (c : Ctl)
  | vbcast (d : VOp) (t : VType) (a : XReg) (c : Ctl)
  | vextr (d : XReg) (b : XReg) (a : VOp) (c : Ctl)
  | vins (d : BitVec 5) (b a : XReg) (c : Ctl)
  -- 0x4B to 0x4D (R184 to R188)
  | vldl (d : VOp) (a : XReg) (t : MType) (off : BitVec 12) (c : Ctl)
  | vstl (d : VOp) (a : XReg) (t : MType) (off : BitVec 12) (c : Ctl)
  | vldls (d : VOp) (a b : XReg) (t : VType) (off : BitVec 12) (c : Ctl)
  | vstls (d : VOp) (a b : XReg) (t : VType) (off : BitVec 12) (c : Ctl)
  | vgatl (d : VOp) (a : XReg) (ix : BitVec 5) (t : MType) (off : BitVec 12) (c : Ctl)
  | vscatl (d : VOp) (a : XReg) (ix : BitVec 5) (t : MType) (off : BitVec 12) (c : Ctl)
  | vld (d : VOp) (a : XReg) (t : VType) (off : BitVec 12) (c : Ctl)
  | vst (d : VOp) (a : XReg) (t : VType) (off : BitVec 12) (c : Ctl)
  -- 0x4E to 0x55 (R190 to R200)
  | vperm (d e b a : VOp) (t : VType) (m : MaskOp) (c : Ctl)
  | vdot4 (d e b a : VOp) (m : MaskOp) (c : Ctl)
  | vdot4n (d e b a : VOp) (m : MaskOp) (c : Ctl)
  | visect (d : VOp) (e b a : XReg) (k : BitVec 3) (c : Ctl)
  | vcprs (d a : VOp) (b : XReg) (t : VType) (k : BitVec 3) (c : Ctl)
  | vhdrP (d a : VOp) (b : XReg) (c : Ctl)
  | vhdrA (d e a : VOp) (b : XReg) (c : Ctl)
  | vmov (d a : VOp) (c : Ctl)
  | vfwd (d a : Dir) (b : Option (BitVec 5)) (c : Ctl)
  | scfgRead (q : BitVec 2) (a : XReg) (c : Ctl)
  | scfgWrite (q : BitVec 2) (a : XReg) (c : Ctl)
  | scfgStop (q : BitVec 2) (b : XReg) (c : Ctl)
  | rep (a : XReg) (n stag : BitVec 5) (c : Ctl)
  -- 0x70 to 0x77 (R204 to R218)
  | whopos (d : XReg) (c : Ctl)
  | whodim (d : XReg) (c : Ctl)
  | whocore (d : XReg) (c : Ctl)
  | whoplot (d : XReg) (c : Ctl)
  | wholaunch (d : XReg) (c : Ctl)
  | gang (ht wd : BitVec 5) (c : Ctl)
  | split (c : Ctl)
  | barInit (b a : XReg) (c : Ctl)
  | barArrive (a : XReg) (c : Ctl)
  | barWait (a : XReg) (c : Ctl)
  | barSync (a : XReg) (c : Ctl)
  | evtSig (b a : XReg) (c : Ctl)
  | evtWait (b a : XReg) (c : Ctl)
  | evtTest (d : GReg) (b a : XReg) (c : Ctl)
  | sstep (c : Ctl)
  | stageNext (d a : XReg) (c : Ctl)
  | stageAdv (a : XReg) (c : Ctl)
  | stageWaitl (a : XReg) (c : Ctl)
  | stageEnd (c : Ctl)
  | yield (c : Ctl)
  -- 0x80 to 0x8D (R272 to R290)
  | lda (d a : XReg) (sz : LdSize) (sc : Scope) (c : Ctl)
  | strl (d a : XReg) (sz : StSize) (sc : Scope) (c : Ctl)
  | fence (sc : Scope) (k : BitVec 4) (c : Ctl)
  | amo (op : AmoOp) (d b a : XReg) (w64 : Bool) (o : Ord) (sc : Scope) (c : Ctl)
  | cas (d e b a : XReg) (w64 : Bool) (o : Ord) (sc : Scope) (c : Ctl)
  | log (op : LogOp) (b a : XReg) (t : LogTy) (c : Ctl)
  | monarm (a : XReg) (c : Ctl)
  | mwait (d a : XReg) (c : Ctl)
  | mdisarm (c : Ctl)
  | pref (own : Bool) (a : XReg) (i : BitVec 16) (c : Ctl)
  | stashMap (r : BitVec 2) (b a : XReg) (c : Ctl)
  | stashClean (r : BitVec 2) (c : Ctl)
  | stashDrop (r : BitVec 2) (c : Ctl)
  | ringInit (h : BitVec 3) (b a : XReg) (c : Ctl)
  | ringRsv (h : BitVec 3) (a : XReg) (c : Ctl)
  | ringWait (h : BitVec 3) (a : XReg) (c : Ctl)
  | ringAdvp (h : BitVec 3) (a : XReg) (c : Ctl)
  | ringAdvc (h : BitVec 3) (a : XReg) (c : Ctl)
  | ringPtr (d : XReg) (h : BitVec 3) (c : Ctl)
  | winInit (w : BitVec 4) (b a : XReg) (c : Ctl)
  | winPub (w : BitVec 4) (c : Ctl)
  | winBack (d : XReg) (w : BitVec 4) (c : Ctl)
  | winFront (d : XReg) (w : BitVec 4) (c : Ctl)
  | ifence (sc : Scope) (c : Ctl)
  | cclean (b a : XReg) (c : Ctl)
  | cinv (b a : XReg) (c : Ctl)
  | bankfSet (b a : XReg) (c : Ctl)
  | bankfGet (d a : XReg) (c : Ctl)
  -- 0xA0 (R299 to R319)
  | lnkOpen (dir : Dir) (a b e f : XReg) (c : Ctl)
  | lnkClose (dir : Dir) (c : Ctl)
  | lnkWait (w : BitVec 4) (c : Ctl)
  | lnkStat (a : XReg) (dir : Dir) (c : Ctl)
  | lnkCancel (dir : Dir) (c : Ctl)
  -- 0xA1 to 0xA9 (R326 to R345)
  | xcopy (k : BitVec 3) (a b e : XReg) (dir : BitVec 2) (dfmt sfmt : BitVec 4) (c : Ctl)
  | getx (k : BitVec 3) (a : XReg) (ix : BitVec 5) (e : XReg) (m : BitVec 3) (esz : Fin 7) (c : Ctl)
  | placex (k : BitVec 3) (a : XReg) (ix : BitVec 5) (e : XReg) (m : BitVec 3) (esz : Fin 7) (c : Ctl)
  | ccntWait (k : BitVec 3) (a : XReg) (c : Ctl)
  | ccntRd (d : XReg) (k : BitVec 3) (c : Ctl)
  | ccntSet (k : BitVec 3) (a : XReg) (c : Ctl)
  | compact (k : BitVec 3) (w : BitVec 4) (b e f : XReg) (c : Ctl)
  | keyq (a : XReg) (c : Ctl)
  | keyg (a : XReg) (c : Ctl)
  | chanSend (h : BitVec 3) (a : XReg) (c : Ctl)
  | chanRecv (h : BitVec 3) (a : XReg) (c : Ctl)
  | slmsg (k : BitVec 3) (a b e : XReg) (c : Ctl)
  -- 0xB0, 0xB1: slice cores only (R352, R353)
  | shLineX (d b a : XReg) (c : Ctl)
  | shLineF (n : Bool) (a : XReg) (c : Ctl)
  | shPref (a : XReg) (c : Ctl)
  | shReply (a : XReg) (c : Ctl)
  | shFwdMem (b a : XReg) (c : Ctl)
  | shFwdAcc (b : XReg) (c : Ctl)
  | shDone (c : Ctl)
  | sfma (c : Ctl)
  -- 0xC0 to 0xC4 (R380 to R384)
  | eret (c : Ctl)
  | sysRd (d : XReg) (r : SysReg) (c : Ctl)
  | sysWr (a : XReg) (r : SysReg) (c : Ctl)
  | tlbinvPage (a : XReg) (c : Ctl)
  | tlbinvTenant (c : Ctl)
  | tlbinvAll (c : Ctl)
  | ctxSave (b a : XReg) (c : Ctl)
  | ctxLoad (b a : XReg) (c : Ctl)
  | wfi (c : Ctl)
  -- 0xD0, 0xD1 (R398, R399)
  | ldred (d : BitVec 5) (a b : XReg) (g : GReg) (k : BitVec 3) (inB outB : Bool) (c : Ctl)
  | grpSet (k : BitVec 3) (b a : XReg) (c : Ctl)
  | grpClr (k : BitVec 3) (c : Ctl)
  -- events of the thread and of the plot
  | fp6Assist (l : Loc)
  | wordLand (l : Loc) (d : Dir)
  | gangHoldTimeout (l : Loc)
  | barrierFiringArrive (l : Loc) (b : Nat)
  | eventSignalApply (l : Loc)
  | eventActivate (t e : Nat)
  | eventWake (t e : Nat)
  | superstepAdvance (lid : Nat)
  | stageUpdateArrive (l : Loc)
  | iterationEndArrive (l : Loc)
  | logCreditGrant (l : Loc) (sl : Nat)
  | mwaitTimeout (l : Loc)
  | stashRecall (l : Loc) (r entry : Nat) (inval : Bool)
  | ringPointerLand (l : Loc) (h : Nat)
  | windowToggle (l : Loc) (w : Nat)
  -- moves of the ordering machine (R253 to R266)
  | loadSatisfy (l : Loc) (pos : Nat)
  | storeLeave (l : Loc) (pos : Nat)
  | dieBufferDrain (die k : Nat)
  | hostDeliver
  | atomicPerform (l : Loc) (pos : Nat)
  | monarmSatisfy (l : Loc) (pos : Nat)
  | engineCommandStart (l : Loc) (id : Nat)
  | engineRead (l : Loc) (id : Nat)
  | engineProduce (l : Loc) (id : Nat)
  | engineApply (l : Loc) (id : Nat)
  | engineCount (l : Loc) (id : Nat)
  | logMerge (lid : Nat)
  -- slices, walkers, scrub
  | sliceRequestArrive (sl id : Nat)
  | sliceRequestBegin (sl : Nat)
  | sliceDataReturn (sl id : Nat)
  | tokenRefill (sl : Nat)
  | combineReply (sl line : Nat)
  | waymaskDrain (sl t : Nat)
  | pageWalkComplete (l : Loc) (va : Nat) (acc : Access)
  | patrolScrub (line : Nat) (bad : Bool)
  -- link engines (R302 to R314); an engine is named by its reference core and its orientation
  | linkOpenLand (l : Loc) (d : Dir)
  | engineStart (l : Loc) (horiz : Bool)
  | linkCloseLand (l : Loc) (d : Dir)
  | directFeedPush (l : Loc) (d : Dir)
  | engineStep (l : Loc) (horiz : Bool)
  | tileDrainBegin (l : Loc) (horiz : Bool)
  | tileElementApply (l : Loc) (horiz : Bool)
  | deliveryCount (l : Loc) (horiz : Bool)
  | linkWatchdog (l : Loc) (d : Dir)
  | chanElementsLand (l : Loc) (h : Nat)
  -- slice cores (R349 to R351)
  | sliceTrigger (sl t : Nat) (tr : Trigger) (line : Nat) (req : Option Nat)
  | sliceInvocationStart (sl : Nat)
  | sliceBudgetOverrun (sl : Nat)
  -- reductions (R400)
  | ldredRequestArrive (l : Loc)
  | ldredWindowExpiry (k : Nat)
  | ldredResultArrive (l : Loc)
  -- traps and launches
  | asyncTrapTake (l : Loc)
  | faultRecordPost (t : Nat)
  | lqtailWrite (t q : Nat) (v : BitVec 32)
  | launchQueueHead (t q : Nat)
  | launchReadRetry (t q : Nat)
  | launchDequeue (t q : Nat)
  | schedulerPass
  | plotLoadComplete (lid p : Nat)
  | timeSliceExpiry (lid p : Nat)
  | plotSaveComplete (lid p : Nat)
  | launchComplete (lid : Nat)
  | supcmdResume (t : Nat) (launch core : Nat)
  | supcmdSave (t : Nat) (launch core : Nat)
  | supcmdTerminate (t : Nat) (who : SupThread)
  | terminationComplete (lid : Nat)
  -- host registers and service
  | evsigWrite (t name : Nat) (amt : BitVec 32)
  | fqheadWrite (t : Nat) (v : BitVec 32)
  | irqpendWrite (fn : Option Nat) (v : BitVec 8)
  | qbindBind (t : Nat) (v : BitVec 64)
  | qbindUnbind (t : Nat)
  | quinceKeysLoaded (unit slot : Nat)
  | hstatWrite (t : Nat) (v : BitVec 64)
  | attestReport (t : Nat) (nonce : List Byte)
  | keyImport (t : Nat) (blob : List Byte)
  | realmForm (t : Nat) (blob : List Byte)
  | revocation (t : Nat) (blob : List Byte)
  | peerWrite (t p : Nat) (v : BitVec 64)
  | scaleoutFrame (t p : Nat) (frame : List Byte)
  | granuleOwnerWrite (g : Nat) (v : BitVec 8)
  | granuleScrubDone (g : Nat)
  | flr (t : Nat)
  | latusWrite (t : Nat) (v : BitVec 32)
  | registerWrite (fn : Option Nat) (off : Nat) (v : BitVec 64)
  | mgmtDrain (at_ : MgmtTarget)
  | mgmtReinitReturn (at_ : MgmtTarget) (bad : List (Nat × Nat))
  | mgmtRetrainChannel (die ch : Nat)
  | mgmtRetrainBramble (die toward : Nat)
  | mgmtCommandComplete
  | brambleRetrain (k : Nat)
  | brambleRetrainDone (k : Nat)
  | brambleReroute (k : Nat)
  | coreFence (l : Loc)
  | firmwareSwitch
  | powerStateEnter
  | powerWake
  | powerExitComplete
  | powerGood (ok : Bool) (dies : BitVec 4) (failStep : Nat) (bad : List Loc)
  | machineInterrupt
  | tenantEnWrite (t : Nat) (dies : BitVec 4) (en : Bool)
  | hostBar2Access (t va : Nat) (data : Option (List Byte)) (n : Nat)
deriving DecidableEq, Repr

end Sys2Proof
end

