-- ==== Sys2Proof/Config.lean ====
section
/-! DEFINITION. Sys2Proof/Config.lean: what an implementation fixes and the free values. A free value has no body: nothing in
Lean can evaluate it, so a statement that mentions one holds for every value of it. -/

namespace Sys2Proof

/-- What an import blob holds once its tag has verified (R412): the key slot, the tenant key id it carries (R416), the key pair. -/
structure KeyBlob where
  slot : Nat
  keyId : Nat
  pair : List Byte
deriving DecidableEq, Repr

/-- What an encapsulation gives the device (R415): the realm, its key, the tenant key id, the authority's public keys, and the member
table. -/
structure RealmBlob where
  realm : Nat
  key : BitVec 384
  keyId : Nat
  edKey : List Byte
  mlKey : List Byte
  members : List (List Byte)
deriving DecidableEq, Repr

/-- A revocation's fields (R416): the realm, the tenant key id, the serial, the signed bytes and the two signatures. -/
structure RevocationBlob where
  realm : Nat
  keyId : Nat
  serial : BitVec 64
  body : List Byte
  edSig : List Byte
  mlSig : List Byte
deriving DecidableEq, Repr

/-- A firmware image as the control core finds it (R417): its security version, whether both of Tirkor's signatures verify, and whether the
switch to it succeeds. -/
structure Firmware where
  version : BitVec 32
  verified : Bool
  switches : Bool
deriving DecidableEq, Repr

namespace Config

/-- SHA-384 of a byte string (R413). Free value (log 4), as the others here are: the manual names the function and does not define it. -/
opaque sha384 : List Byte → BitVec 384
/-- The Ed25519 signature the device makes over a byte string, 64 bytes (R414). Free value. -/
opaque ed25519Sign : List Byte → BitVec 512
/-- The ML-DSA-65 signature the device makes over a byte string, 3,309 bytes (R414). Free value. -/
opaque mlDsaSign : List Byte → BitVec 26472
/-- Verification of an Ed25519 signature: key, message, signature (R415, R416). Free value. -/
opaque ed25519Verify : List Byte → List Byte → List Byte → Bool
/-- Verification of an ML-DSA-65 signature: key, message, signature (R415, R416). Free value. -/
opaque mlDsaVerify : List Byte → List Byte → List Byte → Bool
/-- An import blob opened under a realm key; none where its tag fails (R412). Free value: the blob's layout is not given. -/
opaque openImport : BitVec 384 → List Byte → Option KeyBlob
/-- An encapsulation decapsulated, with its HKDF-SHA-384 derivation; none where it is malformed (R415). Free value. -/
opaque openRealm : List Byte → Option RealmBlob
/-- A revocation parsed; none where it is malformed (R416). Free value: its layout is not given. -/
opaque openRevocation : List Byte → Option RevocationBlob
/-- A scale-out frame's tag under a peer's key of a generation: realm key, peer, generation, frame (R396). Free value. -/
opaque frameTagOk : BitVec 384 → Nat → Nat → List Byte → Bool
/-- The firmware, microcode and calibration tables a boot measures, in order (R413, R421). Free value. -/
opaque bootElements : List (List Byte)
/-- The security version of the firmware a boot runs (R417). Free value. -/
opaque bootVersion : BitVec 32
/-- Where LPDDR-6 memory reserved to firmware holds a staged image: its physical address and its length (R417). Free value. -/
opaque stagedAt : Nat × Nat
/-- The image that the host gives ROM recovery through the physical function, by the number of updates tried (R417, R421). Free value. -/
opaque hostImage : Nat → List Byte
/-- An image as the check of R417 finds it, by the number of updates tried; none where the bytes are no image. Free value. -/
opaque openFirmware : Nat → List Byte → Option Firmware
/-- The certificate chain from Tirkor's root to the device identity pair (R414). Free value. -/
opaque certChain : List Byte
/-- The key generation that a control frame announces, where its tag verifies under the realm key: realm key, peer, frame (R396). Free
value. -/
opaque announced : BitVec 384 → Nat → List Byte → Option Nat
/-- Module power in mW, averaged over 1 ms, at a cycle (R422). Free value: a measurement. -/
opaque powerMw : BitVec 64 → BitVec 32
/-- Whether a byte of a channel slot that may hold any mixture of old and new after a break holds the new (R393): a move's cycle and
the byte's place. Free value. -/
opaque mixture : Nat → Nat → Bool

/-- A byte of a line encrypted under one key pair and decrypted under another (R241): the two pairs, its address, its plaintext. Free value:
the manual names AES-256-XTS and does not define it. -/
opaque deciphered : List Byte → List Byte → Nat → Byte → Byte

/-- A byte of key memory whose key's page the bind could not translate (R339), by tenant and virtual address. Free value. -/
opaque unloadedKey : Nat → Nat → Byte

/-- What the registers of a thread hold after a parity error in its register file or pipeline (R369: not promised), by the cycle and the
register: a free value. DESIGN CHOICE (log 108). -/
opaque lostX : Nat → Nat → W64
/-- The same of a vector register. DESIGN CHOICE (log 108). -/
opaque lostV : Nat → Nat → V512
/-- The same of a lane mask. DESIGN CHOICE (log 108). -/
opaque lostM : Nat → Nat → W64
/-- The same of the guards. DESIGN CHOICE (log 108). -/
opaque lostG : Nat → BitVec 8

end Config

end Sys2Proof
end

