-- ==== Sys2Proof/Machine/State.lean ====
section
/-! DEFINITION. Sys2Proof/Machine/State.lean: the state of the module as plain data, and the machine right after reset. -/

namespace Sys2Proof.Machine

/-- A finite table with number keys; what an unlisted key reads as is said where the table is read. -/
abbrev Tab (α : Type) := List (Nat × α)

/-- Memory as (address, byte) pairs, addresses strictly rising, no zero byte listed: an unlisted address reads zero (R408: a
granule is scrubbed to zero before a tenant may use it; R16 for local memory). -/
structure Memory where
  cells : List Host.Cell
deriving DecidableEq, Repr

/-- What stops the machine: nothing. The spec gives every instruction and every event an effect, a trap, a stall or a wait, so no meaning
raises a fault. -/
inductive Fault
deriving DecidableEq, Repr

/-- What the machine has no meaning for. -/
inductive Refusal where
  /-- Raised by an arm of `exec` whose instruction has no meaning yet. Safe: the machine stops. -/
  | notModelled (mnemonic : String)
deriving DecidableEq, Repr

/-- What a thread is doing (R14, R24, R363). -/
inductive Run where
  | idle
  | running
  | halted (code : BitVec 8)
  | stopped
  | stalled
deriving DecidableEq, Repr

/-- The trap state and the other system registers of R377 that a thread owns. -/
structure SysRegs where
  xpc : W64
  xcause : W64
  xinfo : Vector W64 4
  tvec : W64
  lpc : W64
  demoted : Bool
  intrap : Bool
  seed : W64
  repstate : W64
  reppc : W64
  repmpc : W64
  hdrsel : W64
  hdrfld : Vector W32 128
  cecnt : W32
  tenant : BitVec 6
deriving DecidableEq, Repr

/-- A stream descriptor as read (R197): base, counts, strides. -/
structure StreamDesc where
  base : Nat
  counts : List Nat
  strides : List Int
deriving DecidableEq, Repr

/-- What a stream port is configured as (R198). -/
inductive StreamMode where
  | idle | load | store
deriving DecidableEq, Repr

/-- A stream generator (R166, R197 to R199): `n` is the next element, and the number moved. -/
structure Stream where
  mode : StreamMode
  desc : StreamDesc
  n : Nat
deriving DecidableEq, Repr

/-- How a ring came to be (R228, R230, R391). -/
inductive RingKind where
  | none | ring
  | plotChan (dx dy : Int)
  | launchChan (d : Int)
deriving DecidableEq, Repr

/-- A ring (R228). For a channel the core also keeps, as producer, its own T and the H that has landed here (R392), and whether
the channel is broken (R394). -/
structure Ring where
  kind : RingKind
  base : Nat
  slot : Nat
  n : Nat
  t : Nat
  h : Nat
  prodT : Nat
  prodH : Nat
  broken : Bool
deriving DecidableEq, Repr

/-- A record of a delivery queue (R307, R373): contract id and result; for results 2 to 4 what LNK.WAIT's trap reports. -/
structure Delivery where
  id : BitVec 16
  result : BitVec 4
  row : Nat
  col : Nat
  refx : Nat
  refy : Nat
deriving DecidableEq, Repr

/-- A window (R226). -/
structure Window where
  init : Bool
  base : Nat
  half : Nat
  side : Bool
  queue : List Delivery
deriving DecidableEq, Repr

/-- A completion counter (R327); OUT is counted from the commands in flight. `record` is the fault record of R329. -/
structure Counter where
  count : W32
  fault : Bool
  fcount : BitVec 8
  record : Vector W64 4
deriving DecidableEq, Repr

/-- A stash entry's state (R223, R224): its index, its physical line and that line's home slice, dirty, owned. -/
structure StashEntry where
  idx : Nat
  line : Nat
  home : Nat
  dirty : Bool
  owned : Bool
deriving DecidableEq, Repr

/-- A stash region (R223): local base, global base, pages, entries present. -/
structure Stash where
  lbase : Nat
  gbase : Nat
  pages : Nat
  entries : List StashEntry
deriving DecidableEq, Repr

/-- The plot a thread belongs to, and its place in it (R119, R160). -/
structure Place where
  launch : Nat
  plot : Nat
  px : Nat
  py : Nat
deriving DecidableEq, Repr

/-- Whose a store is that has left a store buffer: a thread of a plot, which keeps it wherever its plot is placed, or a core outside
every plot (R248, R254). -/
inductive Owner where
  | core (l : Loc)
  | thread (p : Place)
deriving DecidableEq, Repr

/-- A barrier binding of one core (R133, R209, R210): observed firing, the latest firing that has reached the core,
and the phase `after` in which the core's latest arrival was counted. `pend` is an own arrival counted and not yet fired; `sync` the BAR.SYNC whose arrival has been recorded (R205). -/
structure Binding where
  id : Nat
  desc : BitVec 16
  even : Bool
  evname : BitVec 16
  observed : Nat
  reached : Nat
  after : Nat
  pend : Bool
  sync : Option W64
deriving DecidableEq, Repr

/-- A barrier's record at its home core (R133, R134): arrivals by plot-relative position. -/
structure HomeRec where
  id : Nat
  desc : BitVec 16
  phase : Nat
  arrived : List (Nat × Nat)
deriving DecidableEq, Repr

/-- A message of the staged loop on its way to a core (R149): the sender's chain position, its iteration, counter, and whether
the sender has halted. -/
structure StageMsg where
  pos : Nat
  iter : Option Nat
  ctr : BitVec 8
  halted : Bool
deriving DecidableEq, Repr

/-- Staged-loop and step state of a thread (R145 to R149, R142). `taken` counts the iterations returned so far; `pred` is what
the core has seen of its predecessor; `ended` the iterations of the plot whose end it has seen; `begun` the highest iteration
count it has seen begun by its predecessor; `stepEnded` that the end of the current step is recorded, and `sstepAt` the SSTEP that
recorded the latest end and has not returned yet (R205: it is not counted twice). -/
structure Stage where
  cur : Option Nat
  ctr : BitVec 8
  taken : Nat
  exhausted : Bool
  pred : StageMsg
  begun : Nat
  ended : Nat
  msgs : List StageMsg
  ends : Nat
  stepNo : Nat
  stepEnded : Bool
  sstepAt : Option W64
deriving DecidableEq, Repr

/-- A contract block (R294). -/
structure Block where
  id : BitVec 16
  sparse : Bool
  rtout : Bool
  byp : Bool
  red : Bool
  role : Bool
  out : BitVec 4
  fmt : BitVec 4
  m : Nat
  n : Nat
  k : Nat
  twin : Nat
  ty : Nat
  tx : Nat
  restart : W64
deriving DecidableEq, Repr

/-- The mode of a port (R300). -/
inductive PortMode where
  | word | instr | direct
deriving DecidableEq, Repr

/-- A link port's contract state (R300, R316, R319). `seq` numbers this party's contracts on the port; `divert` holds the reason
and RESTART, `mism` the disagreement, the partner's id and the own id of the mismatched contract, `mark` the number of the contract that
the one of them pending is about; `cancelled` the cycle of the partner's LNK.CANCEL (R318). -/
structure Port where
  mode : PortMode
  seq : Nat
  id : BitVec 16
  isOpen : Bool
  closed : Bool
  restart : W64
  fed : Nat
  w : Nat
  feed : Option StreamDesc
  divert : Option (BitVec 8 × W64)
  mism : Option (Nat × BitVec 16 × BitVec 16)
  mark : Nat
  cancelled : Option (BitVec 64)
  result : BitVec 4
  reason : BitVec 8
deriving DecidableEq, Repr

/-- A word of a receiving FIFO (R129): whether it has landed, and the thread that pushed it (R131). -/
structure FifoWord where
  data : V512
  landed : Bool
  pusher : Option Place
deriving DecidableEq, Repr

/-- The latched instruction: the words ILLEGAL and usage faults report (R65), the half-words of its line as fetched, and whether it is a
captured one. -/
structure Ir where
  head : Half
  tail : List Half
  line : W64
  words : List Half
  captured : Bool
deriving DecidableEq, Repr

/-- An instruction captured by a REP (R200): its address, head, tail and line, and the address after it. -/
structure Capture where
  pc : W64
  head : Half
  tail : List Half
  line : W64
  next : W64
deriving DecidableEq, Repr

/-- What the reducing switch answers a request with (R399 to R401). -/
inductive RedStatus where
  | ok (words : List (BitVec 512)) | absent (mask : BitVec 8) | mismatch
deriving DecidableEq, Repr

/-- What a held instruction has already done (R205: it is not counted twice when it is evaluated again). A WIN.PUB keeps the writes into
the back half that had begun before it (R227): drains by engine and contract, commands by issuer, number and writes made. -/
inductive Prog where
  | gang (desc : BitVec 16)
  | barSync
  | stepEnd
  | mwait (start : BitVec 64) (timedOut : Bool)
  | ldredSent (members : List W64) (epoch : Nat)
  | ldredGot (members : List W64) (epoch : Nat) (r : RedStatus)
  | evtSatisfied
  | evtWaiting (e : Nat) (n : W32)
  | portData (w : BitVec 512)
  | assist (done : Bool)
  | shFetch (req : Nat)
  | shAway (since : BitVec 64)
  | tlbinv (ops : List (Loc × Nat)) (pages : List (Nat × Nat))
  | credit (slice : Nat)
  | creditRefused (slice : Nat)
  | winPub (w : Nat) (drains : List (Loc × Bool × Place × Nat)) (cmds : List (Loc × Nat × Nat))
  | ctxWait (launch plot : Nat)
  | badImage
deriving DecidableEq, Repr

/-- A gang formed (R124): its descriptor and the member's transfers since, each its target or that it was not taken (R126). -/
structure Gang where
  desc : BitVec 16
  outs : List (Option W64)
deriving DecidableEq, Repr

/-- Where a load's data goes. -/
inductive LoadDst where
  | x (d : XReg) (sz : LdSize)
  | v (d : BitVec 5)
  | port (d : VOp)
deriving DecidableEq, Repr

/-- The function of an atomic (R275, R276). -/
inductive AtomFn where
  | amo (op : AmoOp) (b : W64)
  | cas (cmp new : W64)
deriving DecidableEq, Repr

/-- The kinds of operation in a program queue (R248). -/
inductive OpKind where
  | load (dst : LoadDst)
  | atomic (f : AtomFn) (d : XReg)
  | fence (k : BitVec 4)
  | monarm
deriving DecidableEq, Repr

/-- An operation of a program queue: position, kind, address, size, ordering, the key slot of its page (R241), and the
slice request that brings its line. -/
structure Op where
  pos : Nat
  kind : OpKind
  va : Nat
  pa : Nat
  n : Nat
  acq : Bool
  rel : Bool
  scope : Scope
  key : Nat
  req : Option Nat
deriving DecidableEq, Repr

/-- A deferred-update entry (R265, R280). -/
structure LogEntry where
  launch : Nat
  tenant : Nat
  slice : Nat
  va : Nat
  pa : Nat
  op : LogOp
  ty : LogTy
  operand : W64
  core : Nat
  seq : W32
deriving DecidableEq, Repr

/-- A store of a store buffer (R248, R254), with the key slot of its page and its slice request; `log` makes it a deferred entry. -/
structure PStore where
  pos : Nat
  va : Nat
  pa : Nat
  data : List Byte
  scope : Scope
  rel : Bool
  key : Nat
  req : Option Nat
  log : Option LogEntry
deriving DecidableEq, Repr

/-- A store of a die buffer or of the outbound queue: whose it is, its position, bytes and address, the cycle it arrived in, and
the key slot of its page. -/
structure BStore where
  owner : Owner
  pos : Nat
  pa : Nat
  data : List Byte
  at_ : BitVec 64
  key : Nat
deriving DecidableEq, Repr

/-- A byte that a write to shared memory has replaced (R248): when, where, and the value; what the write was before it entered memory: a
store of a thread, with its position, and a store that had been in the buffer of a die since a cycle. -/
structure MWrite where
  at_ : BitVec 64
  pa : Nat
  old : Byte
  own : Option (Owner × Nat)
  die : Option (Nat × BitVec 64)
deriving DecidableEq, Repr

/-- A signal on its way to the scheduler table (R213). -/
structure Sig where
  pos : Nat
  ev : Nat
  amt : W32
deriving DecidableEq, Repr

/-- A write an engine has produced (R263): to the issuing core's local memory or the back half of its window, to another core of the
launch (its local memory, or its window's back half), to global memory, to a log. -/
inductive EqWrite where
  | lmem (addr : Nat) (data : List Byte)
  | window (win : Nat) (off : Nat) (data : List Byte)
  | remote (core : Nat) (win : Option Nat) (addr : Nat) (data : List Byte)
  | global (va : Nat) (data : List Byte)
  | logAdd (e : LogEntry) (va : Nat)
deriving DecidableEq, Repr

/-- The parameters of KEYQ and KEYG (R340). -/
structure KeyParams where
  unit : Nat
  ta : Nat
  tb : Nat
  topk : Nat
  vfmt : BitVec 4
  wmode : BitVec 2
  rl : Nat
  owin : Nat
  qaddr : Nat
  qfmt : BitVec 4
  dh : Nat
  vbase : Nat
  gaddr : Nat
  vgrad : Nat
  kgrada : Nat
  kgradb : Nat
deriving DecidableEq, Repr

/-- The engine commands (R326). -/
inductive CmdKind where
  | xcopy (dst src n : Nat) (dir : BitVec 2) (dfmt sfmt : BitVec 4) (rm : RM) (sat : Bool)
  | getx (buf e kind : Nat) (core : Nat) (win : Nat) (addrs : List (Nat × Nat))
  | placex (buf e kind : Nat) (core : Nat) (win : Nat) (addrs : List (Nat × Nat))
  | compact (win rows rb : Nat) (mask : W64) (dst lst : Nat)
  | keyq (p : KeyParams)
  | keyg (p : KeyParams) (seq : W32)
  | slmsg (msg reply : Nat) (sl : Nat)
deriving DecidableEq, Repr

/-- An exact float, or a NaN or infinity: `fin neg m e` is (−1)^neg · m · 2^e. -/
inductive FVal where
  | nan
  | inf (neg : Bool)
  | fin (neg : Bool) (m : Nat) (e : Int)
deriving DecidableEq, Repr

/-- A Quince slot's binding (R339, R409). `pages` are the physical pages of its keys with
their key slots, as translated when the keys were loaded. -/
structure QSlot where
  tenant : Nat
  valid : Bool
  busy : Bool
  fmt : BitVec 4
  n : Nat
  d : Nat
  keyBase : Nat
  pages : List (Option (Nat × Nat))
deriving DecidableEq, Repr

/-- What a command's ranking gives (R342): per rank the two keys' indices, the sum and the weight. -/
structure Ranked where
  a : Nat
  b : Nat
  idx : Nat
  score : FVal
  weight : FVal
deriving DecidableEq, Repr

/-- The bindings a KEYQ or KEYG uses, and its ranks once it has read the keys (R339, R342). -/
structure KeyRun where
  ta : QSlot
  tb : QSlot
  ranks : List Ranked
deriving DecidableEq, Repr

/-- An engine command in flight (R263, R326): `idx` the next read, `buf` bytes read and not yet produced,
`src` source bytes not yet converted (KEYQ and KEYG: all it has read), `dst` converted bytes not yet written, `kept` the elements
written (COMPACT: the rows kept), `made` the writes produced, `hint` the HINT of its control word (R58), `req` the slice
requests of its next read, `wreq` those of its queue's oldest write, `eq` the engine queue, `done` that every write has been produced. A command is `paused` when it waits
on a write held under R246, or for a target that is not resident (R330). -/
structure Cmd where
  id : Nat
  pos : Nat
  ctr : Nat
  opc : Nat
  pc : W64
  kind : CmdKind
  started : Bool
  idx : Nat
  kept : Nat
  buf : Option (List Byte)
  src : List Byte
  dst : List Byte
  key : Option KeyRun
  made : Nat
  hint : Nat
  req : List Nat
  wreq : List Nat
  eq : List EqWrite
  done : Bool
  paused : Bool
deriving DecidableEq, Repr

/-- A TLB entry (R244): tenant, page base and size in bytes, the leaf entry as read, its physical base. -/
structure TlbEntry where
  tenant : Nat
  va : Nat
  size : Nat
  pte : W64
deriving DecidableEq, Repr

/-- A unit whose corrected errors are counted (R368): a core's memories and FIFOs, a slice, a die's stack, a die's DRAM channel. -/
inductive ErrUnit where
  | core (l : Loc)
  | slice (sl : Nat)
  | stack (die : Nat)
  | dram (die ch : Nat)
deriving DecidableEq, Repr

/-- A core and its thread. `badLocal` are the 64-byte blocks of local memory with an uncorrectable error, `soft` its 64-bit words with a
single-bit error, `wordErr` the retries that the next pop of a receiving FIFO needs, `regBad` a parity error in the registers or a pipeline,
all of them not found yet (R368, R369). `fenceAt` and `fencePos` are the cycle and the program position of its latest IFENCE, or of its start: the
bound of R267. `kept` is the target of a transfer within its line, which makes no fetch (R291); `portSince` the slice, its port, and the cycle
since which the thread's global access has stalled on that queue (R292); `inRep` that the thread executes a
repetition block now, and is not in a handler that interrupted one; `captures` the block's instructions (R200, R203). `mon` is the physical line an armed monitor watches,
and the address it was armed on (R266). `barred` are the positions of the operations and stores that a new translation has refused (R246). -/
structure Core where
  loc : Loc
  run : Run
  place : Option Place
  codeBase : W64
  codeLimit : W64
  pc : W64
  npc : W64
  ir : Ir
  kept : Option W64
  portSince : Option (Nat × Nat × BitVec 64)
  inRep : Bool
  captures : List Capture
  held : Bool
  prog : Option Prog
  x : Vector W64 32
  g : BitVec 8
  v : Vector V512 32
  m : Vector W64 8
  bankfmt : Vector W64 12
  sys : SysRegs
  lmem : Memory
  badLocal : List Nat
  soft : List Nat
  wordErr : List (Nat × Nat)
  regBad : Bool
  streams : Vector Stream 4
  fifo : Vector (List FifoWord) 4
  ports : Vector Port 4
  rings : Vector Ring 8
  wins : Vector Window 16
  ctrs : Vector Counter 8
  stashes : Vector (Option Stash) 4
  linebuf : List Nat
  mon : Option (Nat × Nat)
  trig : Bool
  bindings : List Binding
  homes : List HomeRec
  stage : Stage
  gang : Option Gang
  yielded : Bool
  diverted : Bool
  pos : Nat
  pq : List Op
  sb : List PStore
  sigs : List Sig
  cmds : List Cmd
  cmdNo : Nat
  logSeq : W32
  credits : Tab Nat
  tlb : List TlbEntry
  walk : Option (Nat × Access)
  fenceAt : BitVec 64
  fencePos : Nat
  uncorrected : Option (Nat × W64 × W64)
  barred : List Nat
  linkstall : List (Nat × BitVec 16)
  chanbroken : List Nat
  slowUntil : BitVec 64
deriving DecidableEq, Repr

/-- A word an engine step has consumed, with the scales and metadata read for it (R297, R298). -/
structure StepRec where
  a : V512
  b : V512
  scaleA : List Byte
  scaleB : List Byte
  meta_ : List Byte
deriving DecidableEq, Repr

/-- One party's contract at an engine (R302 to R305): its number, the party's thread and the thread at the link's other end when it
opened, landed open, words fed (and whether they have landed), close sent with its program position, close landed. `kept` is the local
memory of a party whose plot has completed (R325). -/
structure Open where
  seq : Nat
  party : Place
  partner : Option Place
  block : Block
  metaBase : Nat
  scaleBase : Nat
  landed : Bool
  words : List (V512 × Bool)
  closePos : Option Nat
  closed : Bool
  kept : Option Memory
deriving DecidableEq, Repr

/-- A held tile (R309): its values in row-major order. -/
structure Tile where
  m : Nat
  n : Nat
  vals : List FVal
deriving DecidableEq, Repr

/-- What an engine is doing with its matched contract. -/
inductive EngPhase where
  | stepping
  | draining (q : Nat)
deriving DecidableEq, Repr

/-- A matched contract (R302, R306, R307). `redDiff` is the first place where an error of the hardware has made the redundant copies
differ, `parityBad` a parity error of its accumulators or operand words (R310), `retries` what the next operand word needs (R368). `west` and
`east` are the parties' threads (north and south for a vertical link), `third` the third party's. -/
structure EngRun where
  aSeq : Nat
  bSeq : Nat
  west : Place
  east : Place
  third : Place
  block : Block
  aWest : Bool
  started : Bool
  step : Nat
  recs : List StepRec
  byp : Option Tile
  phase : EngPhase
  out : List (List Byte)
  tile : Option Tile
  result : Delivery
  redDiff : Option (Nat × Nat)
  parityBad : Bool
  retries : Nat
deriving DecidableEq, Repr

/-- A link engine, by its reference core and orientation: the west or north party's contracts in order, the east or south
party's, the running one, the deliveries not yet counted (with elements to apply), the held tile with its two parties. -/
structure LinkEngine where
  ref : Loc
  horiz : Bool
  w : List Open
  e : List Open
  run : Option EngRun
  pending : List EngRun
  held : Option (Place × Place × Tile)
deriving DecidableEq, Repr

/-- The kinds of slice request (R232, R237); `log` is a LOG's append, which touches no line. -/
inductive ReqKind where
  | read | write | partialWrite | atomic | own | log
deriving DecidableEq, Repr

/-- Where a slice request stands (R232, R236, R349): on its way, queued at a port, joined to a combining window, answered by the window's
reply and not read yet, begun; after a miss, held by the EVICT trigger of its victim, before its MISS trigger, before its FILL trigger, and
filled. -/
inductive ReqState where
  | transit | queued (port : Nat) | joined | answered | begun | evicting (victim : Nat) | missed | filling | filled
deriving DecidableEq, Repr

/-- Who sends a slice request (R232, R292): a thread, an engine for it, a slice core, a page walker. -/
inductive ReqAgent where
  | core | engine | slice | walker
deriving DecidableEq, Repr

/-- A slice request (R232): who, which line and address, how large, with which hint; where it stands, and since when. `waits` is the cycle
since which it has waited in its sender for an entry of port 4 (R292), `late` that a combining window of its line was open when it
arrived (R236), `quiet` that it raises no trigger (R349), `cnt` what the contention predictor counted for its line when it reached the
slice (R239). `owner` is its core, a command's issuing core included, `die` the die that it is sent from. -/
structure Req where
  id : Nat
  agent : ReqAgent
  owner : Loc
  die : Nat
  va : Nat
  slice : Nat
  line : Nat
  tenant : Nat
  kind : ReqKind
  hint : Nat
  cmb : Bool
  st : ReqState
  at_ : BitVec 64
  waits : Option (BitVec 64)
  late : Bool
  quiet : Bool
  cnt : Nat
deriving DecidableEq, Repr

/-- A line held in a slice (R232 to R235): `sharers` are the slices that keep a requester-side copy and the cores that keep a stash
entry, `owner` the core that owns it. -/
structure SliceLine where
  line : Nat
  way : Nat
  tenant : Nat
  dirty : Bool
  keep : Bool
  copy : Bool
  sharers : List Loc
  owner : Option Loc
deriving DecidableEq, Repr

/-- A token bucket (R237). -/
structure Bucket where
  tenant : Nat
  port : Nat
  rate : Nat
  depth : Nat
  tokens : Nat
deriving DecidableEq, Repr

/-- An open combining window (R236). -/
structure Combine where
  line : Nat
  opened : BitVec 64
  joined : List Nat
deriving DecidableEq, Repr

/-- A queued slice trigger (R349): its line, and the line's offset from LO; of a message, the thread that sent it, the command's number
and the reply area. -/
structure Trig where
  tenant : Nat
  kind : Trigger
  line : Nat
  off : Nat
  reqId : Option Nat
  requester : Option Nat
  msg : List Byte
  from_ : Option (Owner × Nat × Nat)
deriving DecidableEq, Repr

/-- A registered slice handler image (R347 to R351). `pages` is its range made physical: virtual and physical address and size (R348);
`recent` the cycles of its latest overruns. -/
structure SliceReg where
  tenant : Nat
  launch : Nat
  kind : Trigger
  lo : Nat
  hi : Nat
  pages : List (Nat × Nat × Nat)
  budget : Nat
  code : List Byte
  codeAt : Nat
  dataAt : Nat
  dlen : Nat
  recent : List (BitVec 64)
deriving DecidableEq, Repr

/-- What HSTAT holds of a tenant's trigger at a slice, whatever is registered there (R351, R409): disabled, and the two counts. -/
structure TrigStat where
  tenant : Nat
  kind : Trigger
  disabled : Bool
  skips : Nat
  overruns : Nat
deriving DecidableEq, Repr

/-- A running invocation (R346, R350, R351): its trigger, the cycle its budget started, the reply sent; the bound lines with their
positions, and the accumulator. -/
structure Invocation where
  trig : Trig
  reg : SliceReg
  start : Option (BitVec 64)
  replied : Bool
  f0 : Option (List Byte × Nat)
  f1 : Option (List Byte × Nat)
  f2 : V512
deriving DecidableEq, Repr

/-- An L2 slice and its slice core's queues (R232 to R239, R265, R346 to R351). `began` is the cycle of its latest begin (R293), `pass` the
launch whose merge pass the slice core runs (R356). -/
structure Slice where
  lines : List SliceLine
  plru : Tab (BitVec 15)
  pred : Tab (BitVec 2)
  lastPort : Nat
  began : Option (BitVec 64)
  buckets : List Bucket
  pools : Tab Nat
  poolNext : Tab Nat
  combines : List Combine
  log : List LogEntry
  granted : Tab Nat
  regs : List SliceReg
  stats : List TrigStat
  trigs : List Trig
  pass : Option Nat
  inv : Option Invocation
deriving DecidableEq, Repr

/-- A decoded launch command (R154). -/
structure Command where
  nbound : Nat
  nwait : Nat
  sigen : Bool
  prio : Nat
  chain : Nat
  indcnt : Bool
  cores : Bool
  throttle : Nat
  h : Nat
  w : Nat
  ty : Nat
  count : Nat
  codeBase : W64
  codeLimit : W64
  entry : W64
  localSrc : W64
  localUse : Nat
  localLen : Nat
  arg : W64
  countAddr : W64
  waits : List (BitVec 16 × W32)
  sname : BitVec 16
  samt : W32
  sliceDesc : W64
  boundTab : W64
  exitAddr : W64
  mbz : Bool
deriving DecidableEq, Repr

/-- A bound field entry (R155). -/
structure BoundEntry where
  addr : W64
  mbz : Bool
  tied : Bool
  idx : Nat
deriving DecidableEq, Repr

/-- The head of a launch queue as read once (R157, R158). -/
structure HeadCmd where
  cmd : Command
  bounds : List BoundEntry
  satisfied : List Bool
deriving DecidableEq, Repr

/-- A launch queue (R152, R409). `blocked` is the translation fault that holds the command (R157): trap code, level and address; `reads` what
the reads made for the command since its last check have returned, in their order: each is made once (R157, R159). -/
structure LQueue where
  base : W64
  k : Nat
  head : W32
  tail : W32
  cur : Option HeadCmd
  blocked : Option (Nat × Nat × Nat)
  reads : List (List Byte)
deriving DecidableEq, Repr

/-- A fault record waiting for its place in the queue (R364, R365): its words but SEQ. -/
structure Record where
  kind : BitVec 8
  code : BitVec 8
  queue : BitVec 4
  slot : BitVec 12
  launch : W32
  core : W32
  plot : W32
  xpc : W64
  xinfo : Vector W64 4
deriving DecidableEq, Repr

/-- A peer slot of a tenant (R396, R409). -/
structure Peer where
  v : Bool
  unreach : Bool
  ports : BitVec 8
  member : BitVec 16
  fails : Nat
  gen : Nat
  rxCtr : Nat
deriving DecidableEq, Repr

/-- A realm (R415, R416). -/
structure Realm where
  id : Nat
  key : BitVec 384
  keyId : Nat
  edKey : List Byte
  mlKey : List Byte
  members : List (List Byte)
deriving DecidableEq, Repr

/-- A tenant: its grants (R407), its registers (R409), its scheduler state. `images` are the images of the plots that SAVE holds, each with
launch and plot, the latest first, which BAR4 shows (R366, R409); one whose plot has been resumed since is no plot's. -/
structure Tenant where
  en : Bool
  dies : BitVec 4
  policy : Nat
  sliceUs : Nat
  latUs : W32
  ctxMib : Nat
  logCap : Nat
  waymask : Tab (BitVec 16)
  ptroot : W64
  tstat : BitVec 2
  queues : Tab LQueue
  fqBase : W64
  fqK : Nat
  fqHead : W32
  fqTail : W32
  records : List Record
  events : Tab W32
  evsel : BitVec 16
  supcmd : W64
  supaddr : W64
  irqen : BitVec 8
  irqpend : BitVec 8
  msix : Tab W32
  pba : BitVec 8
  msgs : Nat
  hsel : BitVec 10
  qsel : BitVec 10
  qrefused : Tab (Bool × Bool)
  qkeyBases : Tab W64
  peers : Tab Peer
  attest : List Byte
  chain : BitVec 384
  realm : Option Realm
  launches : Nat
  dequeues : Nat
  images : List (Option (Nat × Nat) × List Byte)
  corrected : Nat
deriving DecidableEq, Repr

/-- The state of a plot (R161, R162, R370). -/
inductive PlotSt where
  | pending
  | loading (die ox oy : Nat)
  | resident (die ox oy : Nat)
  | saving (die ox oy : Nat)
  | saved
  | done
deriving DecidableEq, Repr

/-- A plot of a launch. `home` is the rectangle it last stood on (R131, R162); `threads` the saved threads, by plot-relative
position in row-major order, and `snap` what they were when the save completed (R373); `hold` that a supervisor SAVE holds it (R366);
`pinned` R131 and R312. -/
structure Plot where
  st : PlotSt
  home : Option (Nat × Nat × Nat)
  pinned : Bool
  hold : Bool
  age : BitVec 64
  sliceStart : BitVec 64
  threads : List Core
  snap : List Core
deriving DecidableEq, Repr

/-- A reduction group declared in a resource table (R390): member launch-relative cores. -/
structure ResTable where
  rings : List Ring
  groups : List (List Nat)
  wins : List Window
deriving DecidableEq, Repr

/-- A dequeued launch (R159 to R164). `credits` are the log credits its ended threads left, by slice (R281). -/
structure Launch where
  id : Nat
  tenant : Nat
  number : W32
  queue : Nat
  slot : Nat
  cmd : Command
  count : Nat
  bound : List W64
  image : List Byte
  table : ResTable
  age : BitVec 64
  plots : List Plot
  exits : List (Nat × BitVec 8)
  ending : Bool
  credits : List (Nat × Nat)
deriving DecidableEq, Repr

/-- A reduction group of a core (R397), kept in the tenant's switch tables. -/
structure Group where
  launch : Nat
  core : Nat
  k : Nat
  members : List W64
  base : Nat
  epoch : Nat
deriving DecidableEq, Repr

/-- A request of an LDRED that counts in a window (R399, R400): its member index, core, the local address of its contribution, and its
output format. -/
structure RedReq where
  member : Nat
  core : Nat
  loc : Loc
  addr : Nat
  outB : Bool
deriving DecidableEq, Repr

/-- A reduction window (R400): open, with the requests that count and the members already answered MISMATCH; or closed, kept for the
members in `left`, which had not requested at the close (R404). -/
structure RedWin where
  launch : Nat
  members : List W64
  epoch : Nat
  die : Nat
  opened : BitVec 64
  off : W64
  inB : Bool
  reqs : List RedReq
  mism : Bool
  answered : List Nat
  closed : Option RedStatus
  left : List Nat
deriving DecidableEq, Repr

/-- A message on its way to a core: an LDRED request on its way to the switch of a die, or a result from there, channel elements, a ring
pointer, the firing of a barrier on its way to every member of its sub-rectangle, of which `p` is one. -/
inductive Msg where
  | redReq (launch core : Nat) (members : List W64) (epoch : Nat) (loc : Loc) (addr : Nat) (off : W64) (inB outB : Bool) (die : Nat)
  | redRes (launch core : Nat) (members : List W64) (epoch : Nat) (r : RedStatus) (die : Nat)
  | chanData (launch core ring : Nat) (src : Nat) (slot : Nat) (data : List Byte) (die : Nat)
  | ringPtr (launch core ring : Nat) (head : Nat) (die : Nat)
  | firing (p : Place) (barrier : Nat) (desc : BitVec 16) (phase : Nat)
deriving DecidableEq, Repr

/-- A line of a memory-side cache stack (R240). -/
structure StackLine where
  line : Nat
  dirty : Bool
deriving DecidableEq, Repr

/-- A Bramble link (R386, R389). -/
structure Bramble where
  retraining : Option (BitVec 64)
  down : Bool
deriving DecidableEq, Repr

/-- A die: its buffer, its last-level TLB, its memory-side cache stack, newest use first, its service state (R248, R244, R240, R423). -/
structure Die where
  db : List BStore
  tlb : List TlbEntry
  stack : List StackLine
  drained : Bool
deriving DecidableEq, Repr

/-- A leaf and the physical addresses of the entries of its group that hold it (R243). -/
structure LeafSite where
  ats : List Nat
  leaf : TlbEntry
deriving DecidableEq, Repr

/-- A channel's retraining (R424): the pages still to come; those of the batch in hand, whose lines on the channel the die's stack holds
pinned once they are copied; whether they are, and whether their leaves are restored; and what the batch's TLBINVs wait for. -/
structure Retrain where
  die : Nat
  ch : Nat
  todo : List LeafSite
  batch : List LeafSite
  copied : Bool
  restored : Bool
  ops : List (Loc × Nat)
  pages : List (Nat × Nat)
deriving DecidableEq, Repr

/-- A power transition (R419). -/
inductive Power where
  | at (a : BitVec 3)
  | exiting (dest : BitVec 3)
deriving DecidableEq, Repr

/-- The physical function's registers and the firmware's own state (R413, R417, R422). `cmd` are the fields of MGMTCMD as written; `fwDead` that
the running image has failed, or that the boot found none that verifies, so that ROM recovery waits for an image. -/
structure Mgmt where
  phase : BitVec 2
  diesOk : BitVec 4
  failStep : BitVec 4
  cmd : BitVec 12
  busy : Bool
  irqen : BitVec 8
  irqpend : BitVec 8
  msix : Tab W32
  pba : BitVec 8
  msgs : Nat
  fenced : List Loc
  fencing : List Loc
  power : Power
  machineIrq : Bool
  chain : BitVec 384
  fwVersion : BitVec 32
  epoch : BitVec 32
  fwTried : Nat
  fwFailed : Bool
  fwDead : Bool
  retrain : Option Retrain
  revoked : List (Nat × Nat)
  serials : Tab (BitVec 64)
deriving DecidableEq, Repr

/-- One entry of the agenda: the machine's next move, when something outside or a chosen order fixes it (R251): an event, a core to be
looked at, the next instruction of a core's thread, or one of its main stream that issues while runs of a repetition block proceed (R202). -/
inductive Move where
  | ev (i : Instr)
  | focus (l : Loc)
  | issue (l : Loc)
  | ahead (l : Loc)
deriving DecidableEq, Repr

/-- What waits for a named event (R139): a thread, or the command at the head of a launch queue. -/
inductive Waiter where
  | thread (l : Loc)
  | command (q : Nat)
deriving DecidableEq, Repr

/-- An entry of the scheduler table (R139): its event, its 8 waiter slots, and the overflow list of the further waiters. -/
structure EvEntry where
  tenant : Nat
  event : Nat
  slots : List Waiter
  overflow : List Waiter
deriving DecidableEq, Repr

/-- A host write that has arrived and is not performed yet (R153, R246, R409): bytes through BAR2, or an EVSIG or a queue's tail, which wait for
the BAR2 writes before them. -/
inductive HostWrite where
  | data (tenant off : Nat) (bytes : List Byte)
  | evsig (tenant name : Nat) (amt : W32)
  | tail (tenant q : Nat) (v : W32)
deriving DecidableEq, Repr

/-- A read of device memory by a host agent (R256): where it reads, and how many of the OB stores present at its arrival are still to be
delivered. -/
structure HostRead where
  tenant : Nat
  off : Nat
  n : Nat
  wait : Nat
deriving DecidableEq, Repr

/-- The module. `mlog` holds, newest first, what the writes to shared memory replaced: with `mem` it is every byte's coherence order
(R248). `hostWrites` and `hostReads` are the host agents' accesses not yet performed, oldest first, `hostData` the latest read's answer: its
bytes, or Unsupported Request (R409).
`sealed` names the key pair under which each line was last written (R241), `locks` the leaves on whose pages' lines the
home slices have set their directory locks (R247).
`softLines` and `badLines` are the lines of global memory with a single-bit and an uncorrectable error that nothing has found yet, `errs` the
corrected errors of each unit (R368, R369).
`stale` chooses for the next fetches how many of the newest values of each byte a fetch does not see yet (R267). `core` is the core whose thread is looked at; `cores` the other cores that are not idle and fresh. -/
structure State where
  core : Core
  cores : List Core
  cycle : BitVec 64
  mem : Memory
  mlog : List MWrite
  host : Memory
  ob : List BStore
  hostWrites : List HostWrite
  hostReads : List HostRead
  hostData : Option (HostRead × Option (List Byte))
  dies : Vector Die 4
  sealed : Tab (List Byte)
  locks : List TlbEntry
  poison : Tab (BitVec 128)
  softLines : List Nat
  badLines : List Nat
  errs : List (ErrUnit × Nat)
  deadGranules : List Nat
  owners : Tab (BitVec 8)
  scrubbing : List Nat
  keys : Tab Nat
  keyPairs : Tab (List Byte)
  tenants : Tab Tenant
  launches : List Launch
  launchNo : Nat
  quince : List (Nat × Nat × QSlot)
  engines : List LinkEngine
  reqs : List Req
  reqNo : Nat
  slices : Tab Slice
  groups : List Group
  redWins : List RedWin
  msgs : List Msg
  brambles : Vector Bramble 4
  active : List EvEntry
  mgmt : Mgmt
  agenda : List Move
  plan : List Bool
  stale : List (List Nat)
  background : Bool
  rot : Nat
deriving DecidableEq, Repr

/-- A trap with what it writes to XINFO0 to XINFO3 (R25, R360). -/
structure TrapInfo where
  code : Nat
  i0 : W64
  i1 : W64
  i2 : W64
  i3 : W64
deriving DecidableEq, Repr

/-- A translation's answer (R242 to R247, R361): a physical address with its leaf; no TLB entry yet; held (R246, R408); refused,
with trap code and level. -/
inductive Tr where
  | hit (pa : Nat) (pte : W64)
  | miss
  | wait
  | refuse (code level : Nat)
deriving DecidableEq, Repr

/-- How an instruction's own effect ends (step 9 of R65): done, and the thread goes on at the next instruction; done with a control
transfer; held, having done only what the state holds; a precise trap; a trap whose taking consumes what `s` no longer holds (R13);
a stall on a refused translation; a wait for a page walk. -/
inductive Res where
  | ok (s : State)
  | goto (s : State) (pc : W64)
  | hold (s : State)
  | trap (t : TrapInfo)
  | trapIn (s : State) (t : TrapInfo)
  | stall (code level : Nat) (acc : Access) (va : Nat)
  | walk (acc : Access) (va : Nat)
deriving DecidableEq, Repr

/-- What reading a code line answers (R21, R22): its 32 half-words, no TLB entry yet, held, or refused. -/
inductive Line where
  | halves (hs : List Half)
  | miss
  | wait
  | refuse (code level : Nat)
deriving DecidableEq, Repr

/-- What fetching the instruction at the PC answers (R21): the head and its tail with NextSeq, a trap, a stall, a page walk, a
wait, or a poisoned line. -/
inductive Fetched where
  | instr (ir : Ir) (next : W64)
  | trap (t : TrapInfo)
  | stall (code level va : Nat)
  | walk (va : Nat)
  | wait
  | poisoned (base : W64)
deriving DecidableEq, Repr

/-! ## Reset -/

/-- A TLB-less, idle core: what R14, R16, R166, R228, R226 and R327 give a thread at its start, with no plot. DESIGN CHOICE (log 5). -/
def SysRegs.start (t : BitVec 6) : SysRegs :=
  { xpc := 0, xcause := 0, xinfo := Vector.replicate 4 0, tvec := 0, lpc := 0, demoted := false, intrap := false, seed := 0x2545F491,
    repstate := 0, reppc := 0, repmpc := 0, hdrsel := 0, hdrfld := Vector.replicate 128 0, cecnt := 0, tenant := t }

def Stream.start : Stream := { mode := .idle, desc := { base := 0, counts := [], strides := [] }, n := 0 }
def Port.start : Port :=
  { mode := .word, seq := 0, id := 0, isOpen := false, closed := false, restart := 0, fed := 0, w := 0, feed := none,
    divert := none, mism := none, mark := 0, cancelled := none, result := 0, reason := 0 }
def Ring.start : Ring :=
  { kind := .none, base := 0, slot := 0, n := 0, t := 0, h := 0, prodT := 0, prodH := 0, broken := false }
def Window.start : Window := { init := false, base := 0, half := 0, side := false, queue := [] }
def Counter.start : Counter := { count := 0, fault := false, fcount := 0, record := Vector.replicate 4 0 }
def Stage.start : Stage :=
  { cur := none, ctr := 0, taken := 0, exhausted := false, pred := { pos := 0, iter := none, ctr := 0, halted := false },
    begun := 0, ended := 0, msgs := [], ends := 0, stepNo := 0, stepEnded := false, sstepAt := none }

/-- A thread's start (R14, R16, R166) on core `l`, not yet running. -/
def Core.start (l : Loc) (t : BitVec 6) : Core :=
  { loc := l, run := .idle, place := none, codeBase := 0, codeLimit := 0, pc := 0, npc := 0,
    ir := { head := 0, tail := [], line := 0, words := [], captured := false }, kept := none, portSince := none, inRep := false, captures := [], held := false, prog := none,
    x := Vector.replicate 32 0, g := 1, v := Vector.replicate 32 0,
    m := #v[BitVec.allOnes 64, 0, 0, 0, 0, 0, 0, 0], bankfmt := Vector.replicate 12 0, sys := SysRegs.start t,
    lmem := { cells := [] }, badLocal := [], soft := [], wordErr := [], regBad := false, streams := Vector.replicate 4 Stream.start, fifo := Vector.replicate 4 [],
    ports := Vector.replicate 4 Port.start, rings := Vector.replicate 8 Ring.start, wins := Vector.replicate 16 Window.start,
    ctrs := Vector.replicate 8 Counter.start, stashes := Vector.replicate 4 none, linebuf := [], mon := none, trig := false,
    bindings := [], homes := [], stage := Stage.start, gang := none, yielded := false, diverted := false, pos := 0, pq := [], sb := [], sigs := [],
    cmds := [], cmdNo := 0, logSeq := 0, credits := [], tlb := [], walk := none, fenceAt := 0, fencePos := 0, uncorrected := none,
    barred := [], linkstall := [], chanbroken := [], slowUntil := 0 }

/-- DESIGN CHOICE (log 7). -/
def Slice.start : Slice :=
  { lines := [], plru := [], pred := [], lastPort := 4, began := none, buckets := [], pools := [], poolNext := [], combines := [], log := [],
    granted := [], regs := [], stats := [], trigs := [], pass := none, inv := none }

/-- DESIGN CHOICE (log 6). -/
def LQueue.start : LQueue := { base := 0, k := 2, head := 0, tail := 0, cur := none, blocked := none, reads := [] }

def Peer.start : Peer :=
  { v := false, unreach := false, ports := 0, member := 0, fails := 0, gen := 0, rxCtr := 0 }

/-- A tenant's registers at reset (R407, R409, R411; the values R409 gives no reset for are the log's). DESIGN CHOICE (log 6). -/
def Tenant.start : Tenant :=
  { en := false, dies := 0, policy := 0, sliceUs := 2000, latUs := 0xFFFFFFFF, ctxMib := 0, logCap := 4096, waymask := [],
    ptroot := 0, tstat := 0, queues := [], fqBase := 0, fqK := 4, fqHead := 0, fqTail := 0, records := [], events := [],
    evsel := 0, supcmd := 0, supaddr := 0, irqen := 0, irqpend := 0, msix := [], pba := 0, msgs := 0, hsel := 0, qsel := 0,
    qrefused := [], qkeyBases := [], peers := [], attest := [], chain := 0, realm := none, launches := 0,
    dequeues := 0, images := [], corrected := 0 }

def Die.start : Die := { db := [], tlb := [], stack := [], drained := false }

def Mgmt.start : Mgmt :=
  { phase := 0, diesOk := 0, failStep := 0, cmd := 0, busy := false, irqen := 0, irqpend := 0, msix := [], pba := 0, msgs := 0, fenced := [], fencing := [],
    power := .at 0, machineIrq := false, chain := 0, fwVersion := 0, epoch := 0, fwTried := 0, fwFailed := false, fwDead := false, retrain := none,
    revoked := [], serials := [] }

/-- The module right after reset: booting (R422), every core idle, no tenant, memory with nothing listed.
DESIGN CHOICE (log 5, 6, 7, 8, 10). -/
def State.reset : State :=
  { core := Core.start { kind := .compute, die := 0, x := 0, y := 0 } 0, cores := [], cycle := 0, mem := { cells := [] },
    mlog := [], host := { cells := [] }, ob := [], hostWrites := [], hostReads := [], hostData := none, dies := Vector.replicate 4 Die.start, sealed := [], locks := [], poison := [], softLines := [], badLines := [], errs := [], deadGranules := [], owners := [], scrubbing := [],
    keys := [], keyPairs := [], tenants := [], launches := [], launchNo := 0, quince := [], engines := [], reqs := [], reqNo := 0, slices := [],
    groups := [], redWins := [], msgs := [], brambles := Vector.replicate 4 { retraining := none, down := false }, active := [],
    mgmt := Mgmt.start, agenda := [], plan := [], stale := [], background := false, rot := 0 }

end Sys2Proof.Machine
end

