-- ==== Sys2Proof/Machine/Num.lean ====
section
/-! DEFINITION. Sys2Proof/Machine/Num.lean: the number formats, exact arithmetic on decoded values, rounding and conversion (R67 to
R87), and the functions of R177. Every value is exact until one rounding. -/

namespace Sys2Proof.Machine

/-- Which encodings are no finite numbers (R68). -/
inductive FKind where
  | ieee | e4m3 | finite
deriving DecidableEq, Repr

/-- A floating-point layout (R68): exponent and mantissa bits, bias, specials. -/
structure FFmt where
  eb : Nat
  mb : Nat
  bias : Int
  kind : FKind
deriving DecidableEq, Repr

def fF64 : FFmt := { eb := 11, mb := 52, bias := 1023, kind := .ieee }
def fF32 : FFmt := { eb := 8, mb := 23, bias := 127, kind := .ieee }
def fBF16 : FFmt := { eb := 8, mb := 7, bias := 127, kind := .ieee }
def fF16 : FFmt := { eb := 5, mb := 10, bias := 15, kind := .ieee }
def fE4M3 : FFmt := { eb := 4, mb := 3, bias := 7, kind := .e4m3 }
def fE5M2 : FFmt := { eb := 5, mb := 2, bias := 15, kind := .ieee }
def fE3M2 : FFmt := { eb := 3, mb := 2, bias := 3, kind := .finite }
def fE2M3 : FFmt := { eb := 2, mb := 3, bias := 1, kind := .finite }
def fE2M1 : FFmt := { eb := 2, mb := 1, bias := 1, kind := .finite }

def FFmt.width (f : FFmt) : Nat := 1 + f.eb + f.mb

/-- The value of an encoding (R68). -/
def fdec (f : FFmt) (bits : Nat) : FVal :=
  let m := bits % 2 ^ f.mb
  let e := (bits / 2 ^ f.mb) % 2 ^ f.eb
  let neg := (bits / 2 ^ (f.mb + f.eb)) % 2 == 1
  if f.kind = .ieee && e = 2 ^ f.eb - 1 then (if m = 0 then .inf neg else .nan)
  else if f.kind = .e4m3 && e = 2 ^ f.eb - 1 && m = 2 ^ f.mb - 1 then .nan
  else if e = 0 then .fin neg m (1 - f.bias - f.mb)
  else .fin neg (2 ^ f.mb + m) (e - f.bias - f.mb)

/-- The canonical NaN (R68); the formats without one convert a NaN to +0 (R81). -/
def FFmt.nan (f : FFmt) : Nat :=
  match f.kind with
  | .ieee => (2 ^ f.eb - 1) * 2 ^ f.mb + 2 ^ (f.mb - 1)
  | .e4m3 => 2 ^ (f.eb + f.mb) - 1
  | .finite => 0

/-- The sign bit of an encoding. -/
def FFmt.sign (f : FFmt) (neg : Bool) : Nat := if neg then 2 ^ (f.eb + f.mb) else 0

/-- The magnitude bits of the largest finite value. -/
def FFmt.maxBits (f : FFmt) : Nat :=
  match f.kind with
  | .ieee => (2 ^ f.eb - 1) * 2 ^ f.mb - 1
  | .e4m3 => 2 ^ (f.eb + f.mb) - 2
  | .finite => 2 ^ (f.eb + f.mb) - 1

/-- Whether the magnitude is rounded up, from the kept part, the remainder and the bits dropped (R77, R79). -/
def roundUp (mode : RM) (neg : Bool) (lo rem sh draw : Nat) : Bool :=
  match mode with
  | .rne => decide (2 ^ sh < 2 * rem) || (2 * rem == 2 ^ sh && lo % 2 == 1)
  | .rz => false
  | .ru => rem != 0 && !neg
  | .rd => rem != 0 && neg
  | .rs => decide (2 ^ 32 ≤ rem * 2 ^ 32 / 2 ^ sh + draw)

/-- The out-of-range result of a finite value (R81). -/
def FFmt.overflow (f : FFmt) (mode : RM) (sat neg : Bool) : Nat :=
  let inf := (2 ^ f.eb - 1) * 2 ^ f.mb
  let toMax := match mode with
    | .rne | .rs => false
    | .rz => true
    | .ru => neg
    | .rd => !neg
  f.sign neg + (if f.kind ≠ .ieee || sat || toMax then f.maxBits else inf)

/-- Round m · 2^e, m not zero, to a format (R77, R81). Bits more than 4,096 below the last place are all taken as one. -/
def roundFin (f : FFmt) (mode : RM) (sat neg : Bool) (m : Nat) (e : Int) (draw : Nat) : Nat :=
  let top : Int := (Nat.log2 m : Int) + e
  let q : Int := max top (1 - f.bias) - f.mb
  let mant : Nat :=
    if q ≤ e then m * 2 ^ (e - q).toNat
    else
      let sh := (q - e).toNat
      if 4096 < sh && (Nat.log2 m : Int) + 2048 < sh then (if roundUp mode neg 0 1 4096 draw then 1 else 0)
      else
        let lo := m / 2 ^ sh
        if roundUp mode neg lo (m % 2 ^ sh) sh draw then lo + 1 else lo
  if mant < 2 ^ f.mb then f.sign neg + mant
  else
    let (mant, q) := if 2 ^ (f.mb + 1) ≤ mant then (mant / 2, q + 1) else (mant, q)
    let field : Int := q + f.mb + f.bias
    let bits : Int := field * 2 ^ f.mb + (mant - 2 ^ f.mb : Int)
    if bits ≤ f.maxBits then f.sign neg + bits.toNat else f.overflow mode sat neg

/-- Encode a value, rounding once (R81); `draw` is what Draw() returned under RS. -/
def fenc (f : FFmt) (mode : RM) (sat : Bool) (draw : Nat) (x : FVal) : Nat :=
  match x with
  | .nan => f.nan
  | .inf neg => f.sign neg + (if f.kind = .ieee then (2 ^ f.eb - 1) * 2 ^ f.mb else f.maxBits)
  | .fin neg m e => if m = 0 then f.sign neg else roundFin f mode sat neg m e draw

/-- Round to nearest even, without saturation. -/
def fround (f : FFmt) (x : FVal) : Nat := fenc f .rne false 0 x

/-- RoundF32 of R12, as a value again. -/
def roundF32 (x : FVal) : FVal := fdec fF32 (fround fF32 x)

/-! ## Exact arithmetic -/

def FVal.isNan : FVal → Bool
  | .nan => true
  | _ => false

def FVal.neg : FVal → FVal
  | .nan => .nan
  | .inf n => .inf (!n)
  | .fin n m e => .fin (!n) m e

def FVal.abs : FVal → FVal
  | .nan => .nan
  | .inf _ => .inf false
  | .fin _ m e => .fin false m e

def FVal.isZero : FVal → Bool
  | .fin _ m _ => m == 0
  | _ => false

def FVal.isNeg : FVal → Bool
  | .inf n => n
  | .fin n _ _ => n
  | .nan => false

/-- The signed integer of a finite value in units of 2^u, u at most its exponent. -/
def unitsOf (neg : Bool) (m : Nat) (e u : Int) : Int :=
  let v : Int := (m * 2 ^ (e - u).toNat : Nat)
  if neg then -v else v

/-- The exact sum (R108: a zero sum is +0 unless both terms are −0). DEDUCED (log 32). -/
def FVal.add : FVal → FVal → FVal
  | .nan, _ => .nan
  | _, .nan => .nan
  | .inf a, .inf b => if a == b then .inf a else .nan
  | .inf a, _ => .inf a
  | _, .inf b => .inf b
  | .fin a m e, .fin b n f =>
    if m = 0 && n = 0 then .fin (a && b) 0 0
    else if m = 0 then .fin b n f
    else if n = 0 then .fin a m e
    else
      let u := min e f
      let v := unitsOf a m e u + unitsOf b n f u
      .fin (v < 0) v.natAbs u

def FVal.sub (a b : FVal) : FVal := a.add b.neg

/-- The exact product. -/
def FVal.mul : FVal → FVal → FVal
  | .nan, _ => .nan
  | _, .nan => .nan
  | .inf a, .inf b => .inf (a != b)
  | .inf a, .fin b n _ => if n = 0 then .nan else .inf (a != b)
  | .fin a m _, .inf b => if m = 0 then .nan else .inf (a != b)
  | .fin a m e, .fin b n f => .fin (a != b) (m * n) (e + f)

/-- A value known to lie strictly between q and q + 1 units, or to be q exactly: two further bits keep every rounding right. -/
def withSticky (neg : Bool) (q : Nat) (e : Int) (inexact : Bool) : FVal :=
  .fin neg (4 * q + (if inexact then 1 else 0)) (e - 2)

/-- The quotient, with its inexactness kept (R107). -/
def FVal.div : FVal → FVal → FVal
  | .nan, _ => .nan
  | _, .nan => .nan
  | .inf _, .inf _ => .nan
  | .inf a, .fin b _ _ => .inf (a != b)
  | .fin a _ _, .inf b => .fin (a != b) 0 0
  | .fin a m e, .fin b n f =>
    if n = 0 then (if m = 0 then .nan else .inf (a != b))
    else if m = 0 then .fin (a != b) 0 0
    else
      let s := Nat.log2 n + 72
      withSticky (a != b) (m * 2 ^ s / n) (e - f - s) (m * 2 ^ s % n != 0)

/-- The integer square root, by bits from 2^k down. -/
def isqrtGo (n : Nat) : Nat → Nat → Nat
  | 0, r => if (r + 1) * (r + 1) ≤ n then r + 1 else r
  | k + 1, r =>
    let r' := r + 2 ^ (k + 1)
    isqrtGo n k (if r' * r' ≤ n then r' else r)

def isqrt (n : Nat) : Nat := isqrtGo n (Nat.log2 n / 2 + 1) 0

/-- The square root (R107). -/
def FVal.sqrt : FVal → FVal
  | .nan => .nan
  | .inf n => if n then .nan else .inf false
  | .fin n m e =>
    if m = 0 then .fin n 0 0
    else if n then .nan
    else
      let (m, e) := if e % 2 = 0 then (m, e) else (2 * m, e - 1)
      let k : Nat := 72
      let v := m * 2 ^ (2 * k)
      let r := isqrt v
      withSticky false r (e / 2 - k) (r * r != v)

/-- Compare two numbers that are no NaN: −1, 0 or 1; −0 equals +0. -/
def FVal.cmp (a b : FVal) : Int :=
  match a, b with
  | .inf x, .inf y => if x == y then 0 else if x then -1 else 1
  | .inf x, _ => if x then -1 else 1
  | _, .inf y => if y then 1 else -1
  | .fin x m e, .fin y n f =>
    let u := min e f
    let d := unitsOf x m e u - unitsOf y n f u
    if d < 0 then -1 else if d = 0 then 0 else 1
  | _, _ => 0

/-- FMIN of R107. -/
def FVal.fmin (a b : FVal) : FVal :=
  if a.isNan then b else if b.isNan then a
  else if a.cmp b < 0 then a else if b.cmp a < 0 then b else if a.isNeg then a else b

/-- FMAX of R107. -/
def FVal.fmax (a b : FVal) : FVal :=
  if a.isNan then b else if b.isNan then a
  else if a.cmp b < 0 then b else if b.cmp a < 0 then a else if a.isNeg then b else a

/-! ## The functions of R177 -/

/-- 2^(2^−i) for i = 1 to k, in units of 2^−256, each by one square root of the last. -/
def exp2Table : Nat → Nat → List Nat
  | 0, _ => []
  | k + 1, c => let d := isqrt (c * 2 ^ 256); d :: exp2Table k d

/-- The product of the table's entries where the bits of a fraction are set, the first bit the most significant. -/
def exp2Frac : List Nat → Nat → Nat → Nat → Nat
  | [], _, _, acc => acc
  | c :: r, f, k, acc => exp2Frac r f (k - 1) (if (f / 2 ^ (k - 1)) % 2 = 1 then acc * c / 2 ^ 256 else acc)

/-- 2^x of a finite x, correct but for the rounding: 256 bits with the rest as one inexact bit. -/
def exp2Fin (n : Bool) (m : Nat) (e : Int) : FVal :=
  if m = 0 then .fin false 1 0
  else if 9 ≤ (Nat.log2 m : Int) + e then (if n then .fin false 1 (-1000) else .fin false 1 1000)
  else
    let k : Nat := 160
    let v : Int := unitsOf n m (max e (-160)) (-160)
    let i := v / 2 ^ k
    let f := (v % 2 ^ k).toNat
    let lost := e < -160
    if f = 0 && !lost then .fin false 1 i
    else withSticky false (exp2Frac (exp2Table k (2 ^ 257)) f k (2 ^ 256)) (i - 256) true

/-- UNVERIFIED (log 33). -/
def FVal.exp2 : FVal → FVal
  | .nan => .nan
  | .inf n => if n then .fin false 0 0 else .inf false
  | .fin n m e => exp2Fin n m e

/-- The next `k` bits of the logarithm of y in [1, 2), y in units of 2^−400. -/
def log2Bits : Nat → Nat → Nat → Nat
  | 0, _, acc => acc
  | k + 1, y, acc =>
    let z := y * y / 2 ^ 400
    if 2 ^ 401 ≤ z then log2Bits k (z / 2) (2 * acc + 1) else log2Bits k z (2 * acc)

/-- UNVERIFIED (log 33). -/
def FVal.log2 : FVal → FVal
  | .nan => .nan
  | .inf n => if n then .nan else .inf false
  | .fin n m e =>
    if m = 0 then .inf true
    else if n then .nan
    else
      let i : Int := (Nat.log2 m : Int) + e
      if m = 2 ^ Nat.log2 m then .fin (i < 0) i.natAbs 0
      else
        let f := log2Bits 160 (m * 2 ^ 400 / 2 ^ Nat.log2 m) 0
        let v : Int := i * 2 ^ 160 + f
        if 0 ≤ i then withSticky false v.toNat (-160) true
        else .fin true (4 * v.natAbs - 1) (-162)

def FVal.rcp (a : FVal) : FVal := FVal.div (.fin false 1 0) a

/-- 1/√a. -/
def FVal.rsq : FVal → FVal
  | .nan => .nan
  | .inf n => if n then .nan else .fin false 0 0
  | .fin n m e =>
    if m = 0 then .inf n
    else if n then .nan
    else
      let (m, e) := if e % 2 = 0 then (m, e) else (2 * m, e - 1)
      let k := Nat.log2 m + 80
      let r := isqrt (2 ^ (2 * k) / m)
      withSticky false r (-(e / 2) - k) (r * r * m != 2 ^ (2 * k))

/-! ## Conversions (R80, R81) -/

/-- Round a finite value to an integer in a mode. -/
def roundInt (mode : RM) (neg : Bool) (m : Nat) (e : Int) (draw : Nat) : Int :=
  let mag : Nat :=
    if 0 ≤ e then m * 2 ^ (min e 4096).toNat
    else
      let sh := (min (-e) (Nat.log2 m + 64)).toNat
      let lo := m / 2 ^ sh
      if roundUp mode neg lo (m % 2 ^ sh) sh draw then lo + 1 else lo
  if neg then -(mag : Int) else mag

def clampInt (lo hi v : Int) : Int := max lo (min hi v)

/-- A float to an integer in [lo, hi]: rounds, clamps, NaN gives 0 (R81). -/
def floatToInt (mode : RM) (lo hi : Int) (draw : Nat) (x : FVal) : Int :=
  match x with
  | .nan => 0
  | .inf n => if n then lo else hi
  | .fin n m e => clampInt lo hi (roundInt mode n m e draw)

/-- The kinds of type a conversion names. -/
inductive NType where
  | flt (f : FFmt)
  | int (w : Nat) (signed : Bool)
deriving DecidableEq, Repr

/-- The exact value of `bits` read as a type. -/
inductive NVal where
  | flt (x : FVal)
  | int (v : Int)
deriving DecidableEq, Repr

def intDec (w : Nat) (signed : Bool) (bits : Nat) : Int :=
  let b := bits % 2 ^ w
  if signed && 2 ^ (w - 1) ≤ b then (b : Int) - 2 ^ w else b

def NType.dec (t : NType) (bits : Nat) : NVal :=
  match t with
  | .flt f => .flt (fdec f bits)
  | .int w s => .int (intDec w s bits)

def NType.width : NType → Nat
  | .flt f => f.width
  | .int w _ => w

def intLo (w : Nat) (s : Bool) : Int := if s then -(2 ^ (w - 1) : Int) else 0
def intHi (w : Nat) (s : Bool) : Int := if s then 2 ^ (w - 1) - 1 else 2 ^ w - 1

/-- An integer's low `w` bits. -/
def intBits (w : Nat) (v : Int) : Nat := (v % (2 ^ w : Int)).toNat

/-- Convert under R81: the destination's bits. DEDUCED (log 91). -/
def convert (dst : NType) (mode : RM) (sat : Bool) (draw : Nat) (x : NVal) : Nat :=
  match dst, x with
  | .flt f, .flt v => fenc f mode sat draw v
  | .flt f, .int v => fenc f mode sat draw (.fin (v < 0) v.natAbs 0)
  | .int w s, .flt v => intBits w (floatToInt mode (intLo w s) (intHi w s) draw v)
  | .int w s, .int v => intBits w (if sat then clampInt (intLo w s) (intHi w s) v else v)

def SType.ntype : SType → NType
  | .f64 => .flt fF64 | .f32 => .flt fF32 | .bf16 => .flt fBF16 | .f16 => .flt fF16
  | .e4m3 => .flt fE4M3 | .e5m2 => .flt fE5M2
  | .i64 => .int 64 true | .i32 => .int 32 true | .i16 => .int 16 true | .i8 => .int 8 true
  | .n64 => .int 64 false | .n32 => .int 32 false | .n16 => .int 16 false | .n8 => .int 8 false

def VType.ntype : VType → NType
  | .f32 => .flt fF32 | .f16 => .flt fF16 | .bf16 => .flt fBF16
  | .i32 => .int 32 true | .i16 => .int 16 true | .i8 => .int 8 true
  | .n32 => .int 32 false | .n16 => .int 16 false | .n8 => .int 8 false

def CType.ntype : CType → NType
  | .ty t => VType.ntype t
  | .e4m3 => .flt fE4M3 | .e5m2 => .flt fE5M2 | .e2m1 => .flt fE2M1 | .i4 => .int 4 true
  | .e3m2 => .flt fE3M2 | .e2m3 => .flt fE2M3

/-- FP6 types take the assist of R84. -/
def CType.isFp6 : CType → Bool
  | .e3m2 | .e2m3 => true
  | _ => false

/-- The tensor formats that convert (R67); none for I4X, RAW and the reserved codes. -/
def fmtType (code : Nat) : Option NType :=
  match code with
  | 0 => some (.flt fF32) | 1 => some (.flt fBF16) | 2 => some (.flt fF16) | 3 => some (.flt fE4M3) | 4 => some (.flt fE5M2)
  | 5 => some (.flt fE3M2) | 6 => some (.flt fE2M3) | 7 => some (.flt fE2M1) | 8 => some (.int 8 true) | 9 => some (.int 4 true)
  | _ => none

/-- Bits per element of a format code (R67). -/
def fmtBits (code : Nat) : Nat :=
  match code with
  | 0 => 32 | 1 | 2 => 16 | 3 | 4 | 8 | 15 => 8 | 5 | 6 => 6 | 7 | 9 | 10 => 4 | _ => 8

def fmtReserved (code : Nat) : Bool := 0xB ≤ code && code ≤ 0xE

/-! ## I4X, scales and the engine's accumulation (R72 to R76, R85, R86) -/

/-- Outlier(h): the byte h·16 read as E4M3. -/
def outlier (h : Nat) : FVal := fdec fE4M3 (h * 16)

def slotVal (c : Nat) : FVal := .fin (8 ≤ c) (if 8 ≤ c then 16 - c else c) 0

/-- The two elements of an I4X byte, unscaled (R72). -/
def i4xPair (byte : Nat) : FVal × FVal :=
  let ev := byte % 16
  let od := byte / 16 % 16
  if ev = 8 then (outlier od, .fin false 0 0)
  else (slotVal ev, if od = 8 then .nan else slotVal od)

/-- An E8M0 scale (R73). -/
def e8m0 (e : Nat) : FVal := if e = 255 then .nan else .fin false 1 ((e : Int) - 127)

/-- ScaleOffset and TileAddr of R75, relative to ScaleBase, for an element of a row. -/
def scaleOffset (k row elem : Nat) : Nat :=
  let j := row % 32
  let kb := elem / 32
  128 * (row / 32 * ((k + 127) / 128) + kb / 4) + 16 * (j % 8) + 4 * (j / 8) + kb % 4

/-- floor(log2 |t|) of a non-zero finite value. -/
def topBit (m : Nat) (e : Int) : Int := (Nat.log2 m : Int) + e

/-- A magnitude truncated to units of 2^u, and whether bits were lost. -/
def truncUnits (m : Nat) (e u : Int) : Nat × Bool :=
  if u ≤ e then (m * 2 ^ (e - u).toNat, false)
  else
    let sh := (u - e).toNat
    if Nat.log2 m < sh then (0, m != 0) else (m / 2 ^ sh, m % 2 ^ sh != 0)

/-- The sum AccumulateGroup rounds (R85), before its rounding. -/
def groupSum (c : FVal) (ps : List FVal) : FVal :=
  let t := c :: ps
  if t.any FVal.isNan || (t.any fun v => v = .inf false) && t.any fun v => v = .inf true then .nan
  else if t.any fun v => v = .inf false then .inf false
  else if t.any fun v => v = .inf true then .inf true
  else
    let z := t.filter fun v => !v.isZero
    match z with
    | [] => .fin (t.all FVal.isNeg) 0 0
    | _ =>
      let tops := z.map fun v => match v with | .fin _ m e => topBit m e | _ => 0
      let top := tops.foldl max (tops.headD 0)
      let u := top - 47
      let parts := z.map fun v => match v with
        | .fin n m e => let q := truncUnits m e u; ((if n then -(q.1 : Int) else (q.1 : Int)), q.2)
        | _ => (0, false)
      let s := (parts.map Prod.fst).foldl (· + ·) 0
      let sticky := parts.any Prod.snd
      .fin (s < 0) (2 * s.natAbs + (if sticky then 1 else 0)) (u - 1)

/-- AccumulateGroup (R85). -/
def accGroup (c : FVal) (ps : List FVal) : FVal := roundF32 (groupSum c ps)

/-- The first `n` elements of a list, and the rest, repeatedly: the k-groups (R85). -/
def groupsOf (n : Nat) (ps : List FVal) : Nat → List (List FVal)
  | 0 => []
  | fuel + 1 => match ps with
    | [] => []
    | _ => ps.take n :: groupsOf n (ps.drop n) fuel

/-- The running value after every k-group, and the value before the last group with that group's products (RTOUT, R308). -/
def accAll (g : Nat) (c : FVal) (ps : List FVal) : FVal := (groupsOf g ps ps.length).foldl accGroup c

/-- k-group sizes of R85. -/
def groupSize (fmt : Nat) : Nat :=
  match fmt with
  | 1 | 2 => 4
  | 3 | 4 | 5 | 6 => 8
  | _ => 16

end Sys2Proof.Machine
end

