-- ==== Sys2Proof/WellFormed.lean ====
section
/-! DEFINITION. Sys2Proof/WellFormed.lean: what an `Instr` must satisfy beyond its types to have an encoding (the checks of the
instruction entries that R65 makes at step 6), and what an event's parameters must satisfy to name a unit that exists. -/

namespace Sys2Proof

/-- Type codes 0 to 5 (VABS and VNEG, R172). -/
def VType.upTo5 : VType → Bool
  | .n32 | .n16 | .n8 => false
  | _ => true

/-- Type codes 3 to 8 (the integer types, R172, R174). -/
def VType.isInt : VType → Bool
  | .f32 | .f16 | .bf16 => false
  | _ => true

/-- The rounding modes every instruction but VCVT and FCVT is limited to (R77). -/
def RM.notRS : RM → Bool
  | .rs => false
  | _ => true

/-- Elements per register of a VCVT type (R178). -/
def CType.count : CType → Nat
  | .ty .f32 | .ty .i32 | .ty .n32 => 16
  | .ty .f16 | .ty .bf16 | .ty .i16 | .ty .n16 => 32
  | .ty .i8 | .ty .n8 | .e4m3 | .e5m2 => 64
  | .e2m1 | .i4 => 128
  | .e3m2 | .e2m3 => 85

/-- A part `p` of a VCVT type lies inside a register (R178). -/
def CType.partOk (t : CType) (p : BitVec 2) : Bool := 16 * (p.toNat + 1) ≤ t.count

/-- The field of R97: width not 0 and pos + width at most 64. -/
def fieldOk (pos width : BitVec 6) : Bool := width.toNat != 0 && pos.toNat + width.toNat ≤ 64

/-- VISECT's destination is narrowed to `v0`–`v31` or null (R192). -/
def VOp.regOrNull : VOp → Bool
  | .reg _ | .null => true
  | _ => false

/-- SYS.WR names no read-only register (R380). -/
def SysReg.writable : SysReg → Bool
  | .cycle | .cecnt => false
  | _ => true

/-- A core that exists: R3, R5 for compute cores, R346 for slice cores, R359 for the control core. -/
def Loc.valid (l : Loc) : Bool :=
  match l.kind with
  | .compute => l.die < 4 && l.x < 18 && l.y < 18
  | .slice => l.die < 4 && l.x < 16 && l.y == 0
  | .control => l.die == 0 && l.x == 0 && l.y == 0

/-- A compute core that exists. -/
def Loc.isCore (l : Loc) : Bool := l.kind == .compute && l.valid

/-- The instruction has an encoding; the event names units that exist. -/
def Instr.wf : Instr → Bool
  | .bfx _ _ p w _ | .bfxs _ _ p w _ | .bfi _ _ _ p w _ => fieldOk p w
  | .vabs _ _ t _ _ | .vneg _ _ t _ _ => t.upTo5
  | .vadds _ _ _ t _ _ | .vsubs _ _ _ t _ _ => t.isInt
  | .vshl _ _ _ t _ _ | .vshr _ _ _ t _ _ | .vsar _ _ _ t _ _ => t.isInt
  | .vcvt _ _ sp dp src dst _ _ _ => src.partOk sp && dst.partOk dp
  | .vredadd _ _ rm _ _ _ | .vscanadd _ _ _ rm _ _ _ => rm.notRS
  | .visect d _ _ _ _ _ => d.regOrNull
  | .rep _ n _ _ => 1 ≤ n.toNat && n.toNat ≤ 16
  | .sysWr _ r _ => r.writable
  | .ldred d _ _ _ _ inB outB _ => !(inB && !outB && d == 31)
  | .fp6Assist l | .wordLand l _ | .gangHoldTimeout l | .barrierFiringArrive l _ | .eventSignalApply l
  | .stageUpdateArrive l | .iterationEndArrive l | .mwaitTimeout l | .stashRecall l _ _ _ | .ringPointerLand l _
  | .windowToggle l _ | .linkOpenLand l _ | .engineStart l _ | .linkCloseLand l _ | .directFeedPush l _
  | .engineStep l _ | .tileDrainBegin l _ | .tileElementApply l _ | .deliveryCount l _ | .linkWatchdog l _
  | .chanElementsLand l _ | .ldredRequestArrive l | .ldredResultArrive l | .asyncTrapTake l | .coreFence l => l.isCore
  | .loadSatisfy l _ | .storeLeave l _ | .atomicPerform l _ | .monarmSatisfy l _ | .engineCommandStart l _
  | .engineRead l _ | .engineProduce l _ | .engineApply l _ | .engineCount l _ | .pageWalkComplete l _ _ => l.valid
  | .logCreditGrant l sl => l.isCore && sl < 64
  | .dieBufferDrain die _ => die < 4
  | .mgmtDrain m | .mgmtReinitReturn m _ => m.die < 4
  | .mgmtRetrainChannel die ch => die < 4 && ch < 12
  | .mgmtRetrainBramble die toward => die < 4 && toward < 4 && die != toward
  | .sliceRequestArrive sl _ | .sliceRequestBegin sl | .sliceDataReturn sl _ | .tokenRefill sl | .combineReply sl _
  | .sliceInvocationStart sl | .sliceBudgetOverrun sl => sl < 64
  | .waymaskDrain sl t | .sliceTrigger sl t _ _ _ => sl < 64 && t < 64
  | .eventActivate t e | .eventWake t e => t < 64 && e < 65536
  | .lqtailWrite t q _ | .launchQueueHead t q | .launchReadRetry t q | .launchDequeue t q => t < 64 && q < 16
  | .faultRecordPost t | .supcmdResume t _ _ | .supcmdSave t _ _ | .supcmdTerminate t _ | .fqheadWrite t _
  | .qbindBind t _ | .qbindUnbind t | .hstatWrite t _ | .attestReport t _ | .keyImport t _ | .realmForm t _
  | .revocation t _ | .flr t | .latusWrite t _ | .tenantEnWrite t _ _ | .hostBar2Access t _ _ _ => t < 64
  | .evsigWrite t name _ => t < 64 && name < 65536
  | .irqpendWrite fn _ | .registerWrite fn _ _ => (match fn with | none => true | some t => t < 64)
  | .quinceKeysLoaded unit slot => unit < 4 && slot < 16
  | .peerWrite t p _ | .scaleoutFrame t p _ => t < 64 && 1 ≤ p && p < 64
  | .granuleOwnerWrite g _ | .granuleScrubDone g => g < 4096
  | .brambleRetrain k | .brambleRetrainDone k | .brambleReroute k => k < 4
  | _ => true

end Sys2Proof
end

