-- ==== Sys2Proof/Decode.lean ====
section
/-! DEFINITION. Sys2Proof/Decode.lean: heads, tails and the opcode map (R52 to R66). `decode` is total on any head and tail words
and rejects by the step of R65 that fails; `encode` writes the words of an instruction from the same tables. -/

namespace Sys2Proof

/-- The tail classes of R54. -/
inductive TailClass where
  | k0 | k1a | k1i | k2ai | k2ab | k2ii
deriving DecidableEq, Repr

/-- Base tail length of a class (R54). -/
def TailClass.base : TailClass → Nat
  | .k0 => 0
  | .k1a | .k1i => 1
  | .k2ai | .k2ab | .k2ii => 2

/-- Why a head and its tail are no instruction: the steps 1 to 6 of R65. -/
inductive DecErr where
  | opReserved | badTail | wrongCore | memberReserved | operandReserved | unusedNonzero
deriving DecidableEq, Repr

/-- XINFO3 of the ILLEGAL trap (R65). -/
def DecErr.step : DecErr → Nat
  | .opReserved => 1
  | .badTail => 2
  | .wrongCore => 3
  | .memberReserved => 4
  | .operandReserved => 5
  | .unusedNonzero => 6

/-- The fields of a head and its tail (R53, R55, R56); fields the class lacks are zero. -/
structure Fields where
  op : BitVec 8 := 0
  d : BitVec 6 := 0
  s1 : BitVec 6 := 0
  s2 : BitVec 6 := 0
  f : BitVec 4 := 0
  s3 : BitVec 6 := 0
  s4 : BitVec 6 := 0
  g : BitVec 4 := 0
  i : BitVec 16 := 0
  i2 : BitVec 16 := 0
  c : Ctl := none
deriving DecidableEq, Repr

/-- The opcode map's classes (R62); `none` for a reserved opcode. -/
def opClass (op : Nat) : Option TailClass :=
  if [0x00, 0x01, 0x1F, 0x20, 0x72, 0x75, 0x77, 0xB1, 0xC0, 0xC4].contains op then some .k0
  else if [0x02, 0x03, 0x07, 0x08, 0x0B, 0x0D, 0x0F, 0x14, 0x15, 0x18, 0x1D, 0x49, 0x4A, 0x53, 0x55, 0x70, 0x73, 0x74, 0x76, 0x86, 0x88, 0x89, 0x8A, 0x8C, 0x8D, 0xA4, 0xA6, 0xA7, 0xA8, 0xB0, 0xC2, 0xC3, 0xD1].contains op then some .k1a
  else if [0x05, 0x1A, 0x1E, 0x71, 0x82, 0x8B].contains op then some .k1i
  else if [0x04, 0x06, 0x09, 0x0A, 0x0C, 0x10, 0x11, 0x12, 0x13, 0x19, 0x46, 0x4B, 0x4C, 0x4D, 0x54, 0x87, 0xC1].contains op then some .k2ai
  else if [0x0E, 0x16, 0x17, 0x40, 0x41, 0x42, 0x43, 0x44, 0x45, 0x47, 0x48, 0x4E, 0x4F, 0x50, 0x51, 0x52, 0x80, 0x81, 0x83, 0x84, 0x85, 0xA0, 0xA1, 0xA2, 0xA3, 0xA5, 0xA9, 0xD0].contains op then some .k2ab
  else if [0x1B, 0x1C].contains op then some .k2ii
  else none

/-- The opcodes each kind of core accepts (R63, R359). -/
def acceptedOn (k : CoreKind) (op : Nat) : Bool :=
  match k with
  | .compute => op != 0xB0 && op != 0xB1
  | .slice => op == 0 || (2 ≤ op && op ≤ 0x11) || (0x14 ≤ op && op ≤ 0x1E) || op == 0x54 || op == 0xB0 || op == 0xB1
  | .control => op ≤ 0x20 || (0x80 ≤ op && op ≤ 0x8D) || (0xC0 ≤ op && op ≤ 0xC4)

/-- TL, OP and D of a head (R53). -/
def headTL (h : Half) : Nat := (h.extractLsb' 14 2).toNat
def headOP (h : Half) : BitVec 8 := h.extractLsb' 6 8
def headD (h : Half) : BitVec 6 := h.extractLsb' 0 6

/-- The head with these fields (R53). -/
def mkHead (tl : Nat) (op : BitVec 8) (d : BitVec 6) : Half := (BitVec.ofNat 2 tl ++ op) ++ d

/-- An A or B word (R55): [15:12], [11:6], [5:0]. -/
def mkAB (f : BitVec 4) (hi lo : BitVec 6) : Half := (f ++ hi) ++ lo
def abTop (w : Half) : BitVec 4 := w.extractLsb' 12 4
def abHi (w : Half) : BitVec 6 := w.extractLsb' 6 6
def abLo (w : Half) : BitVec 6 := w.extractLsb' 0 6

/-- The tail words of a class in ascending half-word order (R54), the control word last. -/
def packTail (k : TailClass) (x : Fields) : List Half :=
  (match k with
   | .k0 => []
   | .k1a => [mkAB x.f x.s2 x.s1]
   | .k1i => [x.i]
   | .k2ai => [mkAB x.f x.s2 x.s1, x.i]
   | .k2ab => [mkAB x.f x.s2 x.s1, mkAB x.g x.s4 x.s3]
   | .k2ii => [x.i, x.i2]) ++ x.c.toList

/-- The fields of a tail of a class, when its length is the base length or one more (step 2 of R65). -/
def unpackTail (k : TailClass) (h : Half) (t : List Half) : Except DecErr Fields :=
  let x : Fields := { op := headOP h, d := headD h }
  match k, t with
  | .k0, [] => .ok x
  | .k0, [c] => .ok { x with c := some c }
  | .k1a, [a] => .ok { x with f := abTop a, s2 := abHi a, s1 := abLo a }
  | .k1a, [a, c] => .ok { x with f := abTop a, s2 := abHi a, s1 := abLo a, c := some c }
  | .k1i, [i] => .ok { x with i := i }
  | .k1i, [i, c] => .ok { x with i := i, c := some c }
  | .k2ai, [a, i] => .ok { x with f := abTop a, s2 := abHi a, s1 := abLo a, i := i }
  | .k2ai, [a, i, c] => .ok { x with f := abTop a, s2 := abHi a, s1 := abLo a, i := i, c := some c }
  | .k2ab, [a, b] => .ok { x with f := abTop a, s2 := abHi a, s1 := abLo a, g := abTop b, s4 := abHi b, s3 := abLo b }
  | .k2ab, [a, b, c] =>
      .ok { x with f := abTop a, s2 := abHi a, s1 := abLo a, g := abTop b, s4 := abHi b, s3 := abLo b, c := some c }
  | .k2ii, [i, j] => .ok { x with i := i, i2 := j }
  | .k2ii, [i, j, c] => .ok { x with i := i, i2 := j, c := some c }
  | _, _ => .error .badTail

/-! Operand classes (R59): each fails step 5. -/

def xreg (v : BitVec 6) : Except DecErr XReg := if v.toNat < 32 then .ok (v.setWidth 5) else .error .operandReserved
/-- A scalar register field that the member uses only when `used` holds: an unused field fails step 6, not step 5 (R61, R65). -/
def xregIf (used : Bool) (v : BitVec 6) : Except DecErr XReg := if used then xreg v else .ok 0
def low3 (v : BitVec 6) : Except DecErr (BitVec 3) := if v.toNat < 8 then .ok (v.setWidth 3) else .error .operandReserved
def low4 (v : BitVec 6) : Except DecErr (BitVec 4) := if v.toNat < 16 then .ok (v.setWidth 4) else .error .operandReserved
def vreg (v : BitVec 6) : Except DecErr (BitVec 5) := if v.toNat < 32 then .ok (v.setWidth 5) else .error .operandReserved

def Dir.ofBits (v : BitVec 2) : Dir :=
  match v.toNat with
  | 0 => .w
  | 1 => .n
  | 2 => .e
  | _ => .s
def Dir.bits : Dir → BitVec 2
  | .w => 0
  | .n => 1
  | .e => 2
  | .s => 3

def vop (v : BitVec 6) : Except DecErr VOp :=
  if v.toNat < 32 then .ok (.reg (v.setWidth 5))
  else if v.toNat < 36 then .ok (.link (Dir.ofBits (v.setWidth 2)))
  else if v.toNat < 40 then .ok (.stream (v.setWidth 2))
  else if v.toNat = 40 then .ok .null
  else .error .operandReserved

def VOp.code : VOp → BitVec 6
  | .reg r => r.setWidth 6
  | .link d => 32 + d.bits.setWidth 6
  | .stream q => 36 + q.setWidth 6
  | .null => 40

def dirOp (v : BitVec 6) : Except DecErr Dir := if v.toNat < 4 then .ok (Dir.ofBits (v.setWidth 2)) else .error .operandReserved
def linkOp (v : BitVec 6) : Except DecErr Dir :=
  if 32 ≤ v.toNat && v.toNat < 36 then .ok (Dir.ofBits (v.setWidth 2)) else .error .operandReserved
def streamOp (v : BitVec 6) : Except DecErr (BitVec 2) :=
  if 36 ≤ v.toNat && v.toNat < 40 then .ok (v.setWidth 2) else .error .operandReserved
def fwdReg (v : BitVec 6) : Except DecErr (Option (BitVec 5)) :=
  if v.toNat < 32 then .ok (some (v.setWidth 5)) else if v.toNat = 40 then .ok none else .error .operandReserved
def fwdCode : Option (BitVec 5) → BitVec 6
  | some r => r.setWidth 6
  | none => 40

def maskOp (v : BitVec 6) : Except DecErr MaskOp :=
  if v.toNat < 16 then .ok ⟨v.setWidth 3, v.getLsbD 3⟩ else .error .operandReserved
def MaskOp.code (k : MaskOp) : BitVec 6 := (BitVec.ofBool k.z ++ k.m).setWidth 6

/-- Step 4: F within the family (R61). -/
def member (f : BitVec 4) (last : Nat) : Except DecErr Unit := if f.toNat ≤ last then .ok () else .error .memberReserved
/-- Step 6: a condition on must-be-zero and reserved bits. -/
def mustBe (b : Bool) : Except DecErr Unit := if b then .ok () else .error .unusedNonzero

/-- Codes of VType. -/
def VType.code : VType → BitVec 4
  | .f32 => 0
  | .f16 => 1
  | .bf16 => 2
  | .i32 => 3
  | .i16 => 4
  | .i8 => 5
  | .n32 => 6
  | .n16 => 7
  | .n8 => 8
def VType.ofCode (v : BitVec 4) : Except DecErr VType :=
  match v.toNat with
  | 0 => .ok (.f32)
  | 1 => .ok (.f16)
  | 2 => .ok (.bf16)
  | 3 => .ok (.i32)
  | 4 => .ok (.i16)
  | 5 => .ok (.i8)
  | 6 => .ok (.n32)
  | 7 => .ok (.n16)
  | 8 => .ok (.n8)
  | _ => .error .unusedNonzero

/-- Codes of MType. -/
def MType.code : MType → BitVec 4
  | .ty .f32 => 0
  | .ty .f16 => 1
  | .ty .bf16 => 2
  | .ty .i32 => 3
  | .ty .i16 => 4
  | .ty .i8 => 5
  | .ty .n32 => 6
  | .ty .n16 => 7
  | .ty .n8 => 8
  | .auto => 9
def MType.ofCode (v : BitVec 4) : Except DecErr MType :=
  match v.toNat with
  | 0 => .ok (.ty .f32)
  | 1 => .ok (.ty .f16)
  | 2 => .ok (.ty .bf16)
  | 3 => .ok (.ty .i32)
  | 4 => .ok (.ty .i16)
  | 5 => .ok (.ty .i8)
  | 6 => .ok (.ty .n32)
  | 7 => .ok (.ty .n16)
  | 8 => .ok (.ty .n8)
  | 9 => .ok (.auto)
  | _ => .error .unusedNonzero

/-- Codes of Cond. -/
def Cond.code : Cond → BitVec 4
  | .eq => 0
  | .ne => 1
  | .lt => 2
  | .le => 3
  | .ltn => 4
  | .len => 5
  | .any => 6
  | .none => 7
def Cond.ofCode (v : BitVec 4) : Except DecErr Cond :=
  match v.toNat with
  | 0 => .ok (.eq)
  | 1 => .ok (.ne)
  | 2 => .ok (.lt)
  | 3 => .ok (.le)
  | 4 => .ok (.ltn)
  | 5 => .ok (.len)
  | 6 => .ok (.any)
  | 7 => .ok (.none)
  | _ => .error .memberReserved

/-- Codes of FCond. -/
def FCond.code : FCond → BitVec 2
  | .eq => 0
  | .lt => 1
  | .le => 2
  | .un => 3
def FCond.ofCode (v : BitVec 2) : Except DecErr FCond :=
  match v.toNat with
  | 0 => .ok (.eq)
  | 1 => .ok (.lt)
  | 2 => .ok (.le)
  | _ => .ok (.un)

/-- Codes of VCond. -/
def VCond.code : VCond → BitVec 4
  | .eq => 0
  | .ne => 1
  | .lt => 2
  | .le => 3
def VCond.ofCode (v : BitVec 4) : Except DecErr VCond :=
  match v.toNat with
  | 0 => .ok (.eq)
  | 1 => .ok (.ne)
  | 2 => .ok (.lt)
  | 3 => .ok (.le)
  | _ => .error .memberReserved

/-- Codes of LdSize. -/
def LdSize.code : LdSize → BitVec 4
  | .n8 => 0
  | .n16 => 1
  | .n32 => 2
  | .n64 => 3
  | .i8 => 4
  | .i16 => 5
  | .i32 => 6
def LdSize.ofCode (v : BitVec 4) : Except DecErr LdSize :=
  match v.toNat with
  | 0 => .ok (.n8)
  | 1 => .ok (.n16)
  | 2 => .ok (.n32)
  | 3 => .ok (.n64)
  | 4 => .ok (.i8)
  | 5 => .ok (.i16)
  | 6 => .ok (.i32)
  | _ => .error .memberReserved

/-- Codes of StSize. -/
def StSize.code : StSize → BitVec 4
  | .s8 => 0
  | .s16 => 1
  | .s32 => 2
  | .s64 => 3
def StSize.ofCode (v : BitVec 4) : Except DecErr StSize :=
  match v.toNat with
  | 0 => .ok (.s8)
  | 1 => .ok (.s16)
  | 2 => .ok (.s32)
  | 3 => .ok (.s64)
  | _ => .error .memberReserved

/-- Codes of RM. -/
def RM.code : RM → BitVec 3
  | .rne => 0
  | .rz => 1
  | .ru => 2
  | .rd => 3
  | .rs => 4
def RM.ofCode (v : BitVec 3) : Except DecErr RM :=
  match v.toNat with
  | 0 => .ok (.rne)
  | 1 => .ok (.rz)
  | 2 => .ok (.ru)
  | 3 => .ok (.rd)
  | 4 => .ok (.rs)
  | _ => .error .unusedNonzero

/-- Codes of SType. -/
def SType.code : SType → BitVec 4
  | .f64 => 0
  | .f32 => 1
  | .bf16 => 2
  | .f16 => 3
  | .e4m3 => 4
  | .e5m2 => 5
  | .i64 => 6
  | .i32 => 7
  | .i16 => 8
  | .i8 => 9
  | .n64 => 10
  | .n32 => 11
  | .n16 => 12
  | .n8 => 13
def SType.ofCode (v : BitVec 4) : Except DecErr SType :=
  match v.toNat with
  | 0 => .ok (.f64)
  | 1 => .ok (.f32)
  | 2 => .ok (.bf16)
  | 3 => .ok (.f16)
  | 4 => .ok (.e4m3)
  | 5 => .ok (.e5m2)
  | 6 => .ok (.i64)
  | 7 => .ok (.i32)
  | 8 => .ok (.i16)
  | 9 => .ok (.i8)
  | 10 => .ok (.n64)
  | 11 => .ok (.n32)
  | 12 => .ok (.n16)
  | 13 => .ok (.n8)
  | _ => .error .unusedNonzero

/-- Codes of CType. -/
def CType.code : CType → BitVec 4
  | .ty .f32 => 0
  | .ty .f16 => 1
  | .ty .bf16 => 2
  | .ty .i32 => 3
  | .ty .i16 => 4
  | .ty .i8 => 5
  | .ty .n32 => 6
  | .ty .n16 => 7
  | .ty .n8 => 8
  | .e4m3 => 9
  | .e5m2 => 10
  | .e2m1 => 11
  | .i4 => 12
  | .e3m2 => 13
  | .e2m3 => 14
def CType.ofCode (v : BitVec 4) : Except DecErr CType :=
  match v.toNat with
  | 0 => .ok (.ty .f32)
  | 1 => .ok (.ty .f16)
  | 2 => .ok (.ty .bf16)
  | 3 => .ok (.ty .i32)
  | 4 => .ok (.ty .i16)
  | 5 => .ok (.ty .i8)
  | 6 => .ok (.ty .n32)
  | 7 => .ok (.ty .n16)
  | 8 => .ok (.ty .n8)
  | 9 => .ok (.e4m3)
  | 10 => .ok (.e5m2)
  | 11 => .ok (.e2m1)
  | 12 => .ok (.i4)
  | 13 => .ok (.e3m2)
  | 14 => .ok (.e2m3)
  | _ => .error .unusedNonzero

/-- Codes of Scope. -/
def Scope.code : Scope → BitVec 3
  | .core => 0
  | .plot => 1
  | .die => 2
  | .dev => 3
  | .tenant => 4
  | .sys => 5
def Scope.ofCode (v : BitVec 3) : Except DecErr Scope :=
  match v.toNat with
  | 0 => .ok (.core)
  | 1 => .ok (.plot)
  | 2 => .ok (.die)
  | 3 => .ok (.dev)
  | 4 => .ok (.tenant)
  | 5 => .ok (.sys)
  | _ => .error .unusedNonzero

/-- Codes of Ord. -/
def Ord.code : Ord → BitVec 2
  | .relaxed => 0
  | .acquire => 1
  | .release => 2
  | .acqrel => 3
def Ord.ofCode (v : BitVec 2) : Except DecErr Ord :=
  match v.toNat with
  | 0 => .ok (.relaxed)
  | 1 => .ok (.acquire)
  | 2 => .ok (.release)
  | _ => .ok (.acqrel)

/-- Codes of AmoOp. -/
def AmoOp.code : AmoOp → BitVec 4
  | .add => 0
  | .min => 1
  | .max => 2
  | .minn => 3
  | .maxn => 4
  | .and => 5
  | .or => 6
  | .xor => 7
  | .swap => 8
def AmoOp.ofCode (v : BitVec 4) : Except DecErr AmoOp :=
  match v.toNat with
  | 0 => .ok (.add)
  | 1 => .ok (.min)
  | 2 => .ok (.max)
  | 3 => .ok (.minn)
  | 4 => .ok (.maxn)
  | 5 => .ok (.and)
  | 6 => .ok (.or)
  | 7 => .ok (.xor)
  | 8 => .ok (.swap)
  | _ => .error .memberReserved

/-- Codes of LogOp. -/
def LogOp.code : LogOp → BitVec 4
  | .add => 0
  | .min => 1
  | .max => 2
def LogOp.ofCode (v : BitVec 4) : Except DecErr LogOp :=
  match v.toNat with
  | 0 => .ok (.add)
  | 1 => .ok (.min)
  | 2 => .ok (.max)
  | _ => .error .memberReserved

/-- Codes of LogTy. -/
def LogTy.code : LogTy → BitVec 4
  | .f32 => 0
  | .f64 => 1
  | .i32 => 2
  | .i64 => 3
  | .n32 => 4
  | .n64 => 5
def LogTy.ofCode (v : BitVec 4) : Except DecErr LogTy :=
  match v.toNat with
  | 0 => .ok (.f32)
  | 1 => .ok (.f64)
  | 2 => .ok (.i32)
  | 3 => .ok (.i64)
  | 4 => .ok (.n32)
  | 5 => .ok (.n64)
  | _ => .error .unusedNonzero

/-- Size codes of LDA and STRL in G: every other value fails step 6 (R273). -/
def ldSizeG (g : BitVec 4) : Except DecErr LdSize := match LdSize.ofCode g with | .ok z => .ok z | .error _ => .error .unusedNonzero
def stSizeG (g : BitVec 4) : Except DecErr StSize := match StSize.ofCode g with | .ok z => .ok z | .error _ => .error .unusedNonzero
/-- Size codes of AMO and CAS in G: 2 is .32, 3 is .64 (R273). -/
def atomSizeG (g : BitVec 4) : Except DecErr Bool :=
  if g.toNat = 3 then .ok true else if g.toNat = 2 then .ok false else .error .unusedNonzero

/-- The numbers of R377. -/
def SysReg.code : SysReg → BitVec 16
  | .xpc => 0
  | .xcause => 1
  | .xinfo i => 2 + i.setWidth 16
  | .tvec => 6
  | .lpc => 7
  | .status => 8
  | .cycle => 9
  | .seed => 0xA
  | .tenant => 0xB
  | .repstate => 0xC
  | .reppc => 0xD
  | .repmpc => 0xE
  | .hdrsel => 0xF
  | .hdrfld => 0x10
  | .cecnt => 0x11
  | .bankfmt b => BitVec.ofNat 16 (0x20 + b.val)

/-- A reserved number fails step 6 (R380). -/
def SysReg.ofCode (v : BitVec 16) : Except DecErr SysReg :=
  match v.toNat with
  | 0 => .ok .xpc
  | 1 => .ok .xcause
  | 2 => .ok (.xinfo 0)
  | 3 => .ok (.xinfo 1)
  | 4 => .ok (.xinfo 2)
  | 5 => .ok (.xinfo 3)
  | 6 => .ok .tvec
  | 7 => .ok .lpc
  | 8 => .ok .status
  | 9 => .ok .cycle
  | 0xA => .ok .seed
  | 0xB => .ok .tenant
  | 0xC => .ok .repstate
  | 0xD => .ok .reppc
  | 0xE => .ok .repmpc
  | 0xF => .ok .hdrsel
  | 0x10 => .ok .hdrfld
  | 0x11 => .ok .cecnt
  | 0x20 => .ok (.bankfmt 0)
  | 0x21 => .ok (.bankfmt 1)
  | 0x22 => .ok (.bankfmt 2)
  | 0x23 => .ok (.bankfmt 3)
  | 0x24 => .ok (.bankfmt 4)
  | 0x25 => .ok (.bankfmt 5)
  | 0x26 => .ok (.bankfmt 6)
  | 0x27 => .ok (.bankfmt 7)
  | 0x28 => .ok (.bankfmt 8)
  | 0x29 => .ok (.bankfmt 9)
  | 0x2A => .ok (.bankfmt 10)
  | 0x2B => .ok (.bankfmt 11)
  | _ => .error .unusedNonzero

/-- The immediate of BFX, BFXS and BFI (R97). -/
def fieldImm (pos width : BitVec 6) : BitVec 16 := (0 : BitVec 4) ++ (width ++ pos)
/-- The immediate of FCVT and VCVT (R110, R178): SAT, RM, DST, SRC. -/
def cvtImm (sat : Bool) (rm : BitVec 3) (dst src : BitVec 4) : BitVec 16 :=
  (0 : BitVec 4) ++ (BitVec.ofBool sat ++ (rm ++ (dst ++ src)))
/-- The I word of the vector memory forms (R184). -/
def vmemImm (t : BitVec 4) (off : BitVec 12) : BitVec 16 := t ++ off
/-- The scope field of R273. -/
def scopeField (o : Ord) (sc : Scope) : BitVec 6 := o.code ++ ((0 : BitVec 1) ++ sc.code)

def decScalar00 (x : Fields) : Except DecErr Instr := do
  mustBe (x.d == 0)
  .ok (.nop x.c)

def decScalar01 (x : Fields) : Except DecErr Instr := do
  .ok (.halt x.d x.c)

def decScalar02 (x : Fields) : Except DecErr Instr := do
  member x.f 13
  let d ← xreg x.d
  let b ← xreg x.s2
  let a ← xreg x.s1
  match x.f.toNat with
  | 0 => .ok (.add false d b a x.c)
  | 1 => .ok (.sub false d b a x.c)
  | 2 => .ok (.and false d b a x.c)
  | 3 => .ok (.or false d b a x.c)
  | 4 => .ok (.xor false d b a x.c)
  | 5 => .ok (.andn false d b a x.c)
  | 6 => .ok (.shl false d b a x.c)
  | 7 => .ok (.shr false d b a x.c)
  | 8 => .ok (.sar false d b a x.c)
  | 9 => .ok (.rot false d b a x.c)
  | 10 => .ok (.min false d b a x.c)
  | 11 => .ok (.max false d b a x.c)
  | 12 => .ok (.minn false d b a x.c)
  | _ => .ok (.maxn false d b a x.c)

def decScalar03 (x : Fields) : Except DecErr Instr := do
  member x.f 13
  let d ← xreg x.d
  let b ← xreg x.s2
  let a ← xreg x.s1
  match x.f.toNat with
  | 0 => .ok (.add true d b a x.c)
  | 1 => .ok (.sub true d b a x.c)
  | 2 => .ok (.and true d b a x.c)
  | 3 => .ok (.or true d b a x.c)
  | 4 => .ok (.xor true d b a x.c)
  | 5 => .ok (.andn true d b a x.c)
  | 6 => .ok (.shl true d b a x.c)
  | 7 => .ok (.shr true d b a x.c)
  | 8 => .ok (.sar true d b a x.c)
  | 9 => .ok (.rot true d b a x.c)
  | 10 => .ok (.min true d b a x.c)
  | 11 => .ok (.max true d b a x.c)
  | 12 => .ok (.minn true d b a x.c)
  | _ => .ok (.maxn true d b a x.c)

def decScalar04 (x : Fields) : Except DecErr Instr := do
  member x.f 7
  let d ← xreg x.d
  let a ← xreg x.s1
  mustBe (x.s2 == 0 && (x.f.toNat < 4 || x.i.extractLsb' 6 10 == 0))
  match x.f.toNat with
  | 0 => .ok (.addi d a x.i x.c)
  | 1 => .ok (.andi d a x.i x.c)
  | 2 => .ok (.ori d a x.i x.c)
  | 3 => .ok (.xori d a x.i x.c)
  | 4 => .ok (.shli d a (x.i.setWidth 6) x.c)
  | 5 => .ok (.shri d a (x.i.setWidth 6) x.c)
  | 6 => .ok (.sari d a (x.i.setWidth 6) x.c)
  | _ => .ok (.roti d a (x.i.setWidth 6) x.c)

def decScalar05 (x : Fields) : Except DecErr Instr := do
  let d ← xreg x.d
  .ok (.li d x.i x.c)

def decScalar06 (x : Fields) : Except DecErr Instr := do
  member x.f 3
  let d ← xreg x.d
  let a ← xreg x.s1
  mustBe (x.s2 == 0)
  .ok (.lic d a (x.f.setWidth 2) x.i x.c)

def decScalar07 (x : Fields) : Except DecErr Instr := do
  member x.f 6
  let d ← xreg x.d
  let b ← xreg x.s2
  let a ← xreg x.s1
  match x.f.toNat with
  | 0 => .ok (.mul d b a x.c)
  | 1 => .ok (.mulh d b a x.c)
  | 2 => .ok (.mulhn d b a x.c)
  | 3 => .ok (.div d b a x.c)
  | 4 => .ok (.divn d b a x.c)
  | 5 => .ok (.rem d b a x.c)
  | _ => .ok (.remn d b a x.c)

def decScalar08 (x : Fields) : Except DecErr Instr := do
  member x.f 4
  let d ← xreg x.d
  let a ← xreg x.s1
  mustBe (x.s2 == 0)
  match x.f.toNat with
  | 0 => .ok (.clz d a x.c)
  | 1 => .ok (.ctz d a x.c)
  | 2 => .ok (.popc d a x.c)
  | 3 => .ok (.brev d a x.c)
  | _ => .ok (.bswap d a x.c)

def decScalar09 (x : Fields) : Except DecErr Instr := do
  member x.f 1
  let d ← xreg x.d
  let a ← xreg x.s1
  mustBe (x.s2 == 0 && x.i.extractLsb' 12 4 == 0 && fieldOk (x.i.extractLsb' 0 6) (x.i.extractLsb' 6 6))
  match x.f.toNat with
  | 0 => .ok (.bfx d a (x.i.extractLsb' 0 6) (x.i.extractLsb' 6 6) x.c)
  | _ => .ok (.bfxs d a (x.i.extractLsb' 0 6) (x.i.extractLsb' 6 6) x.c)

def decScalar0A (x : Fields) : Except DecErr Instr := do
  member x.f 0
  let d ← xreg x.d
  let b ← xreg x.s2
  let a ← xreg x.s1
  mustBe (x.i.extractLsb' 12 4 == 0 && fieldOk (x.i.extractLsb' 0 6) (x.i.extractLsb' 6 6))
  .ok (.bfi d b a (x.i.extractLsb' 0 6) (x.i.extractLsb' 6 6) x.c)

def decScalar0B (x : Fields) : Except DecErr Instr := do
  let cc ← Cond.ofCode x.f
  let d ← low3 x.d
  let b ← xreg x.s2
  let a ← xreg x.s1
  .ok (.cmp d cc b a x.c)

def decScalar0C (x : Fields) : Except DecErr Instr := do
  let cc ← Cond.ofCode x.f
  let d ← low3 x.d
  let a ← xreg x.s1
  mustBe (x.s2 == 0)
  .ok (.cmpi d cc a x.i x.c)

def decScalar0D (x : Fields) : Except DecErr Instr := do
  member x.f 3
  let d ← low3 x.d
  let b ← low3 x.s2
  let a ← low3 x.s1
  match x.f.toNat with
  | 0 => .ok (.gand d b a x.c)
  | 1 => .ok (.gor d b a x.c)
  | 2 => .ok (.gxor d b a x.c)
  | _ => .ok (.gandn d b a x.c)

def decScalar0E (x : Fields) : Except DecErr Instr := do
  member x.f 0
  let d ← xreg x.d
  let a ← xreg x.s1
  let b ← xreg x.s2
  let g ← low3 x.s3
  mustBe (x.s4 == 0 && x.g == 0)
  .ok (.sel d b a g x.c)

def decScalar0F (x : Fields) : Except DecErr Instr := do
  member x.f 1
  match x.f.toNat with
  | 0 =>
    let d ← xreg x.d
    mustBe (x.s1 == 0 && x.s2 == 0)
    .ok (.gtox d x.c)
  | _ =>
    let a ← xreg x.s1
    mustBe (x.d == 0 && x.s2 == 0)
    .ok (.xtog a x.c)

def decScalar10 (x : Fields) : Except DecErr Instr := do
  let z ← LdSize.ofCode x.f
  let d ← xreg x.d
  let a ← xreg x.s1
  mustBe (x.s2 == 0)
  .ok (.ldl d a z x.i x.c)

def decScalar11 (x : Fields) : Except DecErr Instr := do
  let z ← StSize.ofCode x.f
  let d ← xreg x.d
  let a ← xreg x.s1
  mustBe (x.s2 == 0)
  .ok (.stl d a z x.i x.c)

def decScalar12 (x : Fields) : Except DecErr Instr := do
  let z ← LdSize.ofCode x.f
  let d ← xreg x.d
  let a ← xreg x.s1
  mustBe (x.s2 == 0)
  .ok (.ld d a z x.i x.c)

def decScalar13 (x : Fields) : Except DecErr Instr := do
  let z ← StSize.ofCode x.f
  let d ← xreg x.d
  let a ← xreg x.s1
  mustBe (x.s2 == 0)
  .ok (.st d a z x.i x.c)

def decScalar14 (x : Fields) : Except DecErr Instr := do
  member x.f 9
  let d ← xreg x.d
  let b ← xregIf (!([4, 7, 8, 9].contains x.f.toNat)) x.s2
  let a ← xreg x.s1
  mustBe (x.s2 == 0 || !([4, 7, 8, 9].contains x.f.toNat))
  match x.f.toNat with
  | 0 => .ok (.fadd false d b a x.c)
  | 1 => .ok (.fsub false d b a x.c)
  | 2 => .ok (.fmul false d b a x.c)
  | 3 => .ok (.fdiv false d b a x.c)
  | 4 => .ok (.fsqrt false d a x.c)
  | 5 => .ok (.fmin false d b a x.c)
  | 6 => .ok (.fmax false d b a x.c)
  | 7 => .ok (.fabs false d a x.c)
  | 8 => .ok (.fneg false d a x.c)
  | _ => .ok (.fclass false d a x.c)

def decScalar15 (x : Fields) : Except DecErr Instr := do
  member x.f 9
  let d ← xreg x.d
  let b ← xregIf (!([4, 7, 8, 9].contains x.f.toNat)) x.s2
  let a ← xreg x.s1
  mustBe (x.s2 == 0 || !([4, 7, 8, 9].contains x.f.toNat))
  match x.f.toNat with
  | 0 => .ok (.fadd true d b a x.c)
  | 1 => .ok (.fsub true d b a x.c)
  | 2 => .ok (.fmul true d b a x.c)
  | 3 => .ok (.fdiv true d b a x.c)
  | 4 => .ok (.fsqrt true d a x.c)
  | 5 => .ok (.fmin true d b a x.c)
  | 6 => .ok (.fmax true d b a x.c)
  | 7 => .ok (.fabs true d a x.c)
  | 8 => .ok (.fneg true d a x.c)
  | _ => .ok (.fclass true d a x.c)

def decScalar16 (x : Fields) : Except DecErr Instr := do
  member x.f 3
  let d ← xreg x.d
  let a ← xreg x.s1
  let b ← xreg x.s2
  let k ← xreg x.s3
  mustBe (x.s4 == 0 && x.g == 0)
  match x.f.toNat with
  | 0 => .ok (.fma false d k b a x.c)
  | 1 => .ok (.fms false d k b a x.c)
  | 2 => .ok (.fnma false d k b a x.c)
  | _ => .ok (.fnms false d k b a x.c)

def decScalar17 (x : Fields) : Except DecErr Instr := do
  member x.f 3
  let d ← xreg x.d
  let a ← xreg x.s1
  let b ← xreg x.s2
  let k ← xreg x.s3
  mustBe (x.s4 == 0 && x.g == 0)
  match x.f.toNat with
  | 0 => .ok (.fma true d k b a x.c)
  | 1 => .ok (.fms true d k b a x.c)
  | 2 => .ok (.fnma true d k b a x.c)
  | _ => .ok (.fnms true d k b a x.c)

def decScalar18 (x : Fields) : Except DecErr Instr := do
  if x.f.getLsbD 2 then .error .memberReserved else
  let d ← low3 x.d
  let b ← xreg x.s2
  let a ← xreg x.s1
  let cc ← FCond.ofCode (x.f.setWidth 2)
  .ok (.fcmp d (x.f.getLsbD 3) cc b a x.c)

def decScalar19 (x : Fields) : Except DecErr Instr := do
  member x.f 0
  let d ← xreg x.d
  let a ← xreg x.s1
  mustBe (x.s2 == 0 && x.i.extractLsb' 12 4 == 0)
  let src ← SType.ofCode (x.i.extractLsb' 0 4)
  let dst ← SType.ofCode (x.i.extractLsb' 4 4)
  let rm ← RM.ofCode (x.i.extractLsb' 8 3)
  .ok (.fcvt d a src dst rm (x.i.getLsbD 11) x.c)

def decScalar1A (x : Fields) : Except DecErr Instr := do
  mustBe (x.d.extractLsb' 4 2 == 0)
  .ok (.br (x.d.setWidth 4) x.i x.c)

def decScalar1B (x : Fields) : Except DecErr Instr := do
  mustBe (x.d == 0)
  .ok (.jmp (x.i2 ++ x.i) x.c)

def decScalar1C (x : Fields) : Except DecErr Instr := do
  mustBe (x.d == 0)
  .ok (.call (x.i2 ++ x.i) x.c)

def decScalar1D (x : Fields) : Except DecErr Instr := do
  member x.f 1
  let a ← xreg x.s1
  mustBe (x.d == 0 && x.s2 == 0)
  match x.f.toNat with
  | 0 => .ok (.jr a x.c)
  | _ => .ok (.callr a x.c)

def decScalar1E (x : Fields) : Except DecErr Instr := do
  let d ← xreg x.d
  .ok (.loop d x.i x.c)

def decScalar1F (x : Fields) : Except DecErr Instr := do
  .ok (.svc x.d x.c)

def decScalar20 (x : Fields) : Except DecErr Instr := do
  .ok (.brk x.d x.c)

/-- Steps 4 to 6 of R65 for opcodes 0x00 to 0x20 (R23, R24, R88 to R116). -/
def decScalar (x : Fields) : Except DecErr Instr :=
  match x.op.toNat with
  | 0x00 => decScalar00 x
  | 0x01 => decScalar01 x
  | 0x02 => decScalar02 x
  | 0x03 => decScalar03 x
  | 0x04 => decScalar04 x
  | 0x05 => decScalar05 x
  | 0x06 => decScalar06 x
  | 0x07 => decScalar07 x
  | 0x08 => decScalar08 x
  | 0x09 => decScalar09 x
  | 0x0A => decScalar0A x
  | 0x0B => decScalar0B x
  | 0x0C => decScalar0C x
  | 0x0D => decScalar0D x
  | 0x0E => decScalar0E x
  | 0x0F => decScalar0F x
  | 0x10 => decScalar10 x
  | 0x11 => decScalar11 x
  | 0x12 => decScalar12 x
  | 0x13 => decScalar13 x
  | 0x14 => decScalar14 x
  | 0x15 => decScalar15 x
  | 0x16 => decScalar16 x
  | 0x17 => decScalar17 x
  | 0x18 => decScalar18 x
  | 0x19 => decScalar19 x
  | 0x1A => decScalar1A x
  | 0x1B => decScalar1B x
  | 0x1C => decScalar1C x
  | 0x1D => decScalar1D x
  | 0x1E => decScalar1E x
  | 0x1F => decScalar1F x
  | 0x20 => decScalar20 x
  | _ => .error .opReserved

def decVector40 (x : Fields) : Except DecErr Instr := do
  member x.f 8
  let d ← vop x.d
  let a ← vop x.s1
  let b ← if x.f.toNat == 5 || x.f.toNat == 6 then .ok .null else vop x.s2
  let k ← maskOp x.s4
  let t ← VType.ofCode x.g
  mustBe (x.s3 == 0 && (if x.f.toNat == 5 || x.f.toNat == 6 then x.s2 == 0 && t.upTo5 else x.f.toNat < 7 || t.isInt))
  match x.f.toNat with
  | 0 => .ok (.vadd d b a t k x.c)
  | 1 => .ok (.vsub d b a t k x.c)
  | 2 => .ok (.vmul d b a t k x.c)
  | 3 => .ok (.vmin d b a t k x.c)
  | 4 => .ok (.vmax d b a t k x.c)
  | 5 => .ok (.vabs d a t k x.c)
  | 6 => .ok (.vneg d a t k x.c)
  | 7 => .ok (.vadds d b a t k x.c)
  | _ => .ok (.vsubs d b a t k x.c)

def decVector41 (x : Fields) : Except DecErr Instr := do
  member x.f 2
  let d ← vop x.d
  let a ← vop x.s1
  let b ← vop x.s2
  let y ← vop x.s3
  let k ← maskOp x.s4
  let t ← VType.ofCode x.g
  match x.f.toNat with
  | 0 => .ok (.vfma d y b a t k x.c)
  | 1 => .ok (.vfms d y b a t k x.c)
  | _ => .ok (.vfnma d y b a t k x.c)

def decVector42 (x : Fields) : Except DecErr Instr := do
  member x.f 6
  let d ← vop x.d
  let a ← vop x.s1
  let b ← vop x.s2
  let k ← maskOp x.s4
  let t ← VType.ofCode x.g
  mustBe (x.s3 == 0 && (x.f.toNat < 4 || t.isInt))
  match x.f.toNat with
  | 0 => .ok (.vand d b a t k x.c)
  | 1 => .ok (.vor d b a t k x.c)
  | 2 => .ok (.vxor d b a t k x.c)
  | 3 => .ok (.vandn d b a t k x.c)
  | 4 => .ok (.vshl d b a t k x.c)
  | 5 => .ok (.vshr d b a t k x.c)
  | _ => .ok (.vsar d b a t k x.c)

def decVector43 (x : Fields) : Except DecErr Instr := do
  let cc ← VCond.ofCode x.f
  let d ← maskOp x.d
  let a ← vop x.s1
  let b ← vop x.s2
  let k ← maskOp x.s4
  let t ← VType.ofCode x.g
  mustBe (!d.z && x.s3 == 0)
  .ok (.vcmp d.m cc b a t k x.c)

def decVector44 (x : Fields) : Except DecErr Instr := do
  member x.f 0
  let d ← vop x.d
  let a ← vop x.s1
  let b ← vop x.s2
  let q ← maskOp x.s3
  let k ← maskOp x.s4
  let t ← VType.ofCode x.g
  mustBe (!q.z)
  .ok (.vsel d b a q.m t k x.c)

def decVector45 (x : Fields) : Except DecErr Instr := do
  member x.f 4
  let d ← vop x.d
  let a ← vop x.s1
  let k ← maskOp x.s4
  mustBe (x.g == 0 && x.s2 == 0 && x.s3 == 0)
  match x.f.toNat with
  | 0 => .ok (.vexp2 d a k x.c)
  | 1 => .ok (.vlog2 d a k x.c)
  | 2 => .ok (.vrcp d a k x.c)
  | 3 => .ok (.vrsq d a k x.c)
  | _ => .ok (.vsqrt d a k x.c)

def decVector46 (x : Fields) : Except DecErr Instr := do
  member x.f 0
  let d ← vop x.d
  let a ← vop x.s1
  mustBe (x.s2.extractLsb' 4 2 == 0 && x.i.extractLsb' 12 4 == 0)
  let src ← CType.ofCode (x.i.extractLsb' 0 4)
  let dst ← CType.ofCode (x.i.extractLsb' 4 4)
  let rm ← RM.ofCode (x.i.extractLsb' 8 3)
  mustBe (src.partOk (x.s2.extractLsb' 0 2) && dst.partOk (x.s2.extractLsb' 2 2))
  .ok (.vcvt d a (x.s2.extractLsb' 0 2) (x.s2.extractLsb' 2 2) src dst rm (x.i.getLsbD 11) x.c)

def decVector47 (x : Fields) : Except DecErr Instr := do
  member x.f 2
  let d ← xreg x.d
  let a ← vop x.s1
  let k ← maskOp x.s4
  let t ← VType.ofCode x.g
  let rm ← RM.ofCode (x.s3.setWidth 3)
  mustBe (x.s2 == 0 && !k.z && x.s3.extractLsb' 3 3 == 0 && rm.notRS && (x.f.toNat == 0 || x.s3 == 0))
  match x.f.toNat with
  | 0 => .ok (.vredadd d a rm t k.m x.c)
  | 1 => .ok (.vredmin d a t k.m x.c)
  | _ => .ok (.vredmax d a t k.m x.c)

def decVector48 (x : Fields) : Except DecErr Instr := do
  member x.f 0
  let d ← vop x.d
  let a ← vop x.s1
  let b ← xreg x.s2
  let k ← maskOp x.s4
  let t ← VType.ofCode x.g
  let rm ← RM.ofCode (x.s3.setWidth 3)
  mustBe (x.s3.extractLsb' 3 3 == 0 && rm.notRS)
  .ok (.vscanadd d a b rm t k x.c)

def decVector49 (x : Fields) : Except DecErr Instr := do
  member x.f 0
  let d ← vop x.d
  let a ← xreg x.s1
  mustBe (x.s2.extractLsb' 4 2 == 0)
  let t ← VType.ofCode (x.s2.setWidth 4)
  .ok (.vbcast d t a x.c)

def decVector4A (x : Fields) : Except DecErr Instr := do
  member x.f 1
  let b ← xreg x.s2
  match x.f.toNat with
  | 0 =>
    let d ← xreg x.d
    let a ← vop x.s1
    .ok (.vextr d b a x.c)
  | _ =>
    let d ← vreg x.d
    let a ← xreg x.s1
    .ok (.vins d b a x.c)

def decVector4B (x : Fields) : Except DecErr Instr := do
  member x.f 2
  let d ← vop x.d
  let a ← xreg x.s1
  match x.f.toNat with
  | 0 =>
    mustBe (x.s2 == 0)
    let t ← MType.ofCode (x.i.extractLsb' 12 4)
    .ok (.vldl d a t (x.i.setWidth 12) x.c)
  | 1 =>
    let b ← xreg x.s2
    let t ← VType.ofCode (x.i.extractLsb' 12 4)
    .ok (.vldls d a b t (x.i.setWidth 12) x.c)
  | _ =>
    let ix ← vreg x.s2
    let t ← MType.ofCode (x.i.extractLsb' 12 4)
    .ok (.vgatl d a ix t (x.i.setWidth 12) x.c)

def decVector4C (x : Fields) : Except DecErr Instr := do
  member x.f 2
  let d ← vop x.d
  let a ← xreg x.s1
  match x.f.toNat with
  | 0 =>
    mustBe (x.s2 == 0)
    let t ← MType.ofCode (x.i.extractLsb' 12 4)
    .ok (.vstl d a t (x.i.setWidth 12) x.c)
  | 1 =>
    let b ← xreg x.s2
    let t ← VType.ofCode (x.i.extractLsb' 12 4)
    .ok (.vstls d a b t (x.i.setWidth 12) x.c)
  | _ =>
    let ix ← vreg x.s2
    let t ← MType.ofCode (x.i.extractLsb' 12 4)
    .ok (.vscatl d a ix t (x.i.setWidth 12) x.c)

def decVector4D (x : Fields) : Except DecErr Instr := do
  member x.f 1
  let d ← vop x.d
  let a ← xreg x.s1
  mustBe (x.s2 == 0)
  let t ← VType.ofCode (x.i.extractLsb' 12 4)
  match x.f.toNat with
  | 0 => .ok (.vld d a t (x.i.setWidth 12) x.c)
  | _ => .ok (.vst d a t (x.i.setWidth 12) x.c)

def decVector4E (x : Fields) : Except DecErr Instr := do
  member x.f 0
  let d ← vop x.d
  let a ← vop x.s1
  let b ← vop x.s2
  let y ← vop x.s3
  let k ← maskOp x.s4
  let t ← VType.ofCode x.g
  .ok (.vperm d y b a t k x.c)

def decVector4F (x : Fields) : Except DecErr Instr := do
  member x.f 1
  let d ← vop x.d
  let a ← vop x.s1
  let b ← vop x.s2
  let y ← vop x.s3
  let k ← maskOp x.s4
  mustBe (x.g.toNat == if x.f.toNat == 0 then 3 else 6)
  match x.f.toNat with
  | 0 => .ok (.vdot4 d y b a k x.c)
  | _ => .ok (.vdot4n d y b a k x.c)

def decVector50 (x : Fields) : Except DecErr Instr := do
  member x.f 0
  let d ← vop x.d
  if !d.regOrNull then .error .operandReserved else
  let a ← xreg x.s1
  let b ← xreg x.s2
  let y ← xreg x.s3
  let k ← maskOp x.s4
  mustBe (!k.z && x.g == 0)
  .ok (.visect d y b a k.m x.c)

def decVector51 (x : Fields) : Except DecErr Instr := do
  member x.f 0
  let d ← vop x.d
  let a ← vop x.s1
  let b ← xreg x.s2
  let k ← maskOp x.s4
  let t ← VType.ofCode x.g
  mustBe (!k.z && x.s3 == 0)
  .ok (.vcprs d a b t k.m x.c)

def decVector52 (x : Fields) : Except DecErr Instr := do
  member x.f 1
  let d ← vop x.d
  let a ← vop x.s1
  let b ← xreg x.s2
  let y ← if x.f.toNat == 0 then .ok .null else vop x.s3
  mustBe (x.s4 == 0 && x.g == 0 && (x.f.toNat == 1 || x.s3 == 0))
  match x.f.toNat with
  | 0 => .ok (.vhdrP d a b x.c)
  | _ => .ok (.vhdrA d y a b x.c)

def decVector53 (x : Fields) : Except DecErr Instr := do
  member x.f 1
  match x.f.toNat with
  | 0 =>
    let d ← vop x.d
    let a ← vop x.s1
    mustBe (x.s2 == 0)
    .ok (.vmov d a x.c)
  | _ =>
    let d ← linkOp x.d
    let a ← linkOp x.s1
    let b ← fwdReg x.s2
    .ok (.vfwd d a b x.c)

/-- REP. A count outside 1 to 16 fails step 6. DESIGN CHOICE (log 94). -/
def decVector54 (x : Fields) : Except DecErr Instr := do
  member x.f 0
  let a ← xreg x.s1
  mustBe (x.d == 0 && x.s2 == 0 && x.i.extractLsb' 10 6 == 0 && 1 ≤ (x.i.extractLsb' 0 5).toNat && (x.i.extractLsb' 0 5).toNat ≤ 16)
  .ok (.rep a (x.i.extractLsb' 0 5) (x.i.extractLsb' 5 5) x.c)

def decVector55 (x : Fields) : Except DecErr Instr := do
  member x.f 2
  let q ← streamOp x.d
  let a ← xregIf (x.f.toNat != 2) x.s1
  let b ← xregIf (x.f.toNat == 2) x.s2
  mustBe (if x.f.toNat == 2 then x.s1 == 0 else x.s2 == 0)
  match x.f.toNat with
  | 0 => .ok (.scfgRead q a x.c)
  | 1 => .ok (.scfgWrite q a x.c)
  | _ => .ok (.scfgStop q b x.c)

/-- Steps 4 to 6 of R65 for opcodes 0x40 to 0x55 (R166 to R200). -/
def decVector (x : Fields) : Except DecErr Instr :=
  match x.op.toNat with
  | 0x40 => decVector40 x
  | 0x41 => decVector41 x
  | 0x42 => decVector42 x
  | 0x43 => decVector43 x
  | 0x44 => decVector44 x
  | 0x45 => decVector45 x
  | 0x46 => decVector46 x
  | 0x47 => decVector47 x
  | 0x48 => decVector48 x
  | 0x49 => decVector49 x
  | 0x4A => decVector4A x
  | 0x4B => decVector4B x
  | 0x4C => decVector4C x
  | 0x4D => decVector4D x
  | 0x4E => decVector4E x
  | 0x4F => decVector4F x
  | 0x50 => decVector50 x
  | 0x51 => decVector51 x
  | 0x52 => decVector52 x
  | 0x53 => decVector53 x
  | 0x54 => decVector54 x
  | 0x55 => decVector55 x
  | _ => .error .opReserved

def decParallel70 (x : Fields) : Except DecErr Instr := do
  member x.f 4
  let d ← xreg x.d
  mustBe (x.s1 == 0 && x.s2 == 0)
  match x.f.toNat with
  | 0 => .ok (.whopos d x.c)
  | 1 => .ok (.whodim d x.c)
  | 2 => .ok (.whocore d x.c)
  | 3 => .ok (.whoplot d x.c)
  | _ => .ok (.wholaunch d x.c)

def decParallel71 (x : Fields) : Except DecErr Instr := do
  mustBe (x.d == 0 && x.i.extractLsb' 10 6 == 0)
  .ok (.gang (x.i.extractLsb' 5 5) (x.i.extractLsb' 0 5) x.c)

def decParallel72 (x : Fields) : Except DecErr Instr := do
  mustBe (x.d == 0)
  .ok (.split x.c)

def decParallel73 (x : Fields) : Except DecErr Instr := do
  member x.f 3
  let a ← xreg x.s1
  let b ← xregIf (x.f.toNat == 0) x.s2
  mustBe (x.d == 0 && (x.f.toNat == 0 || x.s2 == 0))
  match x.f.toNat with
  | 0 => .ok (.barInit b a x.c)
  | 1 => .ok (.barArrive a x.c)
  | 2 => .ok (.barWait a x.c)
  | _ => .ok (.barSync a x.c)

def decParallel74 (x : Fields) : Except DecErr Instr := do
  member x.f 2
  let g ← if x.f.toNat == 2 then low3 x.d else .ok 0
  let a ← xreg x.s1
  let b ← xreg x.s2
  mustBe (x.f.toNat == 2 || x.d == 0)
  match x.f.toNat with
  | 0 => .ok (.evtSig b a x.c)
  | 1 => .ok (.evtWait b a x.c)
  | _ => .ok (.evtTest g b a x.c)

def decParallel75 (x : Fields) : Except DecErr Instr := do
  mustBe (x.d == 0)
  .ok (.sstep x.c)

def decParallel76 (x : Fields) : Except DecErr Instr := do
  member x.f 3
  let d ← xregIf (x.f.toNat == 0) x.d
  let a ← xregIf (x.f.toNat != 3) x.s1
  mustBe (x.s2 == 0 && (x.f.toNat == 0 || x.d == 0) && (x.f.toNat < 3 || x.s1 == 0))
  match x.f.toNat with
  | 0 => .ok (.stageNext d a x.c)
  | 1 => .ok (.stageAdv a x.c)
  | 2 => .ok (.stageWaitl a x.c)
  | _ => .ok (.stageEnd x.c)

def decParallel77 (x : Fields) : Except DecErr Instr := do
  mustBe (x.d == 0)
  .ok (.yield x.c)

/-- Steps 4 to 6 of R65 for opcodes 0x70 to 0x77 (R204). -/
def decParallel (x : Fields) : Except DecErr Instr :=
  match x.op.toNat with
  | 0x70 => decParallel70 x
  | 0x71 => decParallel71 x
  | 0x72 => decParallel72 x
  | 0x73 => decParallel73 x
  | 0x74 => decParallel74 x
  | 0x75 => decParallel75 x
  | 0x76 => decParallel76 x
  | 0x77 => decParallel77 x
  | _ => .error .opReserved

def decMemory80 (x : Fields) : Except DecErr Instr := do
  member x.f 0
  let d ← xreg x.d
  let a ← xreg x.s1
  mustBe (x.s2 == 0 && x.s3 == 0 && x.s4.extractLsb' 3 3 == 0)
  let sc ← Scope.ofCode (x.s4.setWidth 3)
  let z ← ldSizeG x.g
  .ok (.lda d a z sc x.c)

def decMemory81 (x : Fields) : Except DecErr Instr := do
  member x.f 0
  let d ← xreg x.d
  let a ← xreg x.s1
  mustBe (x.s2 == 0 && x.s3 == 0 && x.s4.extractLsb' 3 3 == 0)
  let sc ← Scope.ofCode (x.s4.setWidth 3)
  let z ← stSizeG x.g
  .ok (.strl d a z sc x.c)

def decMemory82 (x : Fields) : Except DecErr Instr := do
  mustBe (x.d == 0 && x.i.extractLsb' 7 9 == 0)
  let sc ← Scope.ofCode (x.i.extractLsb' 4 3)
  .ok (.fence sc (x.i.extractLsb' 0 4) x.c)

def decMemory83 (x : Fields) : Except DecErr Instr := do
  let q ← AmoOp.ofCode x.f
  let d ← xreg x.d
  let a ← xreg x.s1
  let b ← xreg x.s2
  mustBe (x.s3 == 0)
  mustBe (!x.s4.getLsbD 3)
  let sc ← Scope.ofCode (x.s4.setWidth 3)
  let o ← Ord.ofCode (x.s4.extractLsb' 4 2)
  let w ← atomSizeG x.g
  .ok (.amo q d b a w o sc x.c)

def decMemory84 (x : Fields) : Except DecErr Instr := do
  member x.f 0
  let d ← xreg x.d
  let a ← xreg x.s1
  let b ← xreg x.s2
  let y ← xreg x.s3
  mustBe (!x.s4.getLsbD 3)
  let sc ← Scope.ofCode (x.s4.setWidth 3)
  let o ← Ord.ofCode (x.s4.extractLsb' 4 2)
  let w ← atomSizeG x.g
  .ok (.cas d y b a w o sc x.c)

def decMemory85 (x : Fields) : Except DecErr Instr := do
  let q ← LogOp.ofCode x.f
  let a ← xreg x.s1
  let b ← xreg x.s2
  mustBe (x.d == 0 && x.s3 == 0 && x.s4 == 0)
  let t ← LogTy.ofCode x.g
  .ok (.log q b a t x.c)

def decMemory86 (x : Fields) : Except DecErr Instr := do
  member x.f 2
  let d ← xregIf (x.f.toNat == 1) x.d
  let a ← xregIf (x.f.toNat != 2) x.s1
  mustBe (x.s2 == 0 && (x.f.toNat == 1 || x.d == 0) && (x.f.toNat < 2 || x.s1 == 0))
  match x.f.toNat with
  | 0 => .ok (.monarm a x.c)
  | 1 => .ok (.mwait d a x.c)
  | _ => .ok (.mdisarm x.c)

def decMemory87 (x : Fields) : Except DecErr Instr := do
  member x.f 1
  let a ← xreg x.s1
  mustBe (x.d == 0 && x.s2 == 0)
  .ok (.pref (x.f.toNat == 1) a x.i x.c)

def decMemory88 (x : Fields) : Except DecErr Instr := do
  member x.f 2
  let a ← xregIf (x.f.toNat == 0) x.s1
  let b ← xregIf (x.f.toNat == 0) x.s2
  mustBe (x.d.extractLsb' 2 4 == 0 && (x.f.toNat == 0 || (x.s1 == 0 && x.s2 == 0)))
  match x.f.toNat with
  | 0 => .ok (.stashMap (x.d.setWidth 2) b a x.c)
  | 1 => .ok (.stashClean (x.d.setWidth 2) x.c)
  | _ => .ok (.stashDrop (x.d.setWidth 2) x.c)

def decMemory89 (x : Fields) : Except DecErr Instr := do
  member x.f 5
  if x.f.toNat == 5 then do
    let d ← xreg x.d
    let h ← low3 x.s1
    mustBe (x.s2 == 0)
    .ok (.ringPtr d h x.c)
  else do
    let h ← low3 x.d
    let a ← xreg x.s1
    let b ← xregIf (x.f.toNat == 0) x.s2
    mustBe (x.f.toNat == 0 || x.s2 == 0)
    match x.f.toNat with
    | 0 => .ok (.ringInit h b a x.c)
    | 1 => .ok (.ringRsv h a x.c)
    | 2 => .ok (.ringWait h a x.c)
    | 3 => .ok (.ringAdvp h a x.c)
    | _ => .ok (.ringAdvc h a x.c)

def decMemory8A (x : Fields) : Except DecErr Instr := do
  member x.f 3
  match x.f.toNat with
  | 0 =>
    let w ← low4 x.d
    let a ← xreg x.s1
    let b ← xreg x.s2
    .ok (.winInit w b a x.c)
  | 1 =>
    let w ← low4 x.d
    mustBe (x.s1 == 0 && x.s2 == 0)
    .ok (.winPub w x.c)
  | 2 =>
    let d ← xreg x.d
    let w ← low4 x.s1
    mustBe (x.s2 == 0)
    .ok (.winBack d w x.c)
  | _ =>
    let d ← xreg x.d
    let w ← low4 x.s1
    mustBe (x.s2 == 0)
    .ok (.winFront d w x.c)

def decMemory8B (x : Fields) : Except DecErr Instr := do
  mustBe (x.d == 0 && x.i.extractLsb' 3 13 == 0)
  let sc ← Scope.ofCode (x.i.setWidth 3)
  .ok (.ifence sc x.c)

def decMemory8C (x : Fields) : Except DecErr Instr := do
  member x.f 1
  let a ← xreg x.s1
  let b ← xreg x.s2
  mustBe (x.d == 0)
  match x.f.toNat with
  | 0 => .ok (.cclean b a x.c)
  | _ => .ok (.cinv b a x.c)

def decMemory8D (x : Fields) : Except DecErr Instr := do
  member x.f 1
  let d ← xregIf (x.f.toNat != 0) x.d
  let a ← xreg x.s1
  let b ← xregIf (x.f.toNat == 0) x.s2
  mustBe (if x.f.toNat == 0 then x.d == 0 else x.s2 == 0)
  match x.f.toNat with
  | 0 => .ok (.bankfSet b a x.c)
  | _ => .ok (.bankfGet d a x.c)

/-- Steps 4 to 6 of R65 for opcodes 0x80 to 0x8D (R272). -/
def decMemory (x : Fields) : Except DecErr Instr :=
  match x.op.toNat with
  | 0x80 => decMemory80 x
  | 0x81 => decMemory81 x
  | 0x82 => decMemory82 x
  | 0x83 => decMemory83 x
  | 0x84 => decMemory84 x
  | 0x85 => decMemory85 x
  | 0x86 => decMemory86 x
  | 0x87 => decMemory87 x
  | 0x88 => decMemory88 x
  | 0x89 => decMemory89 x
  | 0x8A => decMemory8A x
  | 0x8B => decMemory8B x
  | 0x8C => decMemory8C x
  | 0x8D => decMemory8D x
  | _ => .error .opReserved

def decEngineA0 (x : Fields) : Except DecErr Instr := do
  member x.f 4
  match x.f.toNat with
  | 0 =>
    let dir ← dirOp x.d
    let a ← xreg x.s1
    let b ← xreg x.s2
    let y ← xreg x.s3
    let z ← xreg x.s4
    mustBe (x.g == 0)
    .ok (.lnkOpen dir a b y z x.c)
  | 1 =>
    let dir ← dirOp x.d
    mustBe (x.g == 0 && x.s1 == 0 && x.s2 == 0 && x.s3 == 0 && x.s4 == 0)
    .ok (.lnkClose dir x.c)
  | 2 =>
    let w ← low4 x.s1
    mustBe (x.d == 0 && x.g == 0 && x.s2 == 0 && x.s3 == 0 && x.s4 == 0)
    .ok (.lnkWait w x.c)
  | 3 =>
    let dir ← dirOp x.d
    let a ← xreg x.s1
    mustBe (x.g == 0 && x.s2 == 0 && x.s3 == 0 && x.s4 == 0)
    .ok (.lnkStat a dir x.c)
  | _ =>
    let dir ← dirOp x.d
    mustBe (x.g == 0 && x.s1 == 0 && x.s2 == 0 && x.s3 == 0 && x.s4 == 0)
    .ok (.lnkCancel dir x.c)

def decEngineA1 (x : Fields) : Except DecErr Instr := do
  member x.f 0
  let k ← low3 x.d
  let a ← xreg x.s1
  let b ← xreg x.s2
  let y ← xreg x.s3
  .ok (.xcopy k a b y (x.s4.extractLsb' 4 2) (x.s4.setWidth 4) x.g x.c)

def decEngineA2 (x : Fields) : Except DecErr Instr := do
  member x.f 0
  let k ← low3 x.d
  let a ← xreg x.s1
  let ix ← vreg x.s2
  let y ← xreg x.s3
  let q ← maskOp x.s4
  mustBe (!q.z)
  if h : x.g.toNat < 7 then
    .ok (.getx k a ix y q.m ⟨x.g.toNat, h⟩ x.c)
  else .error .unusedNonzero

def decEngineA3 (x : Fields) : Except DecErr Instr := do
  member x.f 0
  let k ← low3 x.d
  let a ← xreg x.s1
  let ix ← vreg x.s2
  let y ← xreg x.s3
  let q ← maskOp x.s4
  mustBe (!q.z)
  if h : x.g.toNat < 7 then
    .ok (.placex k a ix y q.m ⟨x.g.toNat, h⟩ x.c)
  else .error .unusedNonzero

def decEngineA4 (x : Fields) : Except DecErr Instr := do
  member x.f 2
  match x.f.toNat with
  | 1 =>
    let d ← xreg x.d
    let k ← low3 x.s1
    mustBe (x.s2 == 0)
    .ok (.ccntRd d k x.c)
  | n =>
    let k ← low3 x.d
    let a ← xreg x.s1
    mustBe (x.s2 == 0)
    if n == 0 then .ok (.ccntWait k a x.c) else .ok (.ccntSet k a x.c)

def decEngineA5 (x : Fields) : Except DecErr Instr := do
  member x.f 0
  let k ← low3 x.d
  let w ← low4 x.s1
  let b ← xreg x.s2
  let y ← xreg x.s3
  let z ← xreg x.s4
  mustBe (x.g == 0)
  .ok (.compact k w b y z x.c)

def decEngineA6 (x : Fields) : Except DecErr Instr := do
  member x.f 0
  let a ← xreg x.s1
  mustBe (x.d == 0 && x.s2 == 0)
  .ok (.keyq a x.c)

def decEngineA7 (x : Fields) : Except DecErr Instr := do
  member x.f 0
  let a ← xreg x.s1
  mustBe (x.d == 0 && x.s2 == 0)
  .ok (.keyg a x.c)

def decEngineA8 (x : Fields) : Except DecErr Instr := do
  member x.f 1
  let h ← low3 x.d
  let a ← xreg x.s1
  mustBe (x.s2 == 0)
  match x.f.toNat with
  | 0 => .ok (.chanSend h a x.c)
  | _ => .ok (.chanRecv h a x.c)

def decEngineA9 (x : Fields) : Except DecErr Instr := do
  member x.f 0
  let k ← low3 x.d
  let a ← xreg x.s1
  let b ← xreg x.s2
  let y ← xreg x.s3
  mustBe (x.s4 == 0 && x.g == 0)
  .ok (.slmsg k a b y x.c)

/-- Steps 4 to 6 of R65 for opcodes 0xA0 to 0xA9 (R299, R326). -/
def decEngine (x : Fields) : Except DecErr Instr :=
  match x.op.toNat with
  | 0xA0 => decEngineA0 x
  | 0xA1 => decEngineA1 x
  | 0xA2 => decEngineA2 x
  | 0xA3 => decEngineA3 x
  | 0xA4 => decEngineA4 x
  | 0xA5 => decEngineA5 x
  | 0xA6 => decEngineA6 x
  | 0xA7 => decEngineA7 x
  | 0xA8 => decEngineA8 x
  | 0xA9 => decEngineA9 x
  | _ => .error .opReserved

/-- The slice-core family. SH.FWD with D of 2 or more fails step 6. DESIGN CHOICE (log 95). -/
def decSystemB0 (x : Fields) : Except DecErr Instr := do
  member x.f 4
  match x.f.toNat with
  | 0 =>
    if x.d.getLsbD 5 then do
      let a ← xreg x.s1
      mustBe (x.d.extractLsb' 1 4 == 0 && x.s2 == 0)
      .ok (.shLineF (x.d.getLsbD 0) a x.c)
    else do
      let a ← xreg x.s1
      let b ← xreg x.s2
      .ok (.shLineX (x.d.setWidth 5) b a x.c)
  | 1 =>
    let a ← xreg x.s1
    mustBe (x.d == 0 && x.s2 == 0)
    .ok (.shPref a x.c)
  | 2 =>
    let a ← xreg x.s1
    mustBe (x.d == 0 && x.s2 == 0)
    .ok (.shReply a x.c)
  | 3 =>
    let a ← xregIf (x.d == 0) x.s1
    let b ← xreg x.s2
    if x.d == 0 then .ok (.shFwdMem b a x.c)
    else do
      mustBe (x.d == 1 && x.s1 == 0)
      .ok (.shFwdAcc b x.c)
  | _ =>
    mustBe (x.d == 0 && x.s1 == 0 && x.s2 == 0)
    .ok (.shDone x.c)

def decSystemB1 (x : Fields) : Except DecErr Instr := do
  mustBe (x.d == 0)
  .ok (.sfma x.c)

def decSystemC0 (x : Fields) : Except DecErr Instr := do
  mustBe (x.d == 0)
  .ok (.eret x.c)

def decSystemC1 (x : Fields) : Except DecErr Instr := do
  member x.f 1
  match x.f.toNat with
  | 0 =>
    let d ← xreg x.d
    mustBe (x.s1 == 0 && x.s2 == 0)
    let r ← SysReg.ofCode x.i
    .ok (.sysRd d r x.c)
  | _ =>
    let a ← xreg x.s1
    mustBe (x.d == 0 && x.s2 == 0)
    let r ← SysReg.ofCode x.i
    mustBe r.writable
    .ok (.sysWr a r x.c)

def decSystemC2 (x : Fields) : Except DecErr Instr := do
  member x.f 2
  let a ← xregIf (x.f.toNat == 0) x.s1
  mustBe (x.d == 0 && x.s2 == 0 && (x.f.toNat == 0 || x.s1 == 0))
  match x.f.toNat with
  | 0 => .ok (.tlbinvPage a x.c)
  | 1 => .ok (.tlbinvTenant x.c)
  | _ => .ok (.tlbinvAll x.c)

def decSystemC3 (x : Fields) : Except DecErr Instr := do
  member x.f 1
  let a ← xreg x.s1
  let b ← xreg x.s2
  mustBe (x.d == 0)
  match x.f.toNat with
  | 0 => .ok (.ctxSave b a x.c)
  | _ => .ok (.ctxLoad b a x.c)

def decSystemC4 (x : Fields) : Except DecErr Instr := do
  mustBe (x.d == 0)
  .ok (.wfi x.c)

def decSystemD0 (x : Fields) : Except DecErr Instr := do
  member x.f 0
  let d ← vreg x.d
  let a ← xreg x.s1
  let b ← xreg x.s2
  let g ← low3 x.s3
  mustBe (x.s4.extractLsb' 3 3 == 0 && x.g.extractLsb' 2 2 == 0 && !(x.g.getLsbD 0 && !x.g.getLsbD 1 && d == 31))
  .ok (.ldred d a b g (x.s4.setWidth 3) (x.g.getLsbD 0) (x.g.getLsbD 1) x.c)

def decSystemD1 (x : Fields) : Except DecErr Instr := do
  member x.f 1
  match x.f.toNat with
  | 0 =>
    let a ← xreg x.s1
    let b ← xreg x.s2
    mustBe (x.d.extractLsb' 3 3 == 0)
    .ok (.grpSet (x.d.setWidth 3) b a x.c)
  | _ =>
    mustBe (x.d.extractLsb' 3 3 == 0 && x.s1 == 0 && x.s2 == 0)
    .ok (.grpClr (x.d.setWidth 3) x.c)

/-- Steps 4 to 6 of R65 for opcodes 0xB0 to 0xD1 (R352, R353, R380 to R384, R398, R399). -/
def decSystem (x : Fields) : Except DecErr Instr :=
  match x.op.toNat with
  | 0xB0 => decSystemB0 x
  | 0xB1 => decSystemB1 x
  | 0xC0 => decSystemC0 x
  | 0xC1 => decSystemC1 x
  | 0xC2 => decSystemC2 x
  | 0xC3 => decSystemC3 x
  | 0xC4 => decSystemC4 x
  | 0xD0 => decSystemD0 x
  | 0xD1 => decSystemD1 x
  | _ => .error .opReserved

/-- Steps 4 to 6 of R65: the instruction that these fields encode. DEDUCED (log 11, 12, 13). -/
def decodeFields (x : Fields) : Except DecErr Instr :=
  if x.op.toNat < 0x40 then decScalar x
  else if x.op.toNat < 0x70 then decVector x
  else if x.op.toNat < 0x80 then decParallel x
  else if x.op.toNat < 0xA0 then decMemory x
  else if x.op.toNat < 0xB0 then decEngine x
  else decSystem x

/-- Steps 1 to 6 of R65 on a head and its tail words, on a kind of core. -/
def decode (k : CoreKind) (h : Half) (t : List Half) : Except DecErr Instr :=
  match opClass (headOP h).toNat with
  | none => .error .opReserved
  | some cl =>
    match unpackTail cl h t with
    | .error r => .error r
    | .ok x => if acceptedOn k (headOP h).toNat then decodeFields x else .error .wrongCore

/-- The fields of an instruction, from the encoding tables of its entry; `none` for an event, which has no encoding. -/
def encodeFields (i : Instr) : Option Fields :=
  match i with
  | .nop c => some { c := c }
  | .halt v c => some { op := 0x01, d := v, c := c }
  | .add w d b a c => some { op := if w then 0x03 else 0x02, d := d.setWidth 6, f := 0, s2 := b.setWidth 6, s1 := a.setWidth 6, c := c }
  | .sub w d b a c => some { op := if w then 0x03 else 0x02, d := d.setWidth 6, f := 1, s2 := b.setWidth 6, s1 := a.setWidth 6, c := c }
  | .and w d b a c => some { op := if w then 0x03 else 0x02, d := d.setWidth 6, f := 2, s2 := b.setWidth 6, s1 := a.setWidth 6, c := c }
  | .or w d b a c => some { op := if w then 0x03 else 0x02, d := d.setWidth 6, f := 3, s2 := b.setWidth 6, s1 := a.setWidth 6, c := c }
  | .xor w d b a c => some { op := if w then 0x03 else 0x02, d := d.setWidth 6, f := 4, s2 := b.setWidth 6, s1 := a.setWidth 6, c := c }
  | .andn w d b a c => some { op := if w then 0x03 else 0x02, d := d.setWidth 6, f := 5, s2 := b.setWidth 6, s1 := a.setWidth 6, c := c }
  | .shl w d b a c => some { op := if w then 0x03 else 0x02, d := d.setWidth 6, f := 6, s2 := b.setWidth 6, s1 := a.setWidth 6, c := c }
  | .shr w d b a c => some { op := if w then 0x03 else 0x02, d := d.setWidth 6, f := 7, s2 := b.setWidth 6, s1 := a.setWidth 6, c := c }
  | .sar w d b a c => some { op := if w then 0x03 else 0x02, d := d.setWidth 6, f := 8, s2 := b.setWidth 6, s1 := a.setWidth 6, c := c }
  | .rot w d b a c => some { op := if w then 0x03 else 0x02, d := d.setWidth 6, f := 9, s2 := b.setWidth 6, s1 := a.setWidth 6, c := c }
  | .min w d b a c => some { op := if w then 0x03 else 0x02, d := d.setWidth 6, f := 10, s2 := b.setWidth 6, s1 := a.setWidth 6, c := c }
  | .max w d b a c => some { op := if w then 0x03 else 0x02, d := d.setWidth 6, f := 11, s2 := b.setWidth 6, s1 := a.setWidth 6, c := c }
  | .minn w d b a c => some { op := if w then 0x03 else 0x02, d := d.setWidth 6, f := 12, s2 := b.setWidth 6, s1 := a.setWidth 6, c := c }
  | .maxn w d b a c => some { op := if w then 0x03 else 0x02, d := d.setWidth 6, f := 13, s2 := b.setWidth 6, s1 := a.setWidth 6, c := c }
  | .addi d a v c => some { op := 0x04, d := d.setWidth 6, f := 0, s1 := a.setWidth 6, i := v, c := c }
  | .andi d a v c => some { op := 0x04, d := d.setWidth 6, f := 1, s1 := a.setWidth 6, i := v, c := c }
  | .ori d a v c => some { op := 0x04, d := d.setWidth 6, f := 2, s1 := a.setWidth 6, i := v, c := c }
  | .xori d a v c => some { op := 0x04, d := d.setWidth 6, f := 3, s1 := a.setWidth 6, i := v, c := c }
  | .shli d a v c => some { op := 0x04, d := d.setWidth 6, f := 4, s1 := a.setWidth 6, i := v.setWidth 16, c := c }
  | .shri d a v c => some { op := 0x04, d := d.setWidth 6, f := 5, s1 := a.setWidth 6, i := v.setWidth 16, c := c }
  | .sari d a v c => some { op := 0x04, d := d.setWidth 6, f := 6, s1 := a.setWidth 6, i := v.setWidth 16, c := c }
  | .roti d a v c => some { op := 0x04, d := d.setWidth 6, f := 7, s1 := a.setWidth 6, i := v.setWidth 16, c := c }
  | .li d v c => some { op := 0x05, d := d.setWidth 6, i := v, c := c }
  | .lic d a k v c => some { op := 0x06, d := d.setWidth 6, f := k.setWidth 4, s1 := a.setWidth 6, i := v, c := c }
  | .mul d b a c => some { op := 0x07, d := d.setWidth 6, f := 0, s2 := b.setWidth 6, s1 := a.setWidth 6, c := c }
  | .mulh d b a c => some { op := 0x07, d := d.setWidth 6, f := 1, s2 := b.setWidth 6, s1 := a.setWidth 6, c := c }
  | .mulhn d b a c => some { op := 0x07, d := d.setWidth 6, f := 2, s2 := b.setWidth 6, s1 := a.setWidth 6, c := c }
  | .div d b a c => some { op := 0x07, d := d.setWidth 6, f := 3, s2 := b.setWidth 6, s1 := a.setWidth 6, c := c }
  | .divn d b a c => some { op := 0x07, d := d.setWidth 6, f := 4, s2 := b.setWidth 6, s1 := a.setWidth 6, c := c }
  | .rem d b a c => some { op := 0x07, d := d.setWidth 6, f := 5, s2 := b.setWidth 6, s1 := a.setWidth 6, c := c }
  | .remn d b a c => some { op := 0x07, d := d.setWidth 6, f := 6, s2 := b.setWidth 6, s1 := a.setWidth 6, c := c }
  | .clz d a c => some { op := 0x08, d := d.setWidth 6, f := 0, s1 := a.setWidth 6, c := c }
  | .ctz d a c => some { op := 0x08, d := d.setWidth 6, f := 1, s1 := a.setWidth 6, c := c }
  | .popc d a c => some { op := 0x08, d := d.setWidth 6, f := 2, s1 := a.setWidth 6, c := c }
  | .brev d a c => some { op := 0x08, d := d.setWidth 6, f := 3, s1 := a.setWidth 6, c := c }
  | .bswap d a c => some { op := 0x08, d := d.setWidth 6, f := 4, s1 := a.setWidth 6, c := c }
  | .bfx d a p w c => some { op := 0x09, d := d.setWidth 6, s1 := a.setWidth 6, i := fieldImm p w, c := c }
  | .bfxs d a p w c => some { op := 0x09, d := d.setWidth 6, f := 1, s1 := a.setWidth 6, i := fieldImm p w, c := c }
  | .bfi d b a p w c => some { op := 0x0A, d := d.setWidth 6, s2 := b.setWidth 6, s1 := a.setWidth 6, i := fieldImm p w, c := c }
  | .cmp d cc b a c => some { op := 0x0B, d := d.setWidth 6, f := cc.code, s2 := b.setWidth 6, s1 := a.setWidth 6, c := c }
  | .cmpi d cc a v c => some { op := 0x0C, d := d.setWidth 6, f := cc.code, s1 := a.setWidth 6, i := v, c := c }
  | .gand d b a c => some { op := 0x0D, d := d.setWidth 6, f := 0, s2 := b.setWidth 6, s1 := a.setWidth 6, c := c }
  | .gor d b a c => some { op := 0x0D, d := d.setWidth 6, f := 1, s2 := b.setWidth 6, s1 := a.setWidth 6, c := c }
  | .gxor d b a c => some { op := 0x0D, d := d.setWidth 6, f := 2, s2 := b.setWidth 6, s1 := a.setWidth 6, c := c }
  | .gandn d b a c => some { op := 0x0D, d := d.setWidth 6, f := 3, s2 := b.setWidth 6, s1 := a.setWidth 6, c := c }
  | .sel d b a g c => some { op := 0x0E, d := d.setWidth 6, s2 := b.setWidth 6, s1 := a.setWidth 6, s3 := g.setWidth 6, c := c }
  | .gtox d c => some { op := 0x0F, d := d.setWidth 6, c := c }
  | .xtog a c => some { op := 0x0F, f := 1, s1 := a.setWidth 6, c := c }
  | .ldl d a z v c => some { op := 0x10, d := d.setWidth 6, f := z.code, s1 := a.setWidth 6, i := v, c := c }
  | .stl d a z v c => some { op := 0x11, d := d.setWidth 6, f := z.code, s1 := a.setWidth 6, i := v, c := c }
  | .ld d a z v c => some { op := 0x12, d := d.setWidth 6, f := z.code, s1 := a.setWidth 6, i := v, c := c }
  | .st d a z v c => some { op := 0x13, d := d.setWidth 6, f := z.code, s1 := a.setWidth 6, i := v, c := c }
  | .fadd t d b a c => some { op := if t then 0x15 else 0x14, d := d.setWidth 6, f := 0, s2 := b.setWidth 6, s1 := a.setWidth 6, c := c }
  | .fsub t d b a c => some { op := if t then 0x15 else 0x14, d := d.setWidth 6, f := 1, s2 := b.setWidth 6, s1 := a.setWidth 6, c := c }
  | .fmul t d b a c => some { op := if t then 0x15 else 0x14, d := d.setWidth 6, f := 2, s2 := b.setWidth 6, s1 := a.setWidth 6, c := c }
  | .fdiv t d b a c => some { op := if t then 0x15 else 0x14, d := d.setWidth 6, f := 3, s2 := b.setWidth 6, s1 := a.setWidth 6, c := c }
  | .fsqrt t d a c => some { op := if t then 0x15 else 0x14, d := d.setWidth 6, f := 4, s1 := a.setWidth 6, c := c }
  | .fmin t d b a c => some { op := if t then 0x15 else 0x14, d := d.setWidth 6, f := 5, s2 := b.setWidth 6, s1 := a.setWidth 6, c := c }
  | .fmax t d b a c => some { op := if t then 0x15 else 0x14, d := d.setWidth 6, f := 6, s2 := b.setWidth 6, s1 := a.setWidth 6, c := c }
  | .fabs t d a c => some { op := if t then 0x15 else 0x14, d := d.setWidth 6, f := 7, s1 := a.setWidth 6, c := c }
  | .fneg t d a c => some { op := if t then 0x15 else 0x14, d := d.setWidth 6, f := 8, s1 := a.setWidth 6, c := c }
  | .fclass t d a c => some { op := if t then 0x15 else 0x14, d := d.setWidth 6, f := 9, s1 := a.setWidth 6, c := c }
  | .fma t d k b a c => some { op := if t then 0x17 else 0x16, d := d.setWidth 6, f := 0, s3 := k.setWidth 6, s2 := b.setWidth 6, s1 := a.setWidth 6, c := c }
  | .fms t d k b a c => some { op := if t then 0x17 else 0x16, d := d.setWidth 6, f := 1, s3 := k.setWidth 6, s2 := b.setWidth 6, s1 := a.setWidth 6, c := c }
  | .fnma t d k b a c => some { op := if t then 0x17 else 0x16, d := d.setWidth 6, f := 2, s3 := k.setWidth 6, s2 := b.setWidth 6, s1 := a.setWidth 6, c := c }
  | .fnms t d k b a c => some { op := if t then 0x17 else 0x16, d := d.setWidth 6, f := 3, s3 := k.setWidth 6, s2 := b.setWidth 6, s1 := a.setWidth 6, c := c }
  | .fcmp d t cc b a c => some { op := 0x18, d := d.setWidth 6, f := BitVec.ofBool t ++ ((0 : BitVec 1) ++ cc.code), s2 := b.setWidth 6, s1 := a.setWidth 6, c := c }
  | .fcvt d a src dst rm sat c => some { op := 0x19, d := d.setWidth 6, s1 := a.setWidth 6, i := cvtImm sat rm.code dst.code src.code, c := c }
  | .br g v c => some { op := 0x1A, d := g.setWidth 6, i := v, c := c }
  | .jmp v c => some { op := 0x1B, i := v.extractLsb' 0 16, i2 := v.extractLsb' 16 16, c := c }
  | .call v c => some { op := 0x1C, i := v.extractLsb' 0 16, i2 := v.extractLsb' 16 16, c := c }
  | .jr a c => some { op := 0x1D, s1 := a.setWidth 6, c := c }
  | .callr a c => some { op := 0x1D, f := 1, s1 := a.setWidth 6, c := c }
  | .loop d v c => some { op := 0x1E, d := d.setWidth 6, i := v, c := c }
  | .svc v c => some { op := 0x1F, d := v, c := c }
  | .brk v c => some { op := 0x20, d := v, c := c }
  | .vadd d b a t k c => some { op := 0x40, d := d.code, f := 0, s2 := b.code, s1 := a.code, g := t.code, s4 := k.code, c := c }
  | .vsub d b a t k c => some { op := 0x40, d := d.code, f := 1, s2 := b.code, s1 := a.code, g := t.code, s4 := k.code, c := c }
  | .vmul d b a t k c => some { op := 0x40, d := d.code, f := 2, s2 := b.code, s1 := a.code, g := t.code, s4 := k.code, c := c }
  | .vmin d b a t k c => some { op := 0x40, d := d.code, f := 3, s2 := b.code, s1 := a.code, g := t.code, s4 := k.code, c := c }
  | .vmax d b a t k c => some { op := 0x40, d := d.code, f := 4, s2 := b.code, s1 := a.code, g := t.code, s4 := k.code, c := c }
  | .vabs d a t k c => some { op := 0x40, d := d.code, f := 5, s1 := a.code, g := t.code, s4 := k.code, c := c }
  | .vneg d a t k c => some { op := 0x40, d := d.code, f := 6, s1 := a.code, g := t.code, s4 := k.code, c := c }
  | .vadds d b a t k c => some { op := 0x40, d := d.code, f := 7, s2 := b.code, s1 := a.code, g := t.code, s4 := k.code, c := c }
  | .vsubs d b a t k c => some { op := 0x40, d := d.code, f := 8, s2 := b.code, s1 := a.code, g := t.code, s4 := k.code, c := c }
  | .vfma d y b a t k c => some { op := 0x41, d := d.code, f := 0, s3 := y.code, s2 := b.code, s1 := a.code, g := t.code, s4 := k.code, c := c }
  | .vfms d y b a t k c => some { op := 0x41, d := d.code, f := 1, s3 := y.code, s2 := b.code, s1 := a.code, g := t.code, s4 := k.code, c := c }
  | .vfnma d y b a t k c => some { op := 0x41, d := d.code, f := 2, s3 := y.code, s2 := b.code, s1 := a.code, g := t.code, s4 := k.code, c := c }
  | .vand d b a t k c => some { op := 0x42, d := d.code, f := 0, s2 := b.code, s1 := a.code, g := t.code, s4 := k.code, c := c }
  | .vor d b a t k c => some { op := 0x42, d := d.code, f := 1, s2 := b.code, s1 := a.code, g := t.code, s4 := k.code, c := c }
  | .vxor d b a t k c => some { op := 0x42, d := d.code, f := 2, s2 := b.code, s1 := a.code, g := t.code, s4 := k.code, c := c }
  | .vandn d b a t k c => some { op := 0x42, d := d.code, f := 3, s2 := b.code, s1 := a.code, g := t.code, s4 := k.code, c := c }
  | .vshl d b a t k c => some { op := 0x42, d := d.code, f := 4, s2 := b.code, s1 := a.code, g := t.code, s4 := k.code, c := c }
  | .vshr d b a t k c => some { op := 0x42, d := d.code, f := 5, s2 := b.code, s1 := a.code, g := t.code, s4 := k.code, c := c }
  | .vsar d b a t k c => some { op := 0x42, d := d.code, f := 6, s2 := b.code, s1 := a.code, g := t.code, s4 := k.code, c := c }
  | .vcmp d cc b a t k c => some { op := 0x43, d := d.setWidth 6, f := cc.code, s2 := b.code, s1 := a.code, g := t.code, s4 := k.code, c := c }
  | .vsel d b a q t k c => some { op := 0x44, d := d.code, s3 := q.setWidth 6, s2 := b.code, s1 := a.code, g := t.code, s4 := k.code, c := c }
  | .vexp2 d a k c => some { op := 0x45, d := d.code, f := 0, s1 := a.code, s4 := k.code, c := c }
  | .vlog2 d a k c => some { op := 0x45, d := d.code, f := 1, s1 := a.code, s4 := k.code, c := c }
  | .vrcp d a k c => some { op := 0x45, d := d.code, f := 2, s1 := a.code, s4 := k.code, c := c }
  | .vrsq d a k c => some { op := 0x45, d := d.code, f := 3, s1 := a.code, s4 := k.code, c := c }
  | .vsqrt d a k c => some { op := 0x45, d := d.code, f := 4, s1 := a.code, s4 := k.code, c := c }
  | .vcvt d a sp dp src dst rm sat c => some { op := 0x46, d := d.code, s2 := (dp ++ sp).setWidth 6, s1 := a.code, i := cvtImm sat rm.code dst.code src.code, c := c }
  | .vredadd d a rm t k c => some { op := 0x47, d := d.setWidth 6, s1 := a.code, s3 := rm.code.setWidth 6, g := t.code, s4 := k.setWidth 6, c := c }
  | .vredmin d a t k c => some { op := 0x47, f := 1, d := d.setWidth 6, s1 := a.code, g := t.code, s4 := k.setWidth 6, c := c }
  | .vredmax d a t k c => some { op := 0x47, f := 2, d := d.setWidth 6, s1 := a.code, g := t.code, s4 := k.setWidth 6, c := c }
  | .vscanadd d a b rm t k c => some { op := 0x48, d := d.code, s2 := b.setWidth 6, s1 := a.code, s3 := rm.code.setWidth 6, g := t.code, s4 := k.code, c := c }
  | .vbcast d t a c => some { op := 0x49, d := d.code, s2 := t.code.setWidth 6, s1 := a.setWidth 6, c := c }
  | .vextr d b a c => some { op := 0x4A, d := d.setWidth 6, s2 := b.setWidth 6, s1 := a.code, c := c }
  | .vins d b a c => some { op := 0x4A, f := 1, d := d.setWidth 6, s2 := b.setWidth 6, s1 := a.setWidth 6, c := c }
  | .vldl d a t o c => some { op := 0x4B, d := d.code, s1 := a.setWidth 6, i := vmemImm t.code o, c := c }
  | .vldls d a b t o c => some { op := 0x4B, f := 1, d := d.code, s2 := b.setWidth 6, s1 := a.setWidth 6, i := vmemImm t.code o, c := c }
  | .vgatl d a b t o c => some { op := 0x4B, f := 2, d := d.code, s2 := b.setWidth 6, s1 := a.setWidth 6, i := vmemImm t.code o, c := c }
  | .vstl d a t o c => some { op := 0x4C, d := d.code, s1 := a.setWidth 6, i := vmemImm t.code o, c := c }
  | .vstls d a b t o c => some { op := 0x4C, f := 1, d := d.code, s2 := b.setWidth 6, s1 := a.setWidth 6, i := vmemImm t.code o, c := c }
  | .vscatl d a b t o c => some { op := 0x4C, f := 2, d := d.code, s2 := b.setWidth 6, s1 := a.setWidth 6, i := vmemImm t.code o, c := c }
  | .vld d a t o c => some { op := 0x4D, d := d.code, s1 := a.setWidth 6, i := vmemImm t.code o, c := c }
  | .vst d a t o c => some { op := 0x4D, f := 1, d := d.code, s1 := a.setWidth 6, i := vmemImm t.code o, c := c }
  | .vperm d y b a t k c => some { op := 0x4E, d := d.code, s3 := y.code, s2 := b.code, s1 := a.code, g := t.code, s4 := k.code, c := c }
  | .vdot4 d y b a k c => some { op := 0x4F, d := d.code, s3 := y.code, s2 := b.code, s1 := a.code, g := 3, s4 := k.code, c := c }
  | .vdot4n d y b a k c => some { op := 0x4F, f := 1, d := d.code, s3 := y.code, s2 := b.code, s1 := a.code, g := 6, s4 := k.code, c := c }
  | .visect d y b a k c => some { op := 0x50, d := d.code, s3 := y.setWidth 6, s2 := b.setWidth 6, s1 := a.setWidth 6, s4 := k.setWidth 6, c := c }
  | .vcprs d a b t k c => some { op := 0x51, d := d.code, s2 := b.setWidth 6, s1 := a.code, g := t.code, s4 := k.setWidth 6, c := c }
  | .vhdrP d a b c => some { op := 0x52, d := d.code, s2 := b.setWidth 6, s1 := a.code, c := c }
  | .vhdrA d y a b c => some { op := 0x52, f := 1, d := d.code, s3 := y.code, s2 := b.setWidth 6, s1 := a.code, c := c }
  | .vmov d a c => some { op := 0x53, d := d.code, s1 := a.code, c := c }
  | .vfwd d a b c => some { op := 0x53, f := 1, d := 32 + d.bits.setWidth 6, s2 := fwdCode b, s1 := 32 + a.bits.setWidth 6, c := c }
  | .rep a n st c => some { op := 0x54, s1 := a.setWidth 6, i := (0 : BitVec 6) ++ (st ++ n), c := c }
  | .scfgRead q a c => some { op := 0x55, d := 36 + q.setWidth 6, s1 := a.setWidth 6, c := c }
  | .scfgWrite q a c => some { op := 0x55, f := 1, d := 36 + q.setWidth 6, s1 := a.setWidth 6, c := c }
  | .scfgStop q b c => some { op := 0x55, f := 2, d := 36 + q.setWidth 6, s2 := b.setWidth 6, c := c }
  | .whopos d c => some { op := 0x70, f := 0, d := d.setWidth 6, c := c }
  | .whodim d c => some { op := 0x70, f := 1, d := d.setWidth 6, c := c }
  | .whocore d c => some { op := 0x70, f := 2, d := d.setWidth 6, c := c }
  | .whoplot d c => some { op := 0x70, f := 3, d := d.setWidth 6, c := c }
  | .wholaunch d c => some { op := 0x70, f := 4, d := d.setWidth 6, c := c }
  | .gang h w c => some { op := 0x71, i := (0 : BitVec 6) ++ (h ++ w), c := c }
  | .split c => some { op := 0x72, c := c }
  | .sstep c => some { op := 0x75, c := c }
  | .yield c => some { op := 0x77, c := c }
  | .barInit b a c => some { op := 0x73, s2 := b.setWidth 6, s1 := a.setWidth 6, c := c }
  | .barArrive a c => some { op := 0x73, f := 1, s1 := a.setWidth 6, c := c }
  | .barWait a c => some { op := 0x73, f := 2, s1 := a.setWidth 6, c := c }
  | .barSync a c => some { op := 0x73, f := 3, s1 := a.setWidth 6, c := c }
  | .evtSig b a c => some { op := 0x74, s2 := b.setWidth 6, s1 := a.setWidth 6, c := c }
  | .evtWait b a c => some { op := 0x74, f := 1, s2 := b.setWidth 6, s1 := a.setWidth 6, c := c }
  | .evtTest g b a c => some { op := 0x74, f := 2, d := g.setWidth 6, s2 := b.setWidth 6, s1 := a.setWidth 6, c := c }
  | .stageNext d a c => some { op := 0x76, d := d.setWidth 6, s1 := a.setWidth 6, c := c }
  | .stageAdv a c => some { op := 0x76, f := 1, s1 := a.setWidth 6, c := c }
  | .stageWaitl a c => some { op := 0x76, f := 2, s1 := a.setWidth 6, c := c }
  | .stageEnd c => some { op := 0x76, f := 3, c := c }
  | .lda d a z sc c => some { op := 0x80, d := d.setWidth 6, s1 := a.setWidth 6, g := z.code, s4 := sc.code.setWidth 6, c := c }
  | .strl d a z sc c => some { op := 0x81, d := d.setWidth 6, s1 := a.setWidth 6, g := z.code, s4 := sc.code.setWidth 6, c := c }
  | .fence sc k c => some { op := 0x82, i := (0 : BitVec 9) ++ (sc.code ++ k), c := c }
  | .amo q d b a w o sc c => some { op := 0x83, f := q.code, d := d.setWidth 6, s2 := b.setWidth 6, s1 := a.setWidth 6, g := if w then 3 else 2, s4 := scopeField o sc, c := c }
  | .cas d y b a w o sc c => some { op := 0x84, d := d.setWidth 6, s3 := y.setWidth 6, s2 := b.setWidth 6, s1 := a.setWidth 6, g := if w then 3 else 2, s4 := scopeField o sc, c := c }
  | .log q b a t c => some { op := 0x85, f := q.code, s2 := b.setWidth 6, s1 := a.setWidth 6, g := t.code, c := c }
  | .monarm a c => some { op := 0x86, s1 := a.setWidth 6, c := c }
  | .mwait d a c => some { op := 0x86, f := 1, d := d.setWidth 6, s1 := a.setWidth 6, c := c }
  | .mdisarm c => some { op := 0x86, f := 2, c := c }
  | .pref own a v c => some { op := 0x87, f := if own then 1 else 0, s1 := a.setWidth 6, i := v, c := c }
  | .stashMap r b a c => some { op := 0x88, d := r.setWidth 6, s2 := b.setWidth 6, s1 := a.setWidth 6, c := c }
  | .stashClean r c => some { op := 0x88, f := 1, d := r.setWidth 6, c := c }
  | .stashDrop r c => some { op := 0x88, f := 2, d := r.setWidth 6, c := c }
  | .ringInit h b a c => some { op := 0x89, d := h.setWidth 6, s2 := b.setWidth 6, s1 := a.setWidth 6, c := c }
  | .ringRsv h a c => some { op := 0x89, f := 1, d := h.setWidth 6, s1 := a.setWidth 6, c := c }
  | .ringWait h a c => some { op := 0x89, f := 2, d := h.setWidth 6, s1 := a.setWidth 6, c := c }
  | .ringAdvp h a c => some { op := 0x89, f := 3, d := h.setWidth 6, s1 := a.setWidth 6, c := c }
  | .ringAdvc h a c => some { op := 0x89, f := 4, d := h.setWidth 6, s1 := a.setWidth 6, c := c }
  | .ringPtr d h c => some { op := 0x89, f := 5, d := d.setWidth 6, s1 := h.setWidth 6, c := c }
  | .winInit w b a c => some { op := 0x8A, d := w.setWidth 6, s2 := b.setWidth 6, s1 := a.setWidth 6, c := c }
  | .winPub w c => some { op := 0x8A, f := 1, d := w.setWidth 6, c := c }
  | .winBack d w c => some { op := 0x8A, f := 2, d := d.setWidth 6, s1 := w.setWidth 6, c := c }
  | .winFront d w c => some { op := 0x8A, f := 3, d := d.setWidth 6, s1 := w.setWidth 6, c := c }
  | .ifence sc c => some { op := 0x8B, i := sc.code.setWidth 16, c := c }
  | .cclean b a c => some { op := 0x8C, s2 := b.setWidth 6, s1 := a.setWidth 6, c := c }
  | .cinv b a c => some { op := 0x8C, f := 1, s2 := b.setWidth 6, s1 := a.setWidth 6, c := c }
  | .bankfSet b a c => some { op := 0x8D, s2 := b.setWidth 6, s1 := a.setWidth 6, c := c }
  | .bankfGet d a c => some { op := 0x8D, f := 1, d := d.setWidth 6, s1 := a.setWidth 6, c := c }
  | .lnkOpen dir a b y z c => some { op := 0xA0, d := dir.bits.setWidth 6, s2 := b.setWidth 6, s1 := a.setWidth 6, s3 := y.setWidth 6, s4 := z.setWidth 6, c := c }
  | .lnkClose dir c => some { op := 0xA0, f := 1, d := dir.bits.setWidth 6, c := c }
  | .lnkWait w c => some { op := 0xA0, f := 2, s1 := w.setWidth 6, c := c }
  | .lnkStat a dir c => some { op := 0xA0, f := 3, d := dir.bits.setWidth 6, s1 := a.setWidth 6, c := c }
  | .lnkCancel dir c => some { op := 0xA0, f := 4, d := dir.bits.setWidth 6, c := c }
  | .xcopy k a b y dir df sf c => some { op := 0xA1, d := k.setWidth 6, s2 := b.setWidth 6, s1 := a.setWidth 6, s3 := y.setWidth 6, s4 := dir ++ df, g := sf, c := c }
  | .getx k a ix y q z c => some { op := 0xA2, d := k.setWidth 6, s2 := ix.setWidth 6, s1 := a.setWidth 6, s3 := y.setWidth 6, s4 := q.setWidth 6, g := BitVec.ofNat 4 z.val, c := c }
  | .placex k a ix y q z c => some { op := 0xA3, d := k.setWidth 6, s2 := ix.setWidth 6, s1 := a.setWidth 6, s3 := y.setWidth 6, s4 := q.setWidth 6, g := BitVec.ofNat 4 z.val, c := c }
  | .ccntWait k a c => some { op := 0xA4, d := k.setWidth 6, s1 := a.setWidth 6, c := c }
  | .ccntRd d k c => some { op := 0xA4, f := 1, d := d.setWidth 6, s1 := k.setWidth 6, c := c }
  | .ccntSet k a c => some { op := 0xA4, f := 2, d := k.setWidth 6, s1 := a.setWidth 6, c := c }
  | .compact k w b y z c => some { op := 0xA5, d := k.setWidth 6, s2 := b.setWidth 6, s1 := w.setWidth 6, s3 := y.setWidth 6, s4 := z.setWidth 6, c := c }
  | .keyq a c => some { op := 0xA6, s1 := a.setWidth 6, c := c }
  | .keyg a c => some { op := 0xA7, s1 := a.setWidth 6, c := c }
  | .chanSend h a c => some { op := 0xA8, d := h.setWidth 6, s1 := a.setWidth 6, c := c }
  | .chanRecv h a c => some { op := 0xA8, f := 1, d := h.setWidth 6, s1 := a.setWidth 6, c := c }
  | .slmsg k a b y c => some { op := 0xA9, d := k.setWidth 6, s2 := b.setWidth 6, s1 := a.setWidth 6, s3 := y.setWidth 6, c := c }
  | .shLineX d b a c => some { op := 0xB0, d := d.setWidth 6, s2 := b.setWidth 6, s1 := a.setWidth 6, c := c }
  | .shLineF n a c => some { op := 0xB0, d := if n then 33 else 32, s1 := a.setWidth 6, c := c }
  | .shPref a c => some { op := 0xB0, f := 1, s1 := a.setWidth 6, c := c }
  | .shReply a c => some { op := 0xB0, f := 2, s1 := a.setWidth 6, c := c }
  | .shFwdMem b a c => some { op := 0xB0, f := 3, s2 := b.setWidth 6, s1 := a.setWidth 6, c := c }
  | .shFwdAcc b c => some { op := 0xB0, f := 3, d := 1, s2 := b.setWidth 6, c := c }
  | .shDone c => some { op := 0xB0, f := 4, c := c }
  | .sfma c => some { op := 0xB1, c := c }
  | .eret c => some { op := 0xC0, c := c }
  | .sysRd d r c => some { op := 0xC1, d := d.setWidth 6, i := r.code, c := c }
  | .sysWr a r c => some { op := 0xC1, f := 1, s1 := a.setWidth 6, i := r.code, c := c }
  | .tlbinvPage a c => some { op := 0xC2, s1 := a.setWidth 6, c := c }
  | .tlbinvTenant c => some { op := 0xC2, f := 1, c := c }
  | .tlbinvAll c => some { op := 0xC2, f := 2, c := c }
  | .ctxSave b a c => some { op := 0xC3, s2 := b.setWidth 6, s1 := a.setWidth 6, c := c }
  | .ctxLoad b a c => some { op := 0xC3, f := 1, s2 := b.setWidth 6, s1 := a.setWidth 6, c := c }
  | .wfi c => some { op := 0xC4, c := c }
  | .ldred d a b g k p q c => some { op := 0xD0, d := d.setWidth 6, s2 := b.setWidth 6, s1 := a.setWidth 6, s3 := g.setWidth 6, s4 := k.setWidth 6, g := (BitVec.ofBool q ++ BitVec.ofBool p).setWidth 4, c := c }
  | .grpSet k b a c => some { op := 0xD1, d := k.setWidth 6, s2 := b.setWidth 6, s1 := a.setWidth 6, c := c }
  | .grpClr k c => some { op := 0xD1, f := 1, d := k.setWidth 6, c := c }
  | _ => none

/-- The row of the table is an event: it is no word of a program. -/
def Instr.isEvent (i : Instr) : Bool := (encodeFields i).isNone

/-- The class of the opcode in some fields; K0 for a reserved opcode. -/
def Fields.tailClass (x : Fields) : TailClass := (opClass x.op.toNat).getD .k0

/-- The head of some fields: TL counts the tail words (R53, R54). -/
def Fields.head (x : Fields) : Half := mkHead (packTail x.tailClass x).length x.op x.d

/-- The tail words of some fields. -/
def Fields.tail (x : Fields) : List Half := packTail x.tailClass x

/-- The head and the tail words of an instruction, in that order; empty for an event. -/
def encode (i : Instr) : List Half :=
  match encodeFields i with
  | none => []
  | some x => x.head :: x.tail

/-- A kind of core on which an opcode is accepted: slice cores for 0xB0 and 0xB1 (R63), a compute core otherwise. -/
def kindFor (op : Nat) : CoreKind := if op == 0xB0 || op == 0xB1 then .slice else .compute

/-- Decode a head and tail given as half-words: the tail is cut or filled with zeros to TL words. -/
def decodeHalves (ws : List Half) : Option Instr :=
  match ws with
  | [] => none
  | h :: t =>
    if headTL h < t.length then none
    else
      match decode (kindFor (headOP h).toNat) h (t ++ List.replicate (headTL h - t.length) 0) with
      | .ok i => some i
      | .error _ => none

/-- The half-words of a table word, its most significant half first: in spec/opcode_table.json a 32-bit row's head is bits 31..16
and its tail word bits 15..0. -/
def tableHalves (nbits w : Nat) : List Half :=
  ((List.range ((nbits + 15) / 16)).map (fun j => BitVec.ofNat 16 (w >>> (16 * j)))).reverse

/-- The half-words of a table word in the order the table's numbers give (the head in the most significant half); where those are
no instruction, the other order (the head in the least significant half). -/
def tableWords (nbits w : Nat) : List Half :=
  let a := tableHalves nbits w
  match decodeHalves a with
  | some _ => a
  | none => a.reverse

/-- The instruction the decoder reads from a word of the opcode table. DEDUCED (log 9). -/
def decodeTableWord (nbits w : Nat) : Option Instr := decodeHalves (tableWords nbits w)

end Sys2Proof
end

