-- ==== Sys2Proof/Machine/Ops.lean ====
section
/-! DEFINITION. Sys2Proof/Machine/Ops.lean: the named operations over memory, registers and cores that every meaning uses, taking a
trap and returning from one, and how an instruction ends. -/

namespace Sys2Proof

def Dir.index : Dir → Nat
  | .w => 0 | .n => 1 | .e => 2 | .s => 3

def dirs : List Dir := [.w, .n, .e, .s]

def Dir.opp : Dir → Dir
  | .w => .e | .n => .s | .e => .w | .s => .n

/-- The access kind word (R361): an atomic is its own kind. DEDUCED (log 18). -/
def Access.word (a : Access) : W64 :=
  w64 ((if a.write && !a.atomic then 1 else 0) + (if a.fetch then 2 else 0) + (if a.atomic then 4 else 0))

end Sys2Proof

namespace Sys2Proof.Machine

/-! ## Tables and bytes -/

/-- The entry of a table, or `d`. -/
def tabGet (d : α) : Tab α → Nat → α
  | [], _ => d
  | (k, v) :: r, a => if k = a then v else tabGet d r a

/-- Set an entry of a table. -/
def tabSet : Tab α → Nat → α → Tab α
  | [], a, v => [(a, v)]
  | (k, w) :: r, a, v => if k = a then (a, v) :: r else (k, w) :: tabSet r a v

/-- A little-endian byte string as a number (R7). -/
def leNat : List Byte → Nat
  | [] => 0
  | b :: r => b.toNat + 256 * leNat r

/-- The low `n` bytes of a number, least significant first (R7). -/
def natBytes : Nat → Nat → List Byte
  | 0, _ => []
  | n + 1, v => BitVec.ofNat 8 v :: natBytes n (v / 256)

/-- Bytes `at` to `at + n − 1` of a string, zero beyond its end. -/
def sliceBytes (bs : List Byte) (at_ n : Nat) : List Byte := ((bs.drop at_).take n) ++ List.replicate (n - (bs.length - at_)) 0

/-- The number of `n` bytes at `at`. -/
def fieldNat (bs : List Byte) (at_ n : Nat) : Nat := leNat ((bs.drop at_).take n)

/-- A 64-byte word of bytes, zero-filled. -/
def toV512 (bs : List Byte) : V512 := BitVec.ofNat 512 (leNat (bs.take 64))

/-! ## Memory -/

/-- The byte at an address in a sorted cell list; zero where unlisted. -/
def cellsRead : List Host.Cell → Nat → Byte
  | [], _ => 0
  | (k, b) :: r, a => if k = a then b else cellsRead r a

/-- Write one byte, keeping the cells sorted and free of zero bytes. -/
def cellsWrite : List Host.Cell → Nat → Byte → List Host.Cell
  | [], a, b => if b = 0 then [] else [(a, b)]
  | (k, c) :: r, a, b =>
    if k < a then (k, c) :: cellsWrite r a b
    else if k = a then (if b = 0 then r else (a, b) :: r)
    else (if b = 0 then (k, c) :: r else (a, b) :: (k, c) :: r)

/-- The canonical form: addresses strictly rising, no zero byte. -/
def cellsWf : List Host.Cell → Bool
  | [] => true
  | [(_, b)] => b != 0
  | (k, b) :: (k', b') :: r => b != 0 && decide (k < k') && cellsWf ((k', b') :: r)

def Memory.wf (m : Memory) : Bool := cellsWf m.cells
/-- DESIGN CHOICE (log 10). -/
def Memory.read (m : Memory) (a : Nat) : Byte := cellsRead m.cells a
def Memory.write (m : Memory) (a : Nat) (b : Byte) : Memory := { cells := cellsWrite m.cells a b }

/-- `n` bytes from an address on. -/
def Memory.readN (m : Memory) (a : Nat) : Nat → List Byte
  | 0 => []
  | n + 1 => m.read a :: Memory.readN m (a + 1) n

/-- Write a byte string from an address on. -/
def Memory.writeN (m : Memory) (a : Nat) : List Byte → Memory
  | [] => m
  | b :: r => Memory.writeN (m.write a b) (a + 1) r

/-- Zero every listed byte in `[lo, hi)`. -/
def Memory.clear (m : Memory) (lo hi : Nat) : Memory := { cells := m.cells.filter fun c => c.1 < lo || hi ≤ c.1 }

/-! ## Physical addresses (R221, R231) -/

def isGddr (pa : Nat) : Bool := pa < 0x2000000000
def isLpddr (pa : Nat) : Bool := 0x8000000000 ≤ pa && pa < 0x10000000000
/-- Device memory: the two DRAM ranges. -/
def isDevice (pa : Nat) : Bool := isGddr pa || isLpddr pa
/-- The host apertures. -/
def isHost (pa : Nat) : Bool := 0x400000000000 ≤ pa && pa < 0x800000000000
/-- Reserved physical addresses. -/
def isReservedPa (pa : Nat) : Bool := !(isDevice pa || isHost pa)
/-- The granule of R408; the second tier's follow the main memory's. -/
def granuleOf (pa : Nat) : Nat := pa / 0x10000000

def bits2 (pa i : Nat) : Nat := (pa >>> i) % 4
def bits4 (pa i : Nat) : Nat := (pa >>> i) % 16

/-- The home die of an unpinned page (R231). -/
def foldDie (pa : Nat) : Nat := bits2 pa 12 ^^^ bits2 pa 20 ^^^ bits2 pa 28 ^^^ bits2 pa 36 ^^^ bits2 pa 44

/-- The home slice's index on its die (R231). -/
def foldSlice (pa : Nat) : Nat :=
  bits4 pa 7 ^^^ bits4 pa 11 ^^^ bits4 pa 15 ^^^ bits4 pa 19 ^^^ bits4 pa 23 ^^^ bits4 pa 27 ^^^ bits4 pa 31 ^^^ bits4 pa 35 ^^^
    bits4 pa 39 ^^^ bits4 pa 43 ^^^ ((pa >>> 47) % 2)

/-! ## Page table entries (R243) -/

def pteV (p : W64) : Bool := p.getLsbD 0
def pteW (p : W64) : Bool := p.getLsbD 1
def pteX (p : W64) : Bool := p.getLsbD 2
def pteLeaf (p : W64) : Bool := p.getLsbD 3
def pteSize (p : W64) : Bool := p.getLsbD 4
def pteCmb (p : W64) : Bool := p.getLsbD 5
def pteLock (p : W64) : Bool := p.getLsbD 6
def pteHpin (p : W64) : Bool := p.getLsbD 7
def pteHome (p : W64) : Nat := bitsOf p 9 8
/-- The physical address a PFN names. -/
def ptePfn (p : W64) : Nat := bitsOf p 47 12 * 4096
def pteKey (p : W64) : Nat := bitsOf p 54 48

/-- The home die of a line translated through a leaf (R231). -/
def homeDie (pte : W64) (pa : Nat) : Nat := if pteHpin pte then pteHome pte else foldDie pa
/-- The home slice, 16 · die + index. -/
def homeSlice (pte : W64) (pa : Nat) : Nat := 16 * homeDie pte pa + foldSlice pa

/-! ## Cores -/

/-- The core named `l`. -/
def State.coreAt (s : State) (l : Loc) : Core :=
  if s.core.loc = l then s.core else (s.cores.find? fun c => c.loc = l).getD (Core.start l 0)

/-- Put a core back. -/
def replaceCore : List Core → Core → List Core
  | [], c => [c]
  | d :: r, c => if d.loc = c.loc then c :: r else d :: replaceCore r c

def State.setCore (s : State) (c : Core) : State :=
  if s.core.loc = c.loc then { s with core := c } else { s with cores := replaceCore s.cores c }

def State.modCore (s : State) (l : Loc) (f : Core → Core) : State := s.setCore (f (s.coreAt l))

/-- Change the looked-at core. -/
def State.onCore (s : State) (f : Core → Core) : State := { s with core := f s.core }

/-- Every core that is not idle and fresh. -/
def State.allCores (s : State) : List Core := s.core :: s.cores

/-- Change every core. -/
def State.mapCores (s : State) (f : Core → Core) : State := { s with core := f s.core, cores := s.cores.map f }

/-- Look at another core. -/
def State.focus (s : State) (l : Loc) : State :=
  if s.core.loc = l then s
  else { s with core := s.coreAt l, cores := s.core :: s.cores.filter fun c => c.loc ≠ l }

def State.tenantAt (s : State) (t : Nat) : Tenant := tabGet Tenant.start s.tenants t
def State.modTenant (s : State) (t : Nat) (f : Tenant → Tenant) : State :=
  { s with tenants := tabSet s.tenants t (f (s.tenantAt t)) }
def State.sliceAt (s : State) (sl : Nat) : Slice := tabGet Slice.start s.slices sl
def State.modSlice (s : State) (sl : Nat) (f : Slice → Slice) : State := { s with slices := tabSet s.slices sl (f (s.sliceAt sl)) }
def State.dieAt (s : State) (d : Nat) : Die := s.dies[d]?.getD Die.start
def State.modDie (s : State) (d : Nat) (f : Die → Die) : State := { s with dies := s.dies.setIfInBounds d (f (s.dieAt d)) }
def State.launchAt (s : State) (id : Nat) : Option Launch := s.launches.find? fun l => l.id = id
def State.modLaunch (s : State) (id : Nat) (f : Launch → Launch) : State :=
  { s with launches := s.launches.map fun l => if l.id = id then f l else l }

/-- The thread of a place: on its core, or saved with its plot; none once its plot has completed. -/
def State.threadOf (s : State) (p : Place) : Option Core :=
  match s.allCores.find? fun c => c.place = some p with
  | some c => some c
  | none => match s.launchAt p.launch with
    | some l => l.plots[p.plot]?.bind fun q => q.threads[p.py * l.cmd.w + p.px]?
    | none => none

/-- Change the thread of a place, wherever it is. -/
def State.modThread (s : State) (p : Place) (f : Core → Core) : State :=
  match s.allCores.find? fun c => c.place = some p with
  | some c => s.modCore c.loc f
  | none => s.modLaunch p.launch fun n =>
      { n with plots := n.plots.modify p.plot fun q => { q with threads := q.threads.modify (p.py * n.cmd.w + p.px) f } }

/-- A position of a rectangle. -/
def inRect (d ox oy w h : Nat) (l : Loc) : Bool :=
  l.kind == .compute && l.die == d && decide (ox ≤ l.x) && decide (l.x < ox + w) && decide (oy ≤ l.y) && decide (l.y < oy + h)

/-- The place of a launch whose plot last stood at a position, or is to stand there, and has not completed (R131, R312). -/
def State.reservedAt (s : State) (lid : Nat) (at_ : Loc) : Option Place :=
  (s.launchAt lid).bind fun l => (List.range l.plots.length).findSome? fun i => match l.plots[i]? with
    | some p => match p.home with
      | some (d, ox, oy) =>
        if p.st != .done && inRect d ox oy l.cmd.w l.cmd.h at_ then
          some { launch := lid, plot := i, px := at_.x - ox, py := at_.y - oy } else none
      | none => none
    | none => none

/-- The place of a launch at a position: its thread's that stands there, or that of a plot the position is kept for. -/
def State.placeAt (s : State) (lid : Nat) (at_ : Loc) : Option Place :=
  match (s.coreAt at_).place with
  | some p => if p.launch = lid then some p else s.reservedAt lid at_
  | none => s.reservedAt lid at_

/-- The place of a launch at a position, that of a plot that has completed there included. DESIGN CHOICE (log 112). -/
def State.placeEver (s : State) (lid : Nat) (at_ : Loc) : Option Place :=
  match s.placeAt lid at_ with
  | some p => some p
  | none => (s.launchAt lid).bind fun l => (List.range l.plots.length).findSome? fun i =>
      match (l.plots[i]?).bind Plot.home with
      | some (d, ox, oy) => if inRect d ox oy l.cmd.w l.cmd.h at_ then some { launch := lid, plot := i, px := at_.x - ox, py := at_.y - oy } else none
      | none => none

/-- The threads of a launch that have begun and not ended: on cores, and saved with their plots. -/
def State.threads (s : State) (lid : Nat) : List Core :=
  (s.allCores.filter fun c => c.place.any fun p => p.launch == lid) ++
    ((s.launchAt lid).toList.flatMap fun l => l.plots.flatMap Plot.threads)

/-- Whose a core's stores are. -/
def Core.owner (c : Core) : Owner :=
  match c.place with
  | some p => .thread p
  | none => .core c.loc

/-- A store of some thread of a launch. -/
def Owner.ofLaunch (o : Owner) (lid : Nat) : Bool :=
  match o with
  | .thread p => p.launch == lid
  | .core _ => false

/-- The tenant of a core's thread, as a number. DESIGN CHOICE (log 20). -/
def Core.tenantNo (c : Core) : Nat := c.sys.tenant.toNat

/-! ## Registers (R14, R15, R166) -/

/-- `x0` reads zero. -/
def Core.getX (c : Core) (r : XReg) : W64 := if r = 0 then 0 else c.x[r.toNat]
/-- A write to `x0` is discarded (R15). -/
def Core.setX (c : Core) (r : XReg) (v : W64) : Core := if r = 0 then c else { c with x := c.x.set r.toNat v }
/-- `g0` is always true. -/
def Core.getG (c : Core) (r : GReg) : Bool := if r = 0 then true else c.g.getLsbD r.toNat
/-- A write to `g0` is discarded. -/
def Core.setG (c : Core) (r : GReg) (b : Bool) : Core :=
  if r = 0 then c
  else { c with g := if b then c.g ||| (1 <<< r.toNat) else c.g &&& ~~~((1 : BitVec 8) <<< r.toNat) }
def Core.getV (c : Core) (r : BitVec 5) : V512 := c.v[r.toNat]
def Core.setV (c : Core) (r : BitVec 5) (w : V512) : Core := { c with v := c.v.set r.toNat w }
/-- `m0` reads all ones. -/
def Core.getM (c : Core) (r : BitVec 3) : W64 := if r = 0 then BitVec.allOnes 64 else c.m[r.toNat]
/-- A write to `m0` is discarded. -/
def Core.setM (c : Core) (r : BitVec 3) (w : W64) : Core := if r = 0 then c else { c with m := c.m.set r.toNat w }

def State.x (s : State) (r : XReg) : W64 := s.core.getX r
def State.setX (s : State) (r : XReg) (v : W64) : State := s.onCore fun c => c.setX r v
def State.setG (s : State) (r : GReg) (b : Bool) : State := s.onCore fun c => c.setG r b
def State.setV (s : State) (r : BitVec 5) (w : V512) : State := s.onCore fun c => c.setV r w
def State.setM (s : State) (r : BitVec 3) (w : W64) : State := s.onCore fun c => c.setM r w

/-! ## Repetition state (R203) -/

def Core.repActive (c : Core) : Bool := c.sys.repstate.getLsbD 63
def Core.repN (c : Core) : Nat := bitsOf c.sys.repstate 52 48
def Core.repStag (c : Core) : Nat := bitsOf c.sys.repstate 47 43
def Core.repOfs (c : Core) : Nat := bitsOf c.sys.repstate 42 38
def Core.repPos (c : Core) : Nat := bitsOf c.sys.repstate 35 32
def Core.repRem (c : Core) : Nat := bitsOf c.sys.repstate 31 0

/-- The REPSTATE word of its fields. -/
def mkRep (active : Bool) (n stag ofs pos rem : Nat) : W64 :=
  w64 ((if active then 2 ^ 63 else 0) + (n % 32) * 2 ^ 48 + (stag % 32) * 2 ^ 43 + (ofs % 32) * 2 ^ 38 + (pos % 16) * 2 ^ 32 +
    rem % 2 ^ 32)

/-- A block is in progress, and the thread executes it: from its REP, or from the ERET or the resumption that took it up again, and not in
the handler of a trap in it (R203). A SYS.WR that sets ACTIVE, or clears INTRAP, enters no block by itself. DESIGN CHOICE (log 104). -/
def Core.inBlock (c : Core) : Bool := c.inRep && c.repActive

/-- After a captured instruction: the next one, the next run, or the main stream (R201, R203). After the last run N, STAG and OFS stand and
POS and REM are 0. DEDUCED (log 72), DESIGN CHOICE (log 103). -/
def Core.repNext (c : Core) : Core :=
  if c.repPos + 1 < c.repN then
    { c with pc := c.npc, sys := { c.sys with repstate := mkRep true c.repN c.repStag c.repOfs (c.repPos + 1) c.repRem } }
  else if 1 < c.repRem then
    { c with
      pc := c.sys.reppc
      sys := { c.sys with repstate := mkRep true c.repN c.repStag (c.repOfs + c.repStag) 0 (c.repRem - 1) } }
  else { c with pc := c.sys.repmpc, inRep := false, sys := { c.sys with repstate := mkRep false c.repN c.repStag c.repOfs 0 0 } }

/-! ## How an instruction ends -/

/-- Go on at the next instruction (NextSeq), the hold's progress forgotten. -/
def Core.advance (c : Core) : Core :=
  let c' := if c.ir.captured then c.repNext else { c with pc := c.npc }
  { c' with held := false, prog := none, walk := none, kept := none, portSince := none }

/-- A held instruction is given up: its progress is forgotten, and the load of a VLD to a port, whose word it would have pushed (R188). The
usage fault that an edited image owes stays due (R366). -/
def Core.unhold (c : Core) : Core :=
  { c with held := false, prog := c.prog.filter (· == .badImage), walk := none, kept := none, portSince := none, pq := c.pq.filter fun o => match o.kind with
    | .load (.port _) => false
    | _ => true }

/-- Go on at a target. -/
def Core.jumpTo (c : Core) (pc : W64) : Core := { c with pc := pc, held := false, prog := none, walk := none, portSince := none }

def State.advance (s : State) : State := s.onCore Core.advance

/-- ILLEGAL's first three XINFO registers (R65). -/
def Ir.tailWord (i : Ir) : W64 := w64 (leNat (i.tail.flatMap fun h => natBytes 2 h.toNat))

def illegal (c : Core) (step : Nat) : TrapInfo :=
  { code := 0x01, i0 := c.ir.head.setWidth 64, i1 := c.ir.tailWord, i2 := c.ir.line, i3 := w64 step }

/-- A usage fault (R122). DEDUCED (log 93). -/
def usage (s : State) : Res := .trap (illegal s.core 9)

/-- PRIV (R64, R360). -/
def priv (s : State) : Res := .trap { code := 0x06, i0 := s.core.ir.head.setWidth 64, i1 := s.core.ir.tailWord, i2 := 0, i3 := 0 }

/-- A trap that only names an address (R360). -/
def trapAt (code : Nat) (a : W64) : Res := .trap { code := code, i0 := 0, i1 := 0, i2 := a, i3 := 0 }
def misalign (a : W64) : Res := trapAt 0x07 a
def protect (a : W64) : Res := trapAt 0x09 a
/-- A trap that names a lane or a direction, and an address. -/
def trapLane (code lane : Nat) (info1 a : W64) : Res := .trap { code := code, i0 := w64 lane, i1 := info1, i2 := a, i3 := 0 }

/-- The codes that go to the supervisor always (R360). -/
def toSupervisor (code : Nat) : Bool := code == 0x08 || code == 0x14 || code == 0x15

/-! ## Gangs (R124 to R127) and the fault records of a thread -/

/-- The launch-relative core index of a core's thread (R119); all ones without a plot. -/
def State.coreIndex (s : State) (c : Core) : Nat :=
  match c.place with
  | none => 0xFFFFFFFF
  | some p => match s.launchAt p.launch with
    | none => 0xFFFFFFFF
    | some l => p.plot * (l.cmd.w * l.cmd.h) + p.py * l.cmd.w + p.px

/-- The origin of the aligned sub-rectangle of a shape that holds a position (R120, R121). -/
def shapeOrigin (desc : BitVec 16) (px py : Nat) : Nat × Nat :=
  let a := (desc.extractLsb' 0 5).toNat
  let b := (desc.extractLsb' 5 5).toNat
  (px - px % a, py - py % b)

/-- Two threads stand in one aligned sub-rectangle of a shape. -/
def sameShape (desc : BitVec 16) (p q : Place) : Bool :=
  p.launch == q.launch && p.plot == q.plot && shapeOrigin desc p.px p.py == shapeOrigin desc q.px q.py

/-- Dissolve the gang a core belongs to (R126). -/
def State.dissolve (s : State) (l : Loc) : State :=
  let c := s.coreAt l
  match c.gang, c.place with
  | some g, some p => s.mapCores fun d =>
      match d.gang, d.place with
      | some g', some q => if g'.desc = g.desc && sameShape g.desc p q then { d with gang := none } else d
      | _, _ => d
  | _, _ => s.modCore l fun c => { c with gang := none }

/-- The fault record of a thread (R364). -/
def State.threadRecord (s : State) (c : Core) (kind code : Nat) (xpc : W64) (info : Vector W64 4) : Record :=
  { kind := BitVec.ofNat 8 kind, code := BitVec.ofNat 8 code, queue := 0, slot := 0,
    launch := (match c.place with
      | none => 0
      | some p => match s.launchAt p.launch with | none => 0 | some l => l.number),
    core := BitVec.ofNat 32 (s.coreIndex c), plot := (match c.place with | none => 0 | some p => BitVec.ofNat 32 p.plot),
    xpc := xpc, xinfo := info }

/-- A physical die as the tenant sees it (R406). -/
def Tenant.viewDie (t : Tenant) (d : Nat) : Nat := ((List.range d).filter fun i => t.dies.getLsbD i).length

/-- The physical die of a number the tenant sees. -/
def Tenant.physDie (t : Tenant) (v : Nat) : Option Nat := ((List.range 4).filter fun i => t.dies.getLsbD i)[v]?

/-- A slice, 16 · die + index, with its die as a tenant numbers it (R406). DEDUCED (log 126). -/
def State.viewSlice (s : State) (t sl : Nat) : Nat := 16 * (s.tenantAt t).viewDie (sl / 16) + sl % 16

/-- Queue a record for posting, in the order of the events (R365). -/
def State.post (s : State) (t : Nat) (r : Record) : State := s.modTenant t fun n => { n with records := n.records ++ [r] }

/-! ## Contracts of a thread that stops (R315, R363): defined on the engines' plain data -/

/-- The neighbour position through a port (R5, R117). -/
def neighbour (l : Loc) (d : Dir) : Option Loc :=
  match d with
  | .w => if 0 < l.x then some { l with x := l.x - 1 } else none
  | .n => if 0 < l.y then some { l with y := l.y - 1 } else none
  | .e => if l.x < 17 then some { l with x := l.x + 1 } else none
  | .s => if l.y < 17 then some { l with y := l.y + 1 } else none

/-- The engine on a port's link: its reference core, its orientation, and whether this core is its west or north end. -/
def engineOf (l : Loc) (d : Dir) : Loc × Bool × Bool :=
  match d with
  | .e => (l, true, true)
  | .s => (l, false, true)
  | .w => ({ l with x := l.x - 1 }, true, false)
  | .n => ({ l with y := l.y - 1 }, false, false)

def LinkEngine.start (ref : Loc) (horiz : Bool) : LinkEngine :=
  { ref := ref, horiz := horiz, w := [], e := [], run := none, pending := [], held := none }

def State.engineAt (s : State) (ref : Loc) (horiz : Bool) : LinkEngine :=
  (s.engines.find? fun e => e.ref = ref && e.horiz == horiz).getD (LinkEngine.start ref horiz)

def replaceEngine : List LinkEngine → LinkEngine → List LinkEngine
  | [], e => [e]
  | d :: r, e => if d.ref = e.ref && d.horiz == e.horiz then e :: r else d :: replaceEngine r e

def State.setEngine (s : State) (e : LinkEngine) : State := { s with engines := replaceEngine s.engines e }

def Core.port (c : Core) (d : Dir) : Port := c.ports[d.index]?.getD Port.start
def Core.setPort (c : Core) (d : Dir) (p : Port) : Core := { c with ports := c.ports.setIfInBounds d.index p }

/-- The other end of an engine. -/
def engineEnd (ref : Loc) (horiz west : Bool) : Loc :=
  if west then ref else if horiz then { ref with x := ref.x + 1 } else { ref with y := ref.y + 1 }

def engineDir (horiz west : Bool) : Dir :=
  match horiz, west with
  | true, true => .e | true, false => .w | false, true => .s | false, false => .n

/-- The thread at one end of a matched contract. -/
def EngRun.party (r : EngRun) (west : Bool) : Place := if west then r.west else r.east
/-- The number of one end's contract in a matched one. -/
def EngRun.seqOf (r : EngRun) (west : Bool) : Nat := if west == r.aWest then r.aSeq else r.bSeq
/-- The contract that a thread at one end numbers `seq` is the matched one. -/
def EngRun.ofEnd (r : EngRun) (west : Bool) (who : Option Place) (seq : Nat) : Bool := some (r.party west) == who && r.seqOf west == seq
/-- The contract at an engine is the one that a thread numbers `seq`. -/
def Open.isOf (o : Open) (who : Option Place) (seq : Nat) : Bool := some o.party == who && o.seq == seq

/-- The contracts of one side of an engine, oldest first: the west or north party's, or the other's. -/
def LinkEngine.side (e : LinkEngine) (west : Bool) : List Open := if west then e.w else e.e
def LinkEngine.setSide (e : LinkEngine) (west : Bool) (os : List Open) : LinkEngine := if west then { e with w := os } else { e with e := os }
/-- A thread's contract leaves one side of an engine, with its words. -/
def LinkEngine.withdraw (e : LinkEngine) (west : Bool) (who : Option Place) (seq : Nat) : LinkEngine :=
  e.setSide west ((e.side west).filter fun o => !o.isOf who seq)

/-- A port back in word mode after its contract was cancelled (R315, R318). -/
def Port.withdrawn (q : Port) : Port := { q with mode := .word, isOpen := false, closed := false, feed := none }
/-- A port whose contract `seq` another event has cancelled: REASON is set, its party is diverted to RESTART at its next instruction that
names the port, and that contract's feed unit stops (R316, R385). What was pending before on the port is pending no longer.
DESIGN CHOICE (log 111). -/
def Port.diverting (q : Port) (seq reason : Nat) (restart : W64) : Port :=
  { q with divert := some (BitVec.ofNat 8 reason, restart), mism := none, mark := seq, reason := BitVec.ofNat 8 reason,
           feed := if seq = q.seq then none else q.feed }

/-- A mismatch or a diversion of the port's current contract is pending. -/
def Port.marked (q : Port) : Bool := (q.mism.isSome || q.divert.isSome) && q.mark == q.seq
/-- A port's contract is open, not closed by this party, and neither cancelled nor mismatched yet. -/
def Port.live (q : Port) : Bool := q.isOpen && !q.closed && !q.marked

/-- Cancel the contract one end has opened on a port (R315, R316): unmatched, only its own open and words are withdrawn; matched and
not yet draining, the accumulators, both parties' words of it and the held tile go, and the partner is to be diverted with
`reason`. `back` says what becomes of the own port. -/
def State.cancelContract (s : State) (l : Loc) (d : Dir) (reason : Nat) (back : Port → Port) : State :=
  let c := s.coreAt l
  let p := c.port d
  let (ref, horiz, west) := engineOf l d
  let e := s.engineAt ref horiz
  match e.run with
  | some r =>
    if r.ofEnd west c.place p.seq then
      if r.phase = .stepping then
        let them := some (r.party (!west))
        let o := (e.side (!west)).find? fun o => o.isOf them (r.seqOf (!west))
        let e' := ({ e with run := none, held := none }.withdraw west c.place p.seq).withdraw (!west) them (r.seqOf (!west))
        ((s.setEngine e').modCore l fun c => c.setPort d (back p)).modThread (r.party (!west)) fun c =>
          let od := engineDir horiz (!west)
          let q := c.port od
          c.setPort od { q.diverting (r.seqOf (!west)) reason (match o with | some o => o.block.restart | none => q.restart) with
            cancelled := if reason = 3 then some s.cycle else none }
      else s
    else (s.setEngine (e.withdraw west c.place p.seq)).modCore l fun c => c.setPort d (back p)
  | none => (s.setEngine (e.withdraw west c.place p.seq)).modCore l fun c => c.setPort d (back p)

/-- What becomes of the own port of a contract cancelled with `reason` (R315, R316): after a stop or a translation stall its party is
diverted with reason 6; a save leaves reason 6, and the thread resumes at RESTART; a HALT leaves the reason as it is. DEDUCED (log 80). -/
def Port.ownAfter (reason : Nat) (q : Port) : Port :=
  if reason = 2 || reason = 8 then q.diverting q.seq 6 q.restart
  else if reason = 4 then q.withdrawn
  else { q.withdrawn with reason := 6 }

/-- Cancel every contract a thread has opened and not closed. -/
def State.cancelOpen (s : State) (l : Loc) (reason : Nat) : State :=
  dirs.foldl (fun s d =>
    if ((s.coreAt l).port d).live then s.cancelContract l d reason (Port.ownAfter reason) else s) s

/-! ## Entering a trap (R25, R363) and returning from one (R381) -/

/-- The trap state R25 writes, on a core. -/
def Core.writeTrap (c : Core) (xpc : W64) (t : TrapInfo) : Core :=
  { c with sys := { c.sys with xpc := xpc, xcause := w64 (t.code % 256), xinfo := #v[t.i0, t.i1, t.i2, t.i3] } }

/-- The thread's handler takes a code when its class, TVEC.EN and STATUS.INTRAP allow it (R25, R360). -/
def Core.handles (c : Core) (code : Nat) : Bool := !toSupervisor code && c.sys.tvec.getLsbD 0 && !c.sys.intrap

/-- Take a trap on core `l`, XPC naming `xpc`: into the handler, or the thread stops, its gang dissolves, its open contracts are
cancelled with reason 8, and one KIND 1 record is posted. On a slice core a trap condition only stops the invocation (R351). -/
def State.takeTrapAt (s : State) (l : Loc) (xpc : W64) (t : TrapInfo) : State :=
  if l.kind = .slice then s.modCore l fun c => { c.unhold with run := .stopped } else
  let s := s.dissolve l
  let c := ((s.coreAt l).writeTrap xpc t).unhold
  if c.handles t.code then
    s.setCore { c with pc := c.sys.tvec &&& ~~~1, inRep := false, sys := { c.sys with intrap := true } }
  else
    let c' := { c with run := .stopped }
    let s1 := (s.setCore c').cancelOpen l 8
    s1.post c.tenantNo (s.threadRecord c' 1 t.code xpc c.sys.xinfo)

/-- Take a precise trap of the looked-at thread (R13: no effect of the instruction). -/
def State.takeTrap (s : State) (t : TrapInfo) : State := s.takeTrapAt s.core.loc s.core.pc t

/-- Stall a thread on a refused translation (R361, R363): a KIND 2 record, its gang dissolved, its open contracts cancelled with
reason 2. DEDUCED (log 15). -/
def State.takeStall (s : State) (l : Loc) (code level : Nat) (acc : Access) (va : Nat) : State :=
  if l.kind = .slice then s.modCore l fun c => { c.unhold with run := .stopped } else
  let s := s.dissolve l
  let c := s.coreAt l
  let s1 := (s.setCore { c with run := .stalled, held := false, walk := none, kept := none, portSince := none }).cancelOpen l 2
  s1.post c.tenantNo (s.threadRecord c 2 code c.pc #v[acc.word, 0, w64 va, w64 level])

/-- ERET's return (R381), after its checks: INTRAP clears, and the thread goes on at XPC; a repetition block in progress is taken
up by the next fetch (R203). -/
def State.returnFromTrap (s : State) : State :=
  s.onCore fun c => { c with sys := { c.sys with intrap := false }, inRep := c.repActive }

/-! ## Guards and the end of an instruction (R56, R57, R65 steps 7 to 9) -/

def guardTerm (c : Core) (f : BitVec 4) : Bool := (c.getG (f.setWidth 3)) != f.getLsbD 3

/-- The combined guard of R57. -/
def enabled (ctl : Ctl) (c : Core) : Bool :=
  match ctl with
  | none => true
  | some w =>
    let ga := guardTerm c (w.extractLsb' 0 4)
    let gb := guardTerm c (w.extractLsb' 4 4)
    if w.getLsbD 8 then ga || gb else ga && gb

/-- HINT of R56. -/
def hintOf : Ctl → Nat
  | none => 0
  | some w => (w.extractLsb' 9 3).toNat

/-- DELAY of R58: the next instruction issues no earlier than DELAY + 1 cycles after this one. -/
def delayOf : Ctl → Nat
  | none => 0
  | some w => (w.extractLsb' 12 4).toNat

/-- DELAY's effect on the thread: the cycle before which it issues nothing. -/
def State.delayed (s : State) (ctl : Ctl) : State :=
  if delayOf ctl = 0 then s else s.onCore fun c => { c with slowUntil := s.cycle + BitVec.ofNat 64 (delayOf ctl + 1) }

/-- What an instruction does besides where it completes; one that is held, traps or stalls has no effect (R13). -/
def Res.onDone (f : State → State) : Res → Res
  | .ok s => .ok (f s)
  | .goto s pc => .goto (f s) pc
  | r => r

/-- The next state of an instruction's end. -/
def finish (s : State) : Res → State
  | .ok t => t.advance
  | .goto t pc => t.onCore fun c => c.jumpTo pc
  | .hold t => t.onCore fun c => { c with held := true }
  | .trap t => s.takeTrap t
  | .trapIn u t => u.takeTrap t
  | .stall code level acc va => s.takeStall s.core.loc code level acc va
  | .walk acc va => s.onCore fun c => { c with held := true, walk := some (va, acc) }

/-- An instruction (R65 steps 8 and 9): with a false guard no effect but the advance, otherwise its own checks and effect. -/
def run (ctl : Ctl) (s : State) (body : State → Res) : Host.Outcome State Fault Refusal :=
  if enabled ctl s.core then .next ((finish s (body s)).delayed ctl) else .next (s.advance.delayed ctl)

/-- A privileged instruction (R64, R65 step 7): PRIV below machine level, before the guard. DEDUCED (log 73). -/
def runMachine (ctl : Ctl) (s : State) (body : State → Res) : Host.Outcome State Fault Refusal :=
  if s.core.loc.kind = .control then run ctl s body else .next (finish s (priv s))

/-- An event: the machine's state after it. DEDUCED (log 92). -/
def event (s : State) : Host.Outcome State Fault Refusal := .next s

end Sys2Proof.Machine
end

