-- ==== Sys2Proof/Machine/Flags.lean ====
section
/-! DEFINITION. Sys2Proof/Machine/Flags.lean: the conditions that compares write into guards and masks (R99, R109, R175), and the
class mask of R107. -/

namespace Sys2Proof.Machine

/-- The conditions of CMP and CMPI (R99). -/
def condHolds (cc : Cond) (a b : W64) : Bool :=
  match cc with
  | .eq => a == b
  | .ne => a != b
  | .lt => a.slt b
  | .le => a.sle b
  | .ltn => a.ult b
  | .len => a.ule b
  | .any => a &&& b != 0
  | .none => a &&& b == 0

/-- The immediate of CMPI: unsigned for `.any` and `.none`, signed otherwise (R99). -/
def cmpImm (cc : Cond) (i : BitVec 16) : W64 :=
  match cc with
  | .any | .none => i.setWidth 64
  | _ => i.signExtend 64

/-- The conditions of FCMP (R109): only `.un` is true with a NaN. -/
def fcondHolds (cc : FCond) (a b : FVal) : Bool :=
  if a.isNan || b.isNan then (match cc with | .un => true | _ => false)
  else match cc with
    | .eq => a.cmp b == 0
    | .lt => a.cmp b < 0
    | .le => a.cmp b ≤ 0
    | .un => false

/-- The class of an encoding (R107): bit 0 −∞ to bit 8 NaN. -/
def fclassBit (f : FFmt) (bits : Nat) : Nat :=
  let m := bits % 2 ^ f.mb
  let e := (bits / 2 ^ f.mb) % 2 ^ f.eb
  match fdec f bits with
  | .nan => 8
  | .inf neg => if neg then 0 else 7
  | .fin neg _ _ =>
    if e = 0 && m = 0 then (if neg then 3 else 4)
    else if e = 0 then (if neg then 2 else 5)
    else (if neg then 1 else 6)

/-- The conditions of VCMP on two lanes (R175): float types compare as FCMP does, `.ne` being true with a NaN; integer types by
their signedness. -/
def vcondHolds (cc : VCond) (a b : NVal) : Bool :=
  match a, b with
  | .int x, .int y => (match cc with | .eq => x == y | .ne => x != y | .lt => x < y | .le => x ≤ y)
  | .flt x, .flt y =>
    (match cc with
     | .eq => fcondHolds .eq x y
     | .ne => !fcondHolds .eq x y
     | .lt => fcondHolds .lt x y
     | .le => fcondHolds .le x y)
  | _, _ => false

end Sys2Proof.Machine
end

