-- ==== Sys2Proof/Machine/Order.lean ====
section
/-! DEFINITION. Sys2Proof/Machine/Order.lean: translation (R242 to R246), the views and moves of the ordering machine (R248 to R268),
and the slice request that goes with a global access (R232). -/

namespace Sys2Proof.Machine

/-! ## Translation -/

def Access.read : Access := { write := false, fetch := false, atomic := false }
def Access.store : Access := { write := true, fetch := false, atomic := false }
def Access.code : Access := { write := false, fetch := true, atomic := false }
def Access.amo : Access := { write := true, fetch := false, atomic := true }

/-- The byte of a store at a physical address, if the store covers it. -/
def BStore.byte? (b : BStore) (pa : Nat) : Option Byte := if b.pa ≤ pa then b.data[pa - b.pa]? else none

/-- The newest byte of a buffer, oldest entry first. -/
def bufByte (bs : List BStore) (pa : Nat) : Option Byte :=
  bs.foldl (fun acc b => match b.byte? pa with | some v => some v | none => acc) none

/-- The newest store of a store buffer issued before position `p` (R249 step 1); LOG entries enter no view (R254). -/
def sbByte (sb : List PStore) (p pa : Nat) : Option Byte :=
  sb.foldl (fun acc t => if t.pos < p && t.log.isNone && t.pa ≤ pa then
    (match t.data[pa - t.pa]? with | some v => some v | none => acc) else acc) none

/-- The physical line of an address. -/
def lineOf (pa : Nat) : Nat := pa / 128 * 128

/-- The key pair in a slot. -/
def State.keyPair (s : State) (k : Nat) : List Byte := tabGet [] s.keyPairs k

/-- A slice holds a line, in plaintext. -/
def State.inSlice (s : State) (line : Nat) : Bool := s.slices.any fun q => q.2.lines.any fun l => l.line == line

/-- The key pair a line was written under, where reading it through slot `k` does not give its plaintext (R241): another pair, and no slice
holds the line. DEDUCED (log 34). -/
def State.foreignKey (s : State) (k pa : Nat) : Option (List Byte) :=
  match tabGet (s.keyPair k) s.sealed (lineOf pa) with
  | p => if p == s.keyPair k || s.inSlice (lineOf pa) then none else some p

/-- A byte of shared memory as read through a page of key slot `k`. -/
def State.memByte (s : State) (k pa : Nat) : Byte :=
  match s.foreignKey k pa with
  | some p => Config.deciphered p (s.keyPair k) pa (s.mem.read pa)
  | none => s.mem.read pa

/-- The view of die `d` through a page of key slot `k` (R249 steps 3 and 4, and step 2 for a host aperture). -/
def State.dieByte (s : State) (d k pa : Nat) : Byte :=
  if isHost pa then (bufByte s.ob pa).getD (s.host.read pa)
  else (bufByte (s.dieAt d).db pa).getD (s.memByte k pa)

/-- What an engine on die `d` reads (R249): steps 3 and 4 only. -/
def State.engineByte (s : State) (d k pa : Nat) : Byte :=
  if isHost pa then s.host.read pa else (bufByte (s.dieAt d).db pa).getD (s.memByte k pa)

/-- The view of a thread for an operation at position `p` (R249). -/
def State.viewByte (s : State) (c : Core) (p k pa : Nat) : Byte := (sbByte c.sb p pa).getD (s.dieByte c.loc.die k pa)

/-- A list of values, newest first, up to the first that is not newer than a bound; then what follows. -/
def upToBound : List (Bool × Byte) → List Byte → List Byte
  | [], rest => rest
  | (new, b) :: r, rest => if new then b :: upToBound r rest else [b]

/-- A store of this thread issued before its latest IFENCE. -/
def Core.ownBefore (c : Core) (o : Owner × Nat) : Bool := o.1 == c.owner && decide (o.2 < c.fencePos)

/-- A write of shared memory stood in the thread's view at its latest IFENCE, or its start (R249, R267): in memory by then, or in its die's
buffer, or in its own store buffer. -/
def Core.saw (c : Core) (w : MWrite) : Bool :=
  !c.fenceAt.ult w.at_ || (w.die.any fun d => d.1 == c.loc.die && !c.fenceAt.ult d.2) || w.own.any c.ownBefore

/-- The values a fetch of thread `c` may return for a byte, newest first (R267): of its coherence order in the thread's view, from now back
to the view at the thread's latest IFENCE or its start. DEDUCED (log 28). -/
def State.versions (s : State) (c : Core) (k pa : Nat) : List Byte :=
  let mine := c.sb.reverse.filterMap fun t => if t.log.isNone && t.pa ≤ pa then t.data[pa - t.pa]?.map fun b => (decide (c.fencePos ≤ t.pos), b)
    else none
  let others := (if isHost pa then s.ob else (s.dieAt c.loc.die).db).reverse.filterMap fun t =>
    (t.byte? pa).map fun b => (c.fenceAt.ult t.at_ && !c.ownBefore (t.owner, t.pos), b)
  let ws := s.mlog.filter fun w => w.pa = pa
  upToBound mine (upToBound others (if isHost pa then [s.host.read pa]
    else upToBound ((ws.map (!c.saw ·) ++ [false]).zip (s.memByte k pa :: ws.map MWrite.old)) []))

/-- A line is poisoned, or has an uncorrectable error that any read finds (R369), or lies in a granule whose tenant was revoked (R416
step 4). DEDUCED (log 66). -/
def State.isPoisoned (s : State) (pa : Nat) : Bool :=
  (s.poison.any fun e => e.1 = lineOf pa) || s.badLines.contains (lineOf pa) || s.deadGranules.contains (granuleOf pa)

/-- `n` bytes of a thread's view; a poisoned line reads zero (R369). -/
def State.viewN (s : State) (c : Core) (p k pa n : Nat) : List Byte :=
  if s.isPoisoned pa then List.replicate n 0 else (List.range n).map fun i => s.viewByte c p k (pa + i)

/-- `n` bytes of a die's view. -/
def State.dieN (s : State) (d k pa n : Nat) : List Byte := (List.range n).map fun i => s.dieByte d k (pa + i)

/-- `n` bytes as a page walker of a die reads them (R244): tables carry no key of their own; a poisoned line reads zero (R369).
DEDUCED (log 34). -/
def State.tableN (s : State) (d pa n : Nat) : List Byte :=
  if s.isPoisoned pa then List.replicate n 0 else (List.range n).map fun i => (bufByte (s.dieAt d).db (pa + i)).getD (s.mem.read (pa + i))

def TlbEntry.covers (e : TlbEntry) (t va : Nat) : Bool := e.tenant == t && e.va ≤ va && va < e.va + e.size

/-- The entry that translates an address: the core's TLB, then its die's (R244). -/
def State.tlbFind (s : State) (c : Core) (va : Nat) : Option TlbEntry :=
  match c.tlb.find? fun e => e.covers c.tenantNo va with
  | some e => some e
  | none => (s.dieAt c.loc.die).tlb.find? fun e => e.covers c.tenantNo va

/-- The level of the table that holds a leaf of this size (R242). -/
def TlbEntry.level (e : TlbEntry) : Nat := if e.size ≤ 65536 then 4 else 3

/-- The DRAM channel of a line homed on a die (R241): 0 to 7 GDDR-7, 8 to 11 LPDDR-6. -/
def dramChannel (pa : Nat) : Nat :=
  if isGddr pa then (pa >>> 8) % 8 ^^^ (pa >>> 13) % 8 else 8 + (bits2 pa 7 ^^^ bits2 pa 13)

/-- What a leaf grants a tenant's access (R245, R246, R408, R412). -/
def State.grant (s : State) (t va : Nat) (acc : Access) (e : TlbEntry) : Tr :=
  let pa := ptePfn e.pte + (va - e.va)
  let lvl := e.level
  if (acc.write && !pteW e.pte) || (acc.fetch && !pteX e.pte) || isReservedPa pa then .refuse 0x09 lvl
  else if isDevice pa && (tabGet 0xFF s.owners (granuleOf pa)).toNat ≠ t then .refuse 0x09 lvl
  else if tabGet 255 s.keys (pteKey e.pte) ≠ t then .refuse 0x09 lvl
  else if isDevice pa && s.scrubbing.contains (granuleOf pa) then .wait
  else if acc.write && pteLock e.pte then .wait
  else .hit pa e.pte

/-- A thread's translation (R242 to R246). -/
def State.translate (s : State) (c : Core) (va : Nat) (acc : Access) : Tr :=
  if 2 ^ 48 ≤ va then .refuse 0x09 0
  else match s.tlbFind c va with
    | none => .miss
    | some e => s.grant c.tenantNo va acc e

/-- A must-be-zero bit of an entry is set, or a non-leaf entry holds more than V, LEAF and PFN (R243). -/
def pteBad (p : W64) : Bool :=
  bitsOf p 63 55 != 0 || bitsOf p 11 10 != 0 || (!pteLeaf p && p &&& 0x0000FFFFFFFFF001#64 != p)

/-- One level of the table walk (R242, R243, R245): a refusal with its code and level, a TLB entry, or the next table. -/
def walkStep (p : W64) (level t va : Nat) : Except (Nat × Nat) (TlbEntry ⊕ Nat) :=
  if !pteV p then .error (0x08, level)
  else if pteBad p then .error (0x09, level)
  else if pteLeaf p then
    let size := if level = 3 then (if pteSize p then 0x10000000 else 0x200000) else (if pteSize p then 0x10000 else 0x1000)
    if level < 3 || ptePfn p % size != 0 then .error (0x09, level)
    else .ok (.inl { tenant := t, va := va / size * size, size := size, pte := p })
  else if level = 4 then .error (0x09, level)
  else .ok (.inr (ptePfn p))

/-- The walk from a table of `level` on, through the view of die `d` (R244). DESIGN CHOICE (log 55). -/
def State.walkFrom (s : State) (d t va : Nat) : Nat → Nat → Nat → Except (Nat × Nat) TlbEntry
  | 0, level, _ => .error (0x09, level)
  | fuel + 1, level, table =>
    if !isDevice table then .error (0x09, level)
    else
      let idx := (va >>> (12 + 9 * (4 - level))) % 512
      match walkStep (w64 (leNat (s.tableN d (table + 8 * idx) 8))) level t va with
      | .error e => .error e
      | .ok (.inl e) => .ok e
      | .ok (.inr next) => State.walkFrom s d t va fuel (level + 1) next

/-- The whole walk of a tenant's table (R242). -/
def State.walkTable (s : State) (d t va : Nat) : Except (Nat × Nat) TlbEntry :=
  if 2 ^ 48 ≤ va then .error (0x09, 0) else s.walkFrom d t va 4 1 (s.tenantAt t).ptroot.toNat

/-- The table entries that a walk reads, by physical address. -/
def State.walkReads (s : State) (d va : Nat) : Nat → Nat → Nat → List Nat
  | 0, _, _ => []
  | fuel + 1, level, table =>
    if !isDevice table then []
    else
      let pa := table + 8 * ((va >>> (12 + 9 * (4 - level))) % 512)
      match walkStep (w64 (leNat (s.tableN d pa 8))) level 0 va with
      | .ok (.inr next) => pa :: State.walkReads s d va fuel (level + 1) next
      | _ => [pa]

/-- The table entries that the walk of a tenant's address reads. -/
def State.tablesOf (s : State) (d t va : Nat) : List Nat := if 2 ^ 48 ≤ va then [] else s.walkReads d va 4 1 (s.tenantAt t).ptroot.toNat

/-- A table that a walk reads lies in a granule under scrub, whose accesses are held (R408). -/
def State.walkHeld (s : State) (d t va : Nat) : Bool := (s.tablesOf d t va).any fun pa => s.scrubbing.contains (granuleOf pa)

/-- The set of the last-level TLB that holds an entry. -/
def TlbEntry.set (e : TlbEntry) : Nat := e.va / e.size % 512

/-- A newer entry of a set of a last-level TLB: 8 ways, the oldest goes (R244). -/
def tlbInsert (e : TlbEntry) (es : List TlbEntry) : List TlbEntry :=
  let others := es.filter fun f => !(f.tenant == e.tenant && f.va == e.va)
  let mine := (others.filter fun f => f.set == e.set).take 7
  e :: others.filter fun f => f.set != e.set || mine.contains f

/-- Fill both TLBs; the oldest entry goes when the core's 32 or the set's 8 are in use (R244). DESIGN CHOICE (log 19). -/
def State.fillTlb (s : State) (l : Loc) (e : TlbEntry) : State :=
  let s1 := s.modCore l fun c => { c with tlb := (e :: c.tlb.filter fun f => !(f.tenant == e.tenant && f.va == e.va)).take 32 }
  s1.modDie l.die fun d => { d with tlb := tlbInsert e d.tlb }

/-- A translation that walks at once (engines, buffered stores, launch reads). -/
def State.translateNow (s : State) (d t : Nat) (tlb : Option TlbEntry) (va : Nat) (acc : Access) : Tr :=
  if 2 ^ 48 ≤ va then .refuse 0x09 0
  else match tlb with
    | some e => s.grant t va acc e
    | none => if s.walkHeld d t va then .wait else match s.walkTable d t va with
      | .error (code, level) => .refuse code level
      | .ok e => s.grant t va acc e

/-- A core's translation with the walk taken at once. -/
def State.translateCore (s : State) (c : Core) (va : Nat) (acc : Access) : Tr :=
  s.translateNow c.loc.die c.tenantNo (s.tlbFind c va) va acc

/-- An agent of a die and tenant translates through the die's TLB. -/
def State.translateDie (s : State) (d t va : Nat) (acc : Access) : Tr :=
  s.translateNow d t ((s.dieAt d).tlb.find? fun e => e.covers t va) va acc

/-- The page walks of a die, one for all the threads that miss on a page (R244): tenant and 4 KiB page. -/
def State.walks (s : State) (d : Nat) : List (Nat × Nat) :=
  (s.allCores.filterMap fun c => if c.loc.die = d then c.walk.map fun w => (c.tenantNo, w.1 / 4096) else none).eraseDups

/-- The die's 32 walkers are in use (R244). -/
def State.walkersBusy (s : State) (d : Nat) : Bool := 32 ≤ (s.walks d).length

/-- The translation of an engine or another agent of a core's die: its walk needs a walker (R244). -/
def State.agentTr (s : State) (c : Core) (va : Nat) (acc : Access) : Tr :=
  if (s.tlbFind c va).isNone && s.walkersBusy c.loc.die then .miss else s.translateCore c va acc

/-- The translation of an agent that has no core. -/
def State.dieTr (s : State) (d t va : Nat) (acc : Access) : Tr :=
  if !((s.dieAt d).tlb.any fun e => e.covers t va) && s.walkersBusy d then .miss else s.translateDie d t va acc

/-- One more entry before those of a table: of the same page as the next one, or of a page of its own (R243). -/
def addSite (at_ : Nat) (e : TlbEntry) : List LeafSite → List LeafSite
  | [] => [{ ats := [at_], leaf := e }]
  | f :: r => if f.leaf = e then { f with ats := at_ :: f.ats } :: r else { ats := [at_], leaf := e } :: f :: r

/-- Every leaf of a table from a level on, as a walk finds it, each page once with the addresses of its entries. -/
def State.sitesFrom (s : State) (d t : Nat) : Nat → Nat → Nat → Nat → List LeafSite
  | 0, _, _, _ => []
  | fuel + 1, level, table, va =>
    if !isDevice table then []
    else (List.range 512).foldr (fun (i : Nat) (found : List LeafSite) =>
      let at_ := va + i * 2 ^ (12 + 9 * (4 - level))
      match walkStep (w64 (leNat (s.tableN d (table + 8 * i) 8))) level t at_ with
      | .error _ => found
      | .ok (.inl e) => addSite (table + 8 * i) e found
      | .ok (.inr next) => State.sitesFrom s d t fuel (level + 1) next at_ ++ found) []

/-- The leaves of a tenant's table, with their places. -/
def State.sites (s : State) (d t : Nat) : List LeafSite := s.sitesFrom d t 4 1 (s.tenantAt t).ptroot.toNat 0

/-- Every leaf of a tenant's table. -/
def State.leaves (s : State) (d t : Nat) : List TlbEntry := (s.sites d t).map LeafSite.leaf

/-- The pages of a virtual range that a tenant's table maps for reading, as die `d` sees it (R348). -/
def State.rangePages (s : State) (d t lo hi : Nat) : List (Nat × Nat × Nat) :=
  (s.leaves d t).filterMap fun e =>
    if e.va < hi && lo < e.va + e.size then
      (match s.grant t e.va Access.read e with
        | .refuse _ _ | .miss => none
        | .hit _ _ | .wait => some (e.va, ptePfn e.pte, e.size))
    else none

/-- What HSTAT holds of a tenant's trigger at a slice (R351). -/
def Slice.stat (sl : Slice) (t : Nat) (k : Trigger) : TrigStat :=
  (sl.stats.find? fun e => e.tenant = t && e.kind = k).getD { tenant := t, kind := k, disabled := false, skips := 0, overruns := 0 }
def Slice.setStat (sl : Slice) (v : TrigStat) : Slice :=
  { sl with stats := v :: sl.stats.filter fun e => !(e.tenant == v.tenant && e.kind == v.kind) }

/-- An enabled handler image of a tenant for a trigger at a slice (R349, R351). -/
def Slice.handler (sl : Slice) (t : Nat) (k : Trigger) : Option SliceReg :=
  if (sl.stat t k).disabled then none else sl.regs.find? fun r => r.tenant = t && r.kind = k

/-- A physical line's offset from LO, where the registered range maps it (R348). -/
def SliceReg.lineOff (r : SliceReg) (line : Nat) : Option Nat :=
  r.pages.findSome? fun p =>
    let va := p.1 + (line - p.2.1)
    if p.2.1 ≤ line && line < p.2.1 + p.2.2 && r.lo ≤ va && va < r.hi then some (va - r.lo) else none

/-- The enabled handler of a tenant for a trigger on a line, and the line's offset from LO. -/
def State.handlerFor (s : State) (sl t line : Nat) (k : Trigger) : Option (SliceReg × Nat) :=
  match (s.sliceAt sl).handler t k with
  | some r => (r.lineOff line).map fun o => (r, o)
  | none => none

/-! ## Paths between dies (R386, R387, R389) -/

/-- The Bramble links a path between two dies uses (R386, R387, R389): links 0–1, 2–3, 0–2, 1–3 are numbered 0 to 3; a link that is
down sends its paths the other way round the ring. -/
def linkNo (a b : Nat) : Nat :=
  match Nat.min a b, Nat.max a b with
  | 0, 1 => 0 | 2, 3 => 1 | 0, 2 => 2 | _, _ => 3

/-- The dies a path passes, ends included: horizontally first (R387). -/
def plainPath (a b : Nat) : List Nat :=
  if a = b then [a]
  else if a / 2 = b / 2 || a % 2 = b % 2 then [a, b]
  else [a, a / 2 * 2 + b % 2, b]

def pathLinks : List Nat → List Nat
  | a :: b :: r => linkNo a b :: pathLinks (b :: r)
  | _ => []

/-- The dies in order the other way round the ring 0, 1, 3, 2. -/
def otherPath (a b : Nat) : List Nat :=
  if a / 2 = b / 2 then [a, (a + 2) % 4, (b + 2) % 4, b]
  else if a % 2 = b % 2 then [a, a / 2 * 2 + (1 - a % 2), b / 2 * 2 + (1 - b % 2), b]
  else [a, b / 2 * 2 + a % 2, b]

def State.pathOf (s : State) (a b : Nat) : List Nat :=
  let down := fun (p : List Nat) => (pathLinks p).any fun k => (s.brambles[k]?.any fun l => l.down)
  if a = b then [] else if down (plainPath a b) then pathLinks (otherPath a b) else pathLinks (plainPath a b)

/-- Traffic between two dies is held by a retraining link (R389). -/
def State.pathHeld (s : State) (a b : Nat) : Bool :=
  (s.pathOf a b).any fun k => s.brambles[k]?.any fun l => l.retraining.isSome && !l.down

/-! ## Monitors, snoops, and stores entering memory -/

/-- Set the triggered bit of the monitors armed on a line (R266). -/
def State.trigger (s : State) (line : Nat) (p : Core → Bool) : State :=
  s.mapCores fun c => if c.mon.any (fun m => m.1 == line) && p c then { c with trig := true } else c

/-- An uncorrectable line found without a thread is poisoned, and a KIND 6 record goes to its tenant (R369). DESIGN CHOICE (log 37). -/
def State.poisonFound (s : State) (line : Nat) : State :=
  let t := (tabGet 0xFF s.owners (granuleOf line)).toNat
  let s1 := { s with badLines := s.badLines.filter (· ≠ line), poison := if s.poison.any fun e => e.1 = line then s.poison else s.poison ++ [(line, 0)] }
  if t < 64 then
    s1.post t { kind := 6, code := 0x15, queue := 0, slot := 0, launch := 0, core := 0, plot := 0, xpc := 0, xinfo := #v[3, 0, w64 line, 0] }
  else s1

/-- A line leaves a cache: an uncorrectable error that nothing had found is found (R369). -/
def State.checkOut (s : State) (line : Nat) : State := if s.badLines.contains line then s.poisonFound line else s

/-- The sets of a die's stack (R240): 4 GiB less the context areas of the tenants it is granted to, in sets of 4 lines of 128 bytes. -/
def State.stackSets (s : State) (die : Nat) : Nat :=
  (4096 * 2 ^ 20 - (s.tenants.map fun e => if e.2.dies.getLsbD die then e.2.ctxMib * 2 ^ 20 else 0).sum) / 512

/-- A line enters a stack: 4 ways, the least recently used goes, and is written back to DRAM if dirty. DESIGN CHOICE (log 44). -/
def Die.stackFill (d : Die) (sets line : Nat) (dirty : Bool) : Die :=
  let set := fun (a : Nat) => if sets = 0 then 0 else a / 128 % sets
  if sets = 0 then d
  else
    let was := d.stack.any fun l => l.line == line && l.dirty
    let others := d.stack.filter fun l => l.line != line
    let mine := (others.filter fun l => set l.line == set line).take 3
    { d with stack := { line := line, dirty := dirty || was } :: others.filter fun l => set l.line != set line || mine.contains l }

/-- A line enters a die's stack, and the line that leaves it is checked (R240, R369). -/
def State.stackFill (s : State) (die line : Nat) (dirty : Bool) : State :=
  let s1 := s.modDie die fun d => d.stackFill (s.stackSets die) line dirty
  ((s.dieAt die).stack.filter fun l => !((s1.dieAt die).stack.any fun k => k.line == l.line)).foldl (fun (s : State) (l : StackLine) => s.checkOut l.line) s1

/-- A dirty line is written back to its home slice: dirty there, or, where that slice holds no line for it, on to the stack of its die.
DESIGN CHOICE (log 124). -/
def State.lineBack (s : State) (home line : Nat) : State :=
  if (s.sliceAt home).lines.any fun l => l.line == line && !l.copy then
    s.modSlice home fun q => { q with lines := q.lines.map fun l => if l.line == line && !l.copy then { l with dirty := true } else l }
  else s.stackFill (home / 16) line true

/-- A dirty stash entry is written back to its home slice (R224, R225). -/
def State.stashBack (s : State) (e : StashEntry) : State := if e.dirty then s.lineBack e.home e.line else s
def State.backAll (s : State) (es : List StashEntry) : State := es.foldl State.stashBack s

/-- The stash entries of a core. -/
def Core.entries (c : Core) : List StashEntry := c.stashes.toList.flatMap fun o => o.elim [] Stash.entries

/-- A line's owner becomes a sharer, where its stash entry stays (R224). -/
def SliceLine.demote (l : SliceLine) (stays : Loc → Bool) : SliceLine :=
  { l with sharers := l.sharers ++ l.owner.toList.filter (fun o => stays o && !l.sharers.contains o), owner := none }

/-- A read of a line by an agent that sends no slice request recalls the entries that other cores own: they are written back and stay shared
(R224). -/
def State.shareLine (s : State) (line : Nat) (by_ : Option Loc) : State :=
  let owned := fun (c : Core) (e : StashEntry) => some c.loc != by_ && e.line == line && e.owned
  let kept := fun (c : Core) (e : StashEntry) => if owned c e then { e with dirty := false, owned := false } else e
  let stays := fun (o : Loc) => (s.coreAt o).entries.any fun e => e.line == line
  let s1 := (s.backAll (s.allCores.flatMap fun c => c.entries.filter (owned c))).mapCores fun c =>
    { c with stashes := c.stashes.map fun (o : Option Stash) => o.map fun r => { r with entries := r.entries.map (kept c) } }
  let shared := fun (l : SliceLine) => if l.line == line && l.owner.any (fun o => some o != by_) then l.demote stays else l
  { s1 with slices := s1.slices.map fun (q : Nat × Slice) => (q.1, { q.2 with lines := q.2.lines.map shared }) }

/-- A request that writes its line. -/
def Req.writes (r : Req) : Bool := r.kind != .read && r.kind != .log

/-- A request comes from the core's own thread, whose accesses use its stash (R224). -/
def Req.ofThread (r : Req) (l : Loc) : Bool := r.owner == l && r.agent == .core

/-- A stash entry that a request of another agent recalls or invalidates first (R224). -/
def Req.recalls (r : Req) (c : Core) : Bool :=
  !r.ofThread c.loc && r.kind != .log && c.entries.any fun e => e.line == r.line && (r.writes || e.owned)

/-- A request has joined a combining window, whose reply has not been sent (R236). -/
def State.inWindow (s : State) (r : Req) : Bool := (s.sliceAt r.slice).combines.any fun w => w.joined.contains r.id

/-- A line has an open combining window, or a read that its window has answered has still to take its values (R236). -/
def State.windowed (s : State) (pa : Nat) : Bool :=
  (s.slices.any fun q => q.2.combines.any fun w => w.line == lineOf pa) || s.reqs.any fun r => r.st == .answered && r.line == lineOf pa

/-- A handler holds a request: a MISS or FILL image of its tenant is registered for its line (R349, R355). -/
def State.reqHandled (s : State) (r : Req) : Bool :=
  !r.quiet && ((s.handlerFor r.slice r.tenant r.line .miss).isSome || (s.handlerFor r.slice r.tenant r.line .fill).isSome)

/-- The access of a request still waits for it (R224, R236, R349, R355): a handler may hold its data, a combining window has not answered it,
or another core's stash entry has not been recalled yet. -/
def State.reqHeld (s : State) (id : Nat) : Bool :=
  s.reqs.any fun r => r.id = id && r.st != .answered && (s.reqHandled r || s.inWindow r || s.allCores.any r.recalls)

/-- A store of an agent recalls every other core's stash entry, and writes it back, and its atomic line buffer of the line (R224, R225,
R239). -/
def State.snoop (s : State) (line : Nat) (by_ : Option Loc) : State :=
  let gone := s.allCores.flatMap fun c => if some c.loc = by_ then [] else c.entries.filter fun e => e.line = line
  (s.backAll gone).mapCores fun c => if some c.loc = by_ then c else
    { c with linebuf := c.linebuf.filter fun a => a ≠ line,
             stashes := c.stashes.map fun o => o.map fun r => { r with entries := r.entries.filter fun e => e.line ≠ line } }

/-- The bytes a store covers of its line, as a bit mask. -/
def coverMask (pa n : Nat) : BitVec 128 := BitVec.ofNat 128 ((2 ^ n - 1) * 2 ^ (pa % 128))

/-- A write clears a line's poison once every byte of it has been written (R369). -/
def healPoison (t : Tab (BitVec 128)) (pa n : Nat) : Tab (BitVec 128) :=
  t.filterMap fun e => if e.1 = lineOf pa then
    (let m := e.2 ||| coverMask pa n; if m = BitVec.allOnes 128 then none else some (e.1, m)) else some e

/-- An uncorrectable error of a line is found: the line is poisoned (R369). -/
def State.findBad (s : State) (line : Nat) : State :=
  if s.badLines.contains line then
    { s with badLines := s.badLines.filter (· ≠ line), poison := if s.poison.any fun e => e.1 = line then s.poison else s.poison ++ [(line, 0)] }
  else s

/-- Corrected errors are counted: of their unit, and of a tenant (R368). -/
def State.countFixed (s : State) (u : ErrUnit) (t n : Nat) : State :=
  let old := ((s.errs.find? fun e => e.1 = u).map Prod.snd).getD 0
  let s1 := { s with errs := (u, old + n) :: s.errs.filter fun e => e.1 ≠ u }
  if t < 64 then s1.modTenant t fun k => { k with corrected := k.corrected + n } else s1

/-- The stack of the home die holds a line pinned, copied from a channel that retrains (R424). -/
def State.inRetrain (s : State) (line : Nat) : Bool :=
  s.mgmt.retrain.any fun r => r.copied && dramChannel line == r.ch && r.batch.any fun e => ptePfn e.leaf.pte ≤ line && line < ptePfn e.leaf.pte + e.leaf.size &&
    homeDie e.leaf.pte line == r.die

/-- The unit that a line's data is read from: its slice, the stack of its home die, or its DRAM channel. -/
def State.lineUnit (s : State) (line : Nat) : ErrUnit :=
  match s.slices.find? fun q => q.2.lines.any fun l => l.line == line with
  | some q => .slice q.1
  | none =>
    let d := foldDie line
    if ((s.dieAt d).stack.any fun l => l.line == line) || s.inRetrain line then .stack d else .dram d (dramChannel line)

/-- A read of a line corrects a single-bit error, writes it back and counts it, and finds an uncorrectable one (R368, R369). -/
def State.checkLine (s : State) (pa : Nat) : State :=
  let line := lineOf pa
  let s1 := s.findBad line
  if s1.softLines.contains line then
    { s1 with softLines := s1.softLines.filter (· ≠ line) }.countFixed (s1.lineUnit line) (tabGet 0xFF s1.owners (granuleOf line)).toNat 1
  else s1

/-- The values that a write at `pa` replaces. -/
def replaced (m : Memory) (now : BitVec 64) (pa n : Nat) (own : Option (Owner × Nat)) (die : Option (Nat × BitVec 64)) : List MWrite :=
  (List.range n).map fun i => { at_ := now, pa := pa + i, old := m.read (pa + i), own := own, die := die }

/-- Before a write to a line through a page of key slot `k`: what the line held stands as that key gives it, and the line is sealed under
that key (R241). -/
def State.reseal (s : State) (k pa : Nat) : State :=
  let line := lineOf pa
  let s1 := match s.foreignKey k pa with
    | some _ => { s with
        mem := s.mem.writeN line ((List.range 128).map fun i => s.memByte k (line + i))
        mlog := replaced s.mem s.cycle line 128 none none ++ s.mlog }
    | none => s
  if s.keyPair k = [] && !(s.sealed.any fun e => e.1 == line) then s1 else { s1 with sealed := tabSet s1.sealed line (s.keyPair k) }

/-- A write to a line drops its requester-side copies, which the home slice's directory names (R235). -/
def State.dropCopies (s : State) (line : Nat) (by_ : Option Loc) : State :=
  let upd := fun (l : SliceLine) => if l.line == line then { l with sharers := [], owner := l.owner.filter fun o => some o == by_ } else l
  { s with slices := s.slices.map fun (q : Nat × Slice) =>
      (q.1, { q.2 with lines := (q.2.lines.filter fun l => !(l.copy && l.line == line)).map upd }) }

/-- Bytes enter shared memory M under the key pair their line is sealed with, at the end of each byte's coherence order (R254); `own` is the
store they were, `die` the buffer they waited in. -/
def State.enterM (s : State) (by_ : Option Loc) (pa : Nat) (data : List Byte) (own : Option (Owner × Nat)) (die : Option (Nat × BitVec 64)) : State :=
  let s0 := s.findBad (lineOf pa)
  let s1 := { s0 with mem := s0.mem.writeN pa data, mlog := replaced s0.mem s0.cycle pa data.length own die ++ s0.mlog,
                      poison := healPoison s0.poison pa data.length }
  (((s1.snoop (lineOf pa) by_).dropCopies (lineOf pa) by_).trigger (lineOf pa) fun _ => true)

/-- Bytes enter shared memory M through a page of key slot `k`. -/
def State.placeM (s : State) (by_ : Option Loc) (k pa : Nat) (data : List Byte) (own : Option (Owner × Nat) := none)
    (die : Option (Nat × BitVec 64) := none) : State := (s.reseal k pa).enterM by_ pa data own die

/-- Scopes in their order (R11). -/
def Scope.rank : Scope → Nat
  | .core => 0 | .plot => 1 | .die => 2 | .dev => 3 | .tenant => 4 | .sys => 5

/-- Two byte ranges overlap. -/
def overlaps (a n b m : Nat) : Bool := decide (a < b + m) && decide (b < a + n) && decide (0 < n) && decide (0 < m)

/-- No two of a list of ranges overlap. -/
def disjoint : List (Nat × Nat) → Bool
  | [] => true
  | r :: rs => rs.all (fun q => !overlaps r.1 r.2 q.1 q.2) && disjoint rs

/-- The stash region of a core that maps a virtual address. -/
def Core.stashOf (c : Core) (va : Nat) : Option (Fin 4 × Stash) :=
  (List.finRange 4).findSome? fun i => match c.stashes[i] with
    | some r => if r.gbase ≤ va && va < r.gbase + 4096 * r.pages then some (i, r) else none
    | none => none

/-- The stash entry of a core for a virtual address. -/
def Core.stashEntry (c : Core) (va : Nat) : Option StashEntry :=
  (c.stashOf va).bind fun r => r.2.entries.find? fun e => e.idx = (va - r.2.gbase) / 128

/-- A store takes its place outside the store buffer (R254). -/
def State.placeStore (s : State) (l : Loc) (t : PStore) : State :=
  if isHost t.pa then
    State.trigger { s with ob := s.ob ++ [{ owner := (s.coreAt l).owner, pos := t.pos, pa := t.pa, data := t.data, at_ := s.cycle, key := t.key }] } (lineOf t.pa) fun c => c.loc = l
  else if Scope.rank t.scope < 3 then
    ((s.modDie l.die fun d => { d with db := d.db ++ [{ owner := (s.coreAt l).owner, pos := t.pos, pa := t.pa, data := t.data, at_ := s.cycle, key := t.key }] }).snoop
      (lineOf t.pa) (some l)).trigger (lineOf t.pa) fun c => c.loc.die = l.die
  else s.placeM (some l) t.key t.pa t.data (some ((s.coreAt l).owner, t.pos))

/-- A store or atomic takes its place. One whose stash entry served it at its issue, and has been recalled since, makes its line dirty at the
home slice (R224, R225). -/
def State.place (s : State) (l : Loc) (t : PStore) : State :=
  let c := s.coreAt l
  let lost := t.req.isNone && !isHost t.pa && (c.stashOf t.va).isSome && !(c.stashEntry t.va).any StashEntry.owned
  (if lost then s.lineBack (homeSlice ((s.tlbFind c t.va).elim 0 TlbEntry.pte) t.pa) (lineOf t.pa) else s).placeStore l t

/-- The core an owner's thread stands on. -/
def State.ownerLoc (s : State) (o : Owner) : Option Loc :=
  match o with
  | .core l => some l
  | .thread p => (s.allCores.find? fun c => c.place = some p).map Core.loc

/-! ## Conditions of the moves -/

def OpKind.isLoad : OpKind → Bool
  | .load _ | .atomic _ _ | .monarm => true
  | .fence _ => false

def OpKind.isAtomic : OpKind → Bool
  | .atomic _ _ => true
  | _ => false

/-- Every load and atomic issued before `p` is satisfied. -/
def Core.loadsDone (c : Core) (p : Nat) : Bool := c.pq.all fun o => !(o.kind.isLoad && o.pos < p)

/-- Every store and atomic issued before `p` is performed at a scope (R252). -/
def State.storesDone (s : State) (c : Core) (p : Nat) (sc : Scope) : Bool :=
  (c.pq.all fun o => !(o.kind.isAtomic && o.pos < p)) &&
  (if Scope.rank sc = 0 then true else c.sb.all fun t => !(t.log.isNone && t.pos < p)) &&
  (if Scope.rank sc < 3 then true else s.dies.toList.all fun d => d.db.all fun b => !(b.owner == c.owner && b.pos < p)) &&
  (if Scope.rank sc < 5 then true else s.ob.all fun b => !(b.owner == c.owner && b.pos < p))

/-- Every store the thread has issued is performed at a scope: a release's condition (R250, R257). -/
def State.released (s : State) (c : Core) (sc : Scope) : Bool := c.loadsDone c.pos && s.storesDone c c.pos sc

/-- The engine writes and counter updates a thread's commands still owe (R211, R213, R217). -/
def Core.cmdsDone (c : Core) : Bool := c.cmds.isEmpty

/-- What a fence before `p` still holds a load for (R253, R258). -/
def State.fenceHoldsLoad (s : State) (c : Core) (p : Nat) : Bool :=
  c.pq.any fun f => match f.kind with
    | .fence k => f.pos < p && ((k.getLsbD 0 && !c.loadsDone f.pos) || (k.getLsbD 2 && !s.storesDone c f.pos f.scope))
    | _ => false

/-- What a fence before `p` still holds a store for (R254, R258). -/
def State.fenceHoldsStore (s : State) (c : Core) (p : Nat) : Bool :=
  c.pq.any fun f => match f.kind with
    | .fence k => f.pos < p && ((k.getLsbD 1 && !c.loadsDone f.pos) || (k.getLsbD 3 && !s.storesDone c f.pos f.scope))
    | _ => false

/-- An acquire is not yet satisfied: it blocks every operation issued after it (R257). -/
def Core.acquiring (c : Core) : Bool := c.pq.any fun q => q.acq

/-- A host-aperture access waits for the core's earlier ones: they reach the host link in program order (R221). -/
def Core.hostTurn (c : Core) (p pa : Nat) : Bool :=
  !isHost pa || ((c.pq.all fun q => !(q.kind.isLoad && q.pos < p && isHost q.pa)) &&
    c.sb.all fun t => !(t.log.isNone && t.pos < p && isHost t.pa))

/-- R253: the order of a thread's operations lets a load or monitor arm be satisfied. -/
def State.loadTurn (s : State) (c : Core) (o : Op) : Bool :=
  c.hostTurn o.pos o.pa &&
  (c.pq.all fun q => !(q.acq && q.pos < o.pos)) &&
  (c.pq.all fun q => !(q.kind.isLoad && q.pos < o.pos && overlaps q.pa q.n o.pa o.n)) &&
  !s.fenceHoldsLoad c o.pos

/-- A load or monitor arm may be satisfied (R224, R236, R253, R349). -/
def State.loadReady (s : State) (c : Core) (o : Op) : Bool := (o.req.all fun id => !s.reqHeld id) && s.loadTurn c o

/-- R254: a store, or the store half of an atomic, may take its place. -/
def State.storeReady (s : State) (c : Core) (pos pa n : Nat) (scope : Scope) (rel : Bool) : Bool :=
  c.loadsDone pos &&
  (c.sb.all fun t => !(t.pos < pos && t.log.isNone && overlaps t.pa t.data.length pa n)) &&
  !s.fenceHoldsStore c pos &&
  (!rel || s.storesDone c pos scope) &&
  c.hostTurn pos pa &&
  (isHost pa || Scope.rank scope < 3 || (s.dieAt c.loc.die).db.all fun b => !overlaps b.pa b.data.length pa n)

/-- The translation of an operation or store that was held has been made again and refused (R246): it is not performed. -/
def Core.isBarred (c : Core) (pos : Nat) : Bool := c.barred.contains pos

/-- An access of a thread translates again (R246, R268): its address and key under the entry as it now stands, the one a LOCK = 1 leaf gives for
reads included; none where that entry refuses it. -/
def State.againAt (s : State) (c : Core) (va pa key : Nat) (acc : Access) : Option (Nat × Nat) :=
  match s.translateCore c va acc with
  | .hit pa' pte => some (pa', pteKey pte)
  | .refuse _ _ => none
  | .miss | .wait => match s.translateCore c va Access.read with
    | .hit pa' pte => some (pa', pteKey pte)
    | _ => some (pa, key)

/-- How an operation of a program queue translates; a fence does not. -/
def OpKind.access : OpKind → Option Access
  | .load _ | .monarm => some Access.read
  | .atomic _ _ => some Access.amo
  | .fence _ => none

/-- The operations and stores of a thread that a test picks, by position, address and whether they write, translate again: one that is refused
is barred until its next translation (R246, R268, R408). DESIGN CHOICE (log 46). -/
def State.retranslate (s : State) (c : Core) (p : Nat → Nat → Nat → Bool → Bool) : Core :=
  let st := fun (t : PStore) => if t.log.isNone && p t.pos t.va t.pa true then some (s.againAt c t.va t.pa t.key Access.store) else none
  let op := fun (o : Op) => o.kind.access.bind fun acc => if p o.pos o.va o.pa acc.write then some (s.againAt c o.va o.pa o.key acc) else none
  let barred := fun (pos : Nat) (r : Option (Option (Nat × Nat))) => match r with
    | some none => some pos
    | some (some _) => none
    | none => if c.isBarred pos then some pos else none
  { c with
    sb := c.sb.map fun (t : PStore) => match st t with
      | some (some a) => { t with pa := a.1, key := a.2 }
      | _ => t
    pq := c.pq.map fun (o : Op) => match op o with
      | some (some a) => { o with pa := if o.kind = .monarm then lineOf a.1 else a.1, key := a.2 }
      | _ => o
    barred := (c.sb.filterMap fun t => barred t.pos (st t)) ++ c.pq.filterMap fun o => barred o.pos (op o) }

/-- An access as its instruction translated it is held (R246, R268, R408): in a granule under scrub, or a write to a page whose LOCK = 1 leaf
a TLBINV has installed. -/
def State.withheld (s : State) (t va pa : Nat) (write : Bool) : Bool :=
  isDevice pa && (s.scrubbing.contains (granuleOf pa) || (write && s.locks.any fun e => e.covers t va && ptePfn e.pte ≤ pa && pa < ptePfn e.pte + e.size))

/-- R259: an atomic may be performed: both conditions hold, and one on a host aperture waits for delivery (R277). -/
def State.atomicReady (s : State) (c : Core) (o : Op) : Bool :=
  s.loadReady c o && s.storeReady c o.pos o.pa o.n o.scope o.rel &&
  (!isHost o.pa || s.ob.all fun b => !(b.owner == c.owner && b.pos < o.pos))

/-- The request of a store or an atomic keeps it back (R236, R349): a handler may hold its data, or its line is combined and it has not begun
yet. -/
def State.reqBack (s : State) (id : Nat) : Bool :=
  s.reqHeld id || s.reqs.any fun r => r.id = id && r.cmb && match r.st with
    | .transit | .queued _ => true
    | _ => false

/-- A buffered store may leave now (R246, R254, R268): as its instruction translated it, and not held; one that sends no request waits for a
combining window of its line (R236). A LOG entry's write is the merge's. -/
def State.leaving (s : State) (c : Core) (t : PStore) : Option PStore :=
  if (t.log.isSome || (!s.withheld c.tenantNo t.va t.pa true && !c.isBarred t.pos && (t.req.isSome || !s.windowed t.pa))) &&
      (t.req.all fun id => !s.reqBack id) && s.storeReady c t.pos t.pa t.data.length t.scope t.rel then some t else none

/-- An atomic may be performed now. -/
def State.performing (s : State) (c : Core) (o : Op) : Option Op :=
  if !s.withheld c.tenantNo o.va o.pa true && !c.isBarred o.pos && (o.req.isSome || !s.windowed o.pa) && (o.req.all fun id => !s.reqBack id) &&
      s.atomicReady c o then some o else none

/-- Drop fences that hold nothing any more (R258). -/
def State.dropFences (s : State) (l : Loc) : State :=
  s.modCore l fun c => { c with pq := c.pq.filter fun f => match f.kind with
    | .fence k =>
      ((k.getLsbD 0 || k.getLsbD 1) && !c.loadsDone f.pos) || ((k.getLsbD 2 || k.getLsbD 3) && !s.storesDone c f.pos f.scope)
    | _ => true }

/-! ## Values -/

/-- A loaded value in a register (R103, R274). -/
def loadValue (sz : LdSize) (bs : List Byte) : W64 :=
  match sz with
  | .n8 | .n16 | .n32 | .n64 => w64 (leNat bs)
  | .i8 => sextTo64 8 (w64 (leNat bs))
  | .i16 => sextTo64 16 (w64 (leNat bs))
  | .i32 => sextTo64 32 (w64 (leNat bs))

def LdSize.bytes : LdSize → Nat
  | .n8 | .i8 => 1
  | .n16 | .i16 => 2
  | .n32 | .i32 => 4
  | .n64 => 8

def StSize.bytes : StSize → Nat
  | .s8 => 1 | .s16 => 2 | .s32 => 4 | .s64 => 8

/-- AMO's operation on `8·nb`-bit values (R275). -/
def amoNew (op : AmoOp) (nb : Nat) (old b : Nat) : Nat :=
  let m := 2 ^ (8 * nb)
  let sgn := fun v : Nat => if v < m / 2 then (v : Int) else (v : Int) - m
  match op with
  | .add => (old + b) % m
  | .min => if sgn old ≤ sgn b then old else b
  | .max => if sgn old ≤ sgn b then b else old
  | .minn => if old ≤ b then old else b
  | .maxn => if old ≤ b then b else old
  | .and => old &&& b
  | .or => old ||| b
  | .xor => old ^^^ b
  | .swap => b

/-- The value an atomic writes, if it writes (R275, R276). -/
def atomNew (f : AtomFn) (nb old : Nat) : Option Nat :=
  match f with
  | .amo op b => some (amoNew op nb old (b.toNat % 2 ^ (8 * nb)))
  | .cas cmp new => if old = cmp.toNat % 2 ^ (8 * nb) then some (new.toNat % 2 ^ (8 * nb)) else none

/-! ## The moves -/

/-- Latch UNCORRECTED on a core (R362, R369); the first stays. -/
def Core.latchUncorrected (c : Core) (source : Nat) (addr info3 : W64) : Core :=
  match c.uncorrected with
  | some _ => c
  | none => { c with uncorrected := some (source, addr, info3) }

/-- Where a satisfied load's bytes go. -/
def Core.deliver (c : Core) (dst : LoadDst) (bs : List Byte) : Core :=
  match dst with
  | .x d sz => c.setX d (loadValue sz bs)
  | .v d => c.setV d (toV512 bs)
  | .port _ => { c with prog := some (.portData (toV512 bs)) }

def Core.dropOp (c : Core) (pos : Nat) : Core := { c with pq := c.pq.filter fun q => q.pos ≠ pos }

/-- Satisfy a load or a monitor arm, or perform an atomic, of thread `l` (R253, R259, R266). -/
def State.perform (s : State) (l : Loc) (o : Op) : State :=
  let s := s.checkLine o.pa
  let c := s.coreAt l
  match o.kind with
  | .fence _ => s
  | .monarm => s.setCore { c.dropOp o.pos with mon := some (lineOf o.pa, o.va), trig := false }
  | .load dst =>
    let c1 := (c.dropOp o.pos).deliver dst (s.viewN c o.pos o.key o.pa o.n)
    s.setCore (if s.isPoisoned o.pa then c1.latchUncorrected 3 (w64 o.va) 0 else c1)
  | .atomic f d =>
    let old := leNat (s.viewN c o.pos o.key o.pa o.n)
    let c1 := (c.dropOp o.pos).setX d (w64 old)
    let s1 := s.setCore (if s.isPoisoned o.pa then c1.latchUncorrected 3 (w64 o.va) 0 else c1)
    match atomNew f o.n old with
    | none => s1
    | some v =>
      s1.place l { pos := o.pos, va := o.va, pa := o.pa, data := natBytes o.n v, scope := o.scope, rel := o.rel, key := o.key, req := o.req, log := none }

/-- The move an operation of a program queue is waiting for, when it may be taken: the operation as it is performed. -/
def State.opReady (s : State) (c : Core) (o : Op) : Option Op :=
  match o.kind with
  | .fence _ => none
  | .atomic _ _ => s.performing c o
  | _ => if !s.withheld c.tenantNo o.va o.pa false && !c.isBarred o.pos && s.loadReady c o then some o else none

/-- A log entry uses up a credit of a slice's log. -/
def State.spendCredit (s : State) (t sl : Nat) : State :=
  s.modSlice sl fun q => { q with granted := tabSet q.granted t (tabGet 0 q.granted t - 1) }

/-- A store or LOG entry leaves the store buffer of `l` (R254, R265); an entry's credit was one of slice `from_`. -/
def State.leave (s : State) (l : Loc) (from_ : Nat) (t : PStore) : State :=
  let s1 := s.modCore l fun c => { c with sb := c.sb.filter fun q => q.pos ≠ t.pos }
  match t.log with
  | none => s1.place l t
  | some e => (s1.spendCredit e.tenant from_).modSlice e.slice fun sl => { sl with log := sl.log ++ [e] }

/-! ## Issue -/

/-- The slice whose log an entry was issued for. -/
def PStore.slice (t : PStore) : Nat := t.log.elim 0 LogEntry.slice

/-- The next choice of the plan: whether this operation waits in its queue (R251: any order the conditions allow). -/
def State.deferred (s : State) : Bool := s.plan.headD false
def State.popPlan (s : State) : State := { s with plan := s.plan.tail }

/-- Issue a load, an atomic or a monitor arm: append it to the program queue, and take its move at once where the conditions allow
and the plan does not put it off. -/
def State.issueOp (s : State) (mk : Nat → Op) : State :=
  let l := s.core.loc
  let o := mk s.core.pos
  let s1 := (s.dropFences l).onCore fun c => { c with pq := c.pq ++ [o], pos := c.pos + 1 }
  match (if s.deferred then none else s1.opReady s1.core o) with
  | some o' => s1.popPlan.perform l o'
  | none => s1.popPlan

/-- Issue a store: append it to the store buffer, and let it leave at once where the conditions allow and the plan does not put it
off. -/
def State.issueStore (s : State) (mk : Nat → PStore) : State :=
  let l := s.core.loc
  let t := mk s.core.pos
  let s1 := (s.dropFences l).onCore fun c => { c with sb := c.sb ++ [t], pos := c.pos + 1 }
  match (if s.deferred then none else s1.leaving s1.core t) with
  | some t' => s1.popPlan.leave l t.slice t'
  | none => s1.popPlan

/-- Issue a fence (R258). -/
def State.issueFence (s : State) (k : BitVec 4) (sc : Scope) : State :=
  let l := s.core.loc
  let o : Op := { pos := s.core.pos, kind := .fence k, va := 0, pa := 0, n := 0, acq := false, rel := false, scope := sc, key := 0, req := none }
  (s.onCore fun c => { c with pq := c.pq ++ [o], pos := c.pos + 1 }).dropFences l

/-! ## The slice request of an access (R232, R237, R224, R239) -/

/-- Requests of a core's thread that are outstanding. -/
def State.outstanding (s : State) (l : Loc) : Nat := (s.reqs.filter fun r => r.owner = l && r.agent == .core).length

/-- The port of a slice that takes a requester's requests (R232, R388): 0 to 3 for the threads of its die, else 4. -/
def reqPort (agent : ReqAgent) (l : Loc) (slice : Nat) : Nat :=
  if agent == .core && l.kind = .compute && slice / 16 = l.die then (l.x + l.y) % 4 else 4

/-- A request holds an entry of its queue: from its issue (ports 0 to 3) or its arrival (port 4), until two cycles after it began (R232,
R292). A read that has joined a combining window never begins: it holds its entry until the combined reply. DESIGN CHOICE (log 89). -/
def Req.holds (r : Req) (now : BitVec 64) : Bool :=
  match r.st with
  | .transit => reqPort r.agent r.owner r.slice != 4
  | .queued _ | .joined => true
  | _ => decide ((now - r.at_).toNat < 2)

/-- The entries in use of a queue of a slice, of its 16. -/
def State.queueUse (s : State) (slice port : Nat) : Nat :=
  (s.reqs.filter fun r => r.slice = slice && reqPort r.agent r.owner r.slice == port && r.holds s.cycle).length

/-- Since when a running thread's access has stalled on a queue (R292). -/
def Core.stalledOn (c : Core) (slice port : Nat) : Option (BitVec 64) :=
  if c.held && c.run == .running then (c.portSince.bind fun p => if p.1 = slice && p.2.1 = port then some p.2.2 else none) else none

/-- The other threads that are granted an entry of a queue before this one (R292): those that have stalled longer, then by y, then by x. -/
def State.stalledAhead (s : State) (c : Core) (slice port : Nat) : Nat :=
  (s.allCores.filter fun k => k.loc ≠ c.loc && (k.stalledOn slice port).any fun t => match c.stalledOn slice port with
    | some u => t.ult u || (t == u && (k.loc.y < c.loc.y || (k.loc.y == c.loc.y && k.loc.x < c.loc.x)))
    | none => true).length

/-- The queue at ports 0 to 3 has no entry for a thread's access; an entry of port 4 is reserved on arrival (R232, R292). -/
def State.noEntry (s : State) (c : Core) (slice port : Nat) : Bool :=
  port != 4 && decide (16 ≤ s.queueUse slice port + s.stalledAhead c slice port)

/-- A global access stalls at issue while the core has 32 requests outstanding or its queue has no entry for it (R232). -/
def State.portBusy (s : State) (c : Core) (pa : Nat) (pte : W64) : Bool :=
  !isHost pa && (32 ≤ s.outstanding c.loc || s.noEntry c (homeSlice pte pa) (reqPort .core c.loc (homeSlice pte pa)))

/-- A stall for want of a queue entry counts from its first cycle (R292); one for the core's own 32 requests is none. -/
def State.stallPort (s : State) (pa : Nat) (pte : W64) : State :=
  let sl := homeSlice pte pa
  let p := reqPort .core s.core.loc sl
  if s.noEntry s.core sl p then s.onCore fun c => { c with portSince := some (sl, p, (c.stalledOn sl p).getD s.cycle) }
  else s.onCore fun c => { c with portSince := none }

/-- Send a line's request for a core from a die to its home slice. DEDUCED (log 89). -/
def State.requestFrom (s : State) (die : Nat) (agent : ReqAgent) (l : Loc) (t va pa : Nat) (pte : W64) (kind : ReqKind) (hint : Nat)
    (quiet : Bool) : State :=
  if isHost pa then s
  else { s with
    reqNo := s.reqNo + 1
    reqs := s.reqs ++ [{ id := s.reqNo, agent := agent, owner := l, die := die, va := va, slice := homeSlice pte pa, line := lineOf pa, tenant := t,
                         kind := kind, hint := hint, cmb := pteCmb pte, st := .transit, at_ := s.cycle, waits := none, late := false,
                         quiet := quiet, cnt := 0 }] }

/-- A core's request, or that of an agent that stands at a core. -/
def State.request (s : State) (agent : ReqAgent) (l : Loc) (t va pa : Nat) (pte : W64) (kind : ReqKind) (hint : Nat) (quiet : Bool) : State :=
  s.requestFrom l.die agent l t va pa pte kind hint quiet

/-- The request that an access has sent, if it sent one. -/
def State.sent (before after : State) : Option Nat := if after.reqNo = before.reqNo then none else some before.reqNo
/-- The requests that an engine's access has sent. -/
def State.sentAll (before after : State) : List Nat := (List.range (after.reqNo - before.reqNo)).map (before.reqNo + ·)

/-- A thread's request. -/
def State.sendReq (s : State) (c : Core) (va pa : Nat) (pte : W64) (kind : ReqKind) (hint : Nat) : State :=
  s.request .core c.loc c.tenantNo va pa pte kind hint false

/-- A walker reads the tables through their home slices (R244), which corrects what it reads (R368). -/
def State.walkRequests (s : State) (l : Loc) (t va : Nat) : State :=
  (s.tablesOf l.die t va).foldl (fun (s : State) (pa : Nat) => (s.request .walker l t 0 pa 0 .read 0 true).checkLine pa) s

/-- An agent of a die accesses `n` bytes of a tenant: it walks for each page that no TLB at hand translates, and the walk fills the die's
last-level TLB (R244); `own` are the entries of its own TLB. -/
def State.agentWalk (s : State) (l : Loc) (own : List TlbEntry) (t va n : Nat) : State :=
  (List.range ((va + n - 1) / 4096 + 1 - va / 4096)).foldl (fun (s : State) (i : Nat) =>
    let a := if i = 0 then va else (va / 4096 + i) * 4096
    if ((own ++ (s.dieAt l.die).tlb).any fun e => e.covers t a) || s.walkersBusy l.die || s.walkHeld l.die t a then s
    else match s.walkTable l.die t a with
      | .ok e => (s.walkRequests l t a).modDie l.die fun d => { d with tlb := tlbInsert e d.tlb }
      | .error _ => s.walkRequests l t a) s

/-- An access is served by the core's stash, or an atomic by its atomic line buffer, and makes no request (R224, R239). -/
def Core.served (c : Core) (va pa : Nat) (acc : Access) : Bool :=
  match c.stashEntry va with
  | some e => !acc.write || e.owned
  | none => acc.atomic && c.linebuf.contains (lineOf pa)

/-- A stash entry of a line with its home slice is filled or used (R224): shared by a load, owned and dirty by a store or an atomic, owned by a prefetch for
ownership. -/
def Core.touchStash (c : Core) (va pa home : Nat) (write own : Bool) : Core :=
  match c.stashOf va with
  | none => c
  | some (i, r) =>
    let idx := (va - r.gbase) / 128
    let e := ((r.entries.find? fun e => e.idx = idx).getD { idx := idx, line := lineOf pa, home := home, dirty := false, owned := false })
    { c with stashes := c.stashes.set i (some { r with
        entries := { e with dirty := e.dirty || write, owned := e.owned || own } :: r.entries.filter fun f => f.idx ≠ idx }) }

/-- A line of the atomic line buffer is used: 8 lines, the least recently used goes (R239). -/
def Core.useLine (c : Core) (line : Nat) : Core := { c with linebuf := (line :: c.linebuf.filter fun a => a ≠ line).take 8 }

/-- An access of the looked-at thread to its stash and its home slice (R224, R232, R234, R239): a hit is served locally. A miss sends a
request, and a load or a store in a stash range fills its entry, but not with HINT 1; an atomic's entry is filled once the home slice
grants the line. -/
def State.access (s : State) (va : W64) (pa : Nat) (pte : W64) (kind : ReqKind) (hint : Nat) : State :=
  let acc : Access := { write := kind != .read, fetch := false, atomic := kind == .atomic }
  let c := s.core
  if c.served va.toNat pa acc then
    s.onCore fun c => if (c.stashEntry va.toNat).isSome then c.touchStash va.toNat pa (homeSlice pte pa) acc.write acc.write else c.useLine (lineOf pa)
  else
    let s1 := s.sendReq c va.toNat pa pte kind hint
    if kind == .atomic || isHost pa || (hint = 1 && (c.stashEntry va.toNat).isNone) then s1
    else s1.onCore fun c => c.touchStash va.toNat pa (homeSlice pte pa) acc.write acc.write

/-- A local address lies in a stash region (R224). -/
def Core.inStash (c : Core) (a n : Nat) : Bool :=
  c.stashes.toList.any fun o => match o with
    | some r => overlaps a n r.lbase (4096 * r.pages)
    | none => false

end Sys2Proof.Machine
end

