-- ==== Sys2Proof/Machine/Fetch.lean ====
section
/-! DEFINITION. Sys2Proof/Machine/Fetch.lean: code lines (R19, R52, R53), fetching an instruction (R21), checking a branch target
(R22), and where a repetition block stands (R200, R203). -/

namespace Sys2Proof.Machine

/-! ## Errors of local memory (R368, R369) -/

/-- Local bytes as the core's own instruction reads them: a bad block reads 0xFF and latches UNCORRECTED (R369). -/
def Core.readLmem (c : Core) (a n : Nat) : List Byte :=
  if c.badLocal.isEmpty then c.lmem.readN a n
  else (List.range n).map fun i => if c.badLocal.contains ((a + i) / 64) then 0xFF else c.lmem.read (a + i)

/-- The bad block an access meets, latched. -/
def Core.noteBad (c : Core) (a n : Nat) : Core :=
  if (List.range n).any fun i => c.badLocal.contains ((a + i) / 64) then c.latchUncorrected 1 (w64 a) 0 else c

/-- The words with a single-bit error that an access reads. -/
def Core.softIn (c : Core) (a n : Nat) : List Nat := c.soft.filter fun w => overlaps a n (8 * w) 8

/-- CECNT counts, and saturates (R379). -/
def Core.countFixed (c : Core) (n : Nat) : Core :=
  { c with sys := { c.sys with cecnt := BitVec.ofNat 32 (Nat.min (c.sys.cecnt.toNat + n) (2 ^ 32 - 1)) } }

/-- What a read of local memory finds (R368, R369): single-bit errors are corrected, written back and counted; a bad block is latched. -/
def State.noteBadAt (s : State) (l : Loc) (a n : Nat) : State :=
  let c := s.coreAt l
  let fixed := c.softIn a n
  let c1 := c.noteBad a n
  if fixed.isEmpty then s.setCore c1
  else (s.setCore ({ c1 with soft := c1.soft.filter fun w => !fixed.contains w }.countFixed fixed.length)).countFixed (.core l) c.tenantNo fixed.length

/-- The same of the looked-at thread's own read. -/
def State.noteBad (s : State) (a n : Nat) : State := s.noteBadAt s.core.loc a n

/-! ## Code lines -/

/-- The half-words of a byte string. -/
def halvesOf : List Byte → List Half
  | a :: b :: r => (b ++ a : BitVec 16) :: halvesOf r
  | _ => []

/-- The 64-byte line of an address. -/
def lineBase (pc : W64) : W64 := pc &&& ~~~63

/-- `n` bytes as a fetch of thread `c` returns them (R267): of the values of each byte's coherence order since its bound, the newest, or
an older one where `stale` says so. -/
def State.fetchN (s : State) (c : Core) (k pa n : Nat) : List Byte :=
  match s.stale with
  | [] => s.viewN c c.pos k pa n
  | older :: _ =>
    if s.isPoisoned pa then List.replicate n 0
    else (List.range n).map fun i =>
      let vs := s.versions c k (pa + i)
      vs.getD (Nat.min (older.getD i 0) (vs.length - 1)) 0

/-- The bytes of a code line: handler memory on a slice core (R346), elsewhere through the thread's translation (R19). -/
def State.codeLine (s : State) (c : Core) (base : W64) : Line :=
  if c.loc.kind = .slice then .halves (halvesOf (c.readLmem base.toNat 64))
  else match s.translate c base.toNat Access.code with
    | .hit pa pte => .halves (halvesOf (s.fetchN c (pteKey pte) pa 64))
    | .miss => .miss
    | .wait => .wait
    | .refuse code level => .refuse code level

/-- N of a line word (R21). -/
def lineN (hs : List Half) : Nat := (hs.headD 0).toNat % 32

/-- E_k: where the tail of head k begins (R53): 32 less the tail lengths of heads 1 to k. -/
def tailStart (hs : List Half) (k : Nat) : Nat := 32 - (((hs.drop 1).take k).map headTL).sum

/-- The line word is valid (R21, R66). -/
def lineValid (hs : List Half) : Bool :=
  (hs.headD 0).toNat / 32 == 0 && decide (lineN hs + 1 + (((hs.drop 1).take (lineN hs)).map headTL).sum ≤ 32)

/-- The line lies in the code region (R19, R21). -/
def Core.inCode (c : Core) (base : W64) : Bool := c.codeBase.toNat ≤ base.toNat && base.toNat < c.codeLimit.toNat

/-- The head index of an address in its line (R19). -/
def headIdx (pc : W64) : Nat := pc.toNat % 64 / 2

def lineTrap (code : Nat) (info : W64) : TrapInfo := { code := code, i0 := 0, i1 := 0, i2 := info, i3 := 0 }

/-- The checks of R21 and R22 on a line and a position, in their order; `l` and `p` are what XINFO2 names for a line and for a
position that is no head. -/
def headCheck (pc : W64) (hs : List Half) (l p : W64) : Option TrapInfo :=
  if !lineValid hs then some (lineTrap 0x02 l)
  else if lineN hs = 0 then some (lineTrap 0x03 l)
  else if pc.getLsbD 0 || headIdx pc < 1 || lineN hs < headIdx pc then some (lineTrap 0x05 p)
  else none

/-- NextSeq (R111). -/
def nextSeq (hs : List Half) (pc : W64) : W64 := if headIdx pc < lineN hs then pc + 2 else lineBase pc + 66

/-- A target in the line that the instruction stands in: a transfer to it makes no fetch (R291). -/
def Core.sameLine (c : Core) (target : W64) : Bool := !c.ir.words.isEmpty && lineBase target == c.ir.line

/-- The line a thread's fetch reads is poisoned (R369). -/
def State.codePoisoned (s : State) (c : Core) (base : W64) : Bool :=
  c.loc.kind != .slice && match s.translate c base.toNat Access.code with
    | .hit pa _ => s.isPoisoned pa
    | _ => false

/-- What a thread's fetch does to the line it reads: an error is corrected and counted, or found (R368, R369), and an entry that another core
owns is recalled (R224). -/
def State.readCode (s : State) (c : Core) (base : W64) : State :=
  if c.loc.kind = .slice then s.noteBadAt c.loc base.toNat 64
  else match s.translate c base.toNat Access.code with
    | .hit pa _ => (s.checkLine pa).shareLine (lineOf pa) (some c.loc)
    | _ => s

/-- Check a branch target before the transfer takes effect (R22); `k` goes on when every check passes. A target in a poisoned line latches
UNCORRECTED, which the thread takes before the transfer that could not read it (R362, R369). DEDUCED (log 36). -/
def checkTarget (s : State) (target : W64) (k : State → Res) : Res :=
  let c := s.core
  let base := lineBase target
  if !c.inCode base then .trap (lineTrap 0x04 target)
  else if !c.sameLine target && s.codePoisoned c base then .hold (s.onCore fun c => c.latchUncorrected 3 base 0)
  else match (if c.sameLine target then .halves c.ir.words else s.codeLine c base) with
    | .refuse code level => .stall code level Access.code base.toNat
    | .miss => .walk Access.code base.toNat
    | .wait => .hold s
    | .halves hs => match headCheck target hs target target with
      | some t => .trap t
      | none => k (if c.sameLine target then s else s.readCode c base)

/-- The thread has come to its PC by a transfer within the line it stands in, so that nothing is fetched (R291). -/
def Core.stands (c : Core) : Bool := c.kept == some c.pc && c.sameLine c.pc

/-- The code line at the PC is poisoned (R369): its fetch is a read that latches UNCORRECTED. DEDUCED (log 36). -/
def State.fetchPoisoned (s : State) (c : Core) : Bool :=
  c.inCode (lineBase c.pc) && !c.stands && s.codePoisoned c (lineBase c.pc)

/-- Fetch the head and tail at the thread's PC (R21). -/
def State.fetch (s : State) (c : Core) : Fetched :=
  let base := lineBase c.pc
  if !c.inCode base then .trap (lineTrap 0x04 base)
  else match (if c.stands then .halves c.ir.words else s.codeLine c base) with
    | .refuse code level => .stall code level base.toNat
    | .miss => .walk base.toNat
    | .wait => .wait
    | .halves hs => match headCheck c.pc hs base c.pc with
      | some t => .trap t
      | none =>
        let k := headIdx c.pc
        let h := hs.getD k 0
        .instr { head := h, tail := (hs.drop (tailStart hs k)).take (headTL h), line := base, words := hs, captured := c.inBlock }
          (nextSeq hs c.pc)

/-- The address `n` heads after one, walking lines as R21 does, or why a line on the way cannot be read. -/
def State.findHead (s : State) (c : Core) : Nat → W64 → Except Fetched W64
  | 0, pc => .ok pc
  | n + 1, pc => if s.codePoisoned c (lineBase pc) then .error (.poisoned (lineBase pc)) else match s.codeLine c (lineBase pc) with
    | .halves hs => State.findHead s c n (nextSeq hs pc)
    | .miss => .error (.walk (lineBase pc).toNat)
    | .wait => .error .wait
    | .refuse code level => .error (.stall code level (lineBase pc).toNat)

/-- The code lines that a walk over `n` heads reads before the line it ends in. -/
def State.walkedLines (s : State) (c : Core) : Nat → W64 → List W64
  | 0, _ => []
  | n + 1, pc => match s.codeLine c (lineBase pc) with
    | .halves hs => lineBase pc :: State.walkedLines s c n (nextSeq hs pc)
    | _ => []

/-- What the reads of a list of code lines do, each line read once. -/
def State.readLines (s : State) (c : Core) (bases : List W64) : State :=
  bases.eraseDups.foldl (fun (s : State) (base : W64) => s.readCode c base) s

/-- The captured instruction at POS of the block in progress, where the thread still holds what its REP captured (R200); not after a
resumption, nor once software has named another block. -/
def Core.capture? (c : Core) : Option Capture :=
  if c.inBlock && c.captures.length == c.repN && (c.captures.head?.map Capture.pc) == some c.sys.reppc then c.captures[c.repPos]? else none

/-- Where a thread fetches: in a repetition block, at the captured instruction POS (R203). -/
def State.blockPc (s : State) (c : Core) : Except Fetched W64 :=
  match c.capture? with
  | some k => .ok k.pc
  | none => if c.inBlock then s.findHead c c.repPos c.sys.reppc else .ok c.pc

/-- What finding the place of a thread's fetch reads: the lines of a resumed block before the one that holds the instruction (R203). -/
def State.blockFound (s : State) (c : Core) : State :=
  if c.capture?.isNone && c.inBlock then s.readLines c (s.walkedLines c c.repPos c.sys.reppc) else s

/-- A thread with its PC at the instruction it executes next (R203). -/
def State.synced (s : State) (c : Core) : Core :=
  match s.blockPc c with
  | .ok pc => { c with pc := pc }
  | .error _ => c

/-- REPSTATE holds a block that can run (R203): 1 to 16 instructions, a position among them, runs left. -/
def Core.repOk (c : Core) : Bool := 1 ≤ c.repN && c.repN ≤ 16 && c.repPos < c.repN && c.repRem != 0

/-- A fetch takes the next choice of the older values it may return (R267). -/
def State.noteLine (s : State) : State := { s with stale := s.stale.tail }

end Sys2Proof.Machine
end

