-- ==== Sys2Proof/Machine/Mem.lean ====
section
/-! DEFINITION. Sys2Proof/Machine/Mem.lean: the scalar global accesses and the instructions at 0x80 to 0x8D (R103 to R105, R272 to
R290). -/

namespace Sys2Proof.Machine

/-! ## Shared by the global accesses (R272) -/

/-- Alignment, then translation (R104, R245, R246). -/
def globalPage (s : State) (va : W64) (n : Nat) (acc : Access) (k : Nat → W64 → Res) : Res :=
  if va.toNat % n ≠ 0 then misalign va
  else match s.translate s.core va.toNat acc with
    | .refuse code level => .stall code level acc va.toNat
    | .miss => .walk acc va.toNat
    | .wait => .hold s
    | .hit pa pte => k pa pte

/-- Room for the access's request, or a stall (R232, R292). -/
def portGate (s : State) (pa : Nat) (pte : W64) (r : Res) : Res := if s.portBusy s.core pa pte then .hold (s.stallPort pa pte) else r

/-- Alignment, translation, and the room for a request, in this order; then the access (R104, R232, R245, R246). DEDUCED (log 47). -/
def globalAccess (s : State) (va : W64) (n : Nat) (acc : Access) (k : Nat → W64 → Res) : Res :=
  globalPage s va n acc fun pa pte => if s.core.served va.toNat pa acc then k pa pte else portGate s pa pte (k pa pte)

/-- The tenant's policy on a `.sys` release, atomic release, fence or IFENCE (R269): DEMOTED is set where the instruction completes (R13).
DEDUCED (log 17). -/
def scopePolicy (s : State) (sc : Scope) (k : Scope → Res) : Res :=
  if sc = .sys then
    let p := (s.tenantAt s.core.tenantNo).policy
    if p = 0 then k .sys
    else if p = 1 then (k .tenant).onDone fun s => s.onCore fun c => { c with sys := { c.sys with demoted := true } }
    else trapAt 0x13 0
  else k sc

def Ord.acq : Ord → Bool
  | .acquire | .acqrel => true
  | _ => false
def Ord.rel : Ord → Bool
  | .release | .acqrel => true
  | _ => false

/-- A load into an x register (R103, R274). -/
def loadX (s : State) (d : XReg) (va : W64) (sz : LdSize) (acq : Bool) (sc : Scope) (hint : Nat) : Res :=
  let n := LdSize.bytes sz
  globalAccess s va n Access.read fun pa pte =>
    let s1 := s.access va pa pte .read hint
    .ok (s1.issueOp fun pos =>
      { pos := pos, kind := .load (.x d sz), va := va.toNat, pa := pa, n := n, acq := acq, rel := false, scope := sc, key := pteKey pte,
        req := s.sent s1 })

/-- A store of an x register (R103, R274). -/
def storeX (s : State) (v va : W64) (sz : StSize) (rel : Bool) (sc : Scope) (hint : Nat) : Res :=
  let n := StSize.bytes sz
  globalAccess s va n Access.store fun pa pte =>
    let s1 := s.access va pa pte .partialWrite hint
    .ok (s1.issueStore fun pos =>
      { pos := pos, va := va.toNat, pa := pa, data := natBytes n v.toNat, scope := sc, rel := rel, key := pteKey pte, req := s.sent s1,
        log := none })

/-- LD (R103, R104, R105). -/
def execLd (d a : XReg) (sz : LdSize) (off : BitVec 16) (c : Ctl) (s : State) : Host.Outcome State Fault Refusal :=
  run c s fun s => loadX s d (s.x a + off.signExtend 64) sz false .core (hintOf c)

/-- ST (R103, R104, R105): a relaxed store at `.sys`. -/
def execSt (d a : XReg) (sz : StSize) (off : BitVec 16) (c : Ctl) (s : State) : Host.Outcome State Fault Refusal :=
  run c s fun s => storeX s (s.x d) (s.x a + off.signExtend 64) sz false .sys (hintOf c)

/-- LDA (R274). -/
def execLda (d a : XReg) (sz : LdSize) (sc : Scope) (c : Ctl) (s : State) : Host.Outcome State Fault Refusal :=
  run c s fun s => loadX s d (s.x a) sz true sc (hintOf c)

/-- STRL (R274, R269). -/
def execStrl (d a : XReg) (sz : StSize) (sc : Scope) (c : Ctl) (s : State) : Host.Outcome State Fault Refusal :=
  run c s fun s =>
    if (s.x a).toNat % StSize.bytes sz ≠ 0 then misalign (s.x a)
    else scopePolicy s sc fun sc => storeX s (s.x d) (s.x a) sz true sc (hintOf c)

/-- FENCE (R278, R258, R269): naming no ordering it has no effect. -/
def execFence (sc : Scope) (k : BitVec 4) (c : Ctl) (s : State) : Host.Outcome State Fault Refusal :=
  run c s fun s => if k = 0 then .ok s else scopePolicy s sc fun sc => .ok (s.issueFence k sc)

/-- An atomic (R259, R275 to R277): on a host aperture a PCIe AtomicOp at `.sys`. -/
def atomicX (s : State) (d : XReg) (va : W64) (n : Nat) (f : AtomFn) (o : Ord) (sc : Scope) (hint : Nat) (hostOk : Bool) : Res :=
  globalAccess s va n Access.amo fun pa pte =>
    if isHost pa && !hostOk then usage s
    else
      let sc := if isHost pa then Scope.sys else sc
      let go := fun (sc : Scope) =>
        let s1 := s.access va pa pte .atomic hint
        Res.ok (s1.issueOp fun pos =>
          { pos := pos, kind := .atomic f d, va := va.toNat, pa := pa, n := n, acq := Ord.acq o, rel := Ord.rel o, scope := sc,
            key := pteKey pte, req := s.sent s1 })
      if Ord.rel o then scopePolicy s sc go else go sc

/-- AMO (R275). -/
def execAmo (op : AmoOp) (d b a : XReg) (wide : Bool) (o : Ord) (sc : Scope) (c : Ctl) (s : State) :
    Host.Outcome State Fault Refusal :=
  run c s fun s => atomicX s d (s.x a) (if wide then 8 else 4) (.amo op (s.x b)) o sc (hintOf c) (op == .add || op == .swap)

/-- CAS (R276). -/
def execCas (d e b a : XReg) (wide : Bool) (o : Ord) (sc : Scope) (c : Ctl) (s : State) : Host.Outcome State Fault Refusal :=
  run c s fun s => atomicX s d (s.x a) (if wide then 8 else 4) (.cas (s.x b) (s.x e)) o sc (hintOf c) true

/-! ## Deferred updates (R280, R281) -/

def LogTy.bytes : LogTy → Nat
  | .f32 | .i32 | .n32 => 4
  | .f64 | .i64 | .n64 => 8

/-- The entry LOG appends (R265, R280). -/
def logEntry (s : State) (va pa : Nat) (pte : W64) (op : LogOp) (t : LogTy) (v : W64) : LogEntry :=
  { launch := (match s.core.place with | some p => p.launch | none => 0), tenant := s.core.tenantNo, slice := homeSlice pte pa,
    va := va, pa := pa, op := op, ty := t, operand := zextTo64 (8 * LogTy.bytes t) v, core := s.coreIndex s.core, seq := s.core.logSeq }

/-- LOG (R280, R281): appends with a credit; without one the thread waits for a block, and traps LOGFULL when it is refused. Its request
goes to the home slice also from a stash range. A LOG through a LOCK = 1 leaf is held at its issue: R272 holds any write, and R246 names the
merge's updates and not LOG. DESIGN CHOICE (log 46). LOGFULL names the home die as the tenant numbers it (R406). DEDUCED (log 126). -/
def execLog (op : LogOp) (b a : XReg) (t : LogTy) (c : Ctl) (s : State) : Host.Outcome State Fault Refusal :=
  run c s fun s =>
    globalPage s (s.x a) (LogTy.bytes t) Access.store fun pa pte =>
      if isHost pa then .stall 0x09 (match s.tlbFind s.core (s.x a).toNat with | some e => e.level | none => 4) Access.store (s.x a).toNat
      else
        let sl := homeSlice pte pa
        let have_ := tabGet 0 s.core.credits sl
        if 0 < have_ then portGate s pa pte <|
          let e := logEntry s (s.x a).toNat pa pte op t (s.x b)
          let s1 := s.onCore fun c => { c with credits := tabSet c.credits sl (have_ - 1), logSeq := c.logSeq + 1 }
          .ok ((s1.sendReq s1.core (s.x a).toNat pa pte .log (hintOf c)).issueStore fun pos =>
            { pos := pos, va := (s.x a).toNat, pa := pa, data := natBytes (LogTy.bytes t) (s.x b).toNat, scope := .dev, rel := false,
              key := pteKey pte, req := none, log := some e })
        else if s.core.prog = some (.creditRefused sl) then
          .trap { code := 0x18, i0 := w64 (s.viewSlice s.core.tenantNo sl), i1 := 0, i2 := s.x a, i3 := 0 }
        else .hold (s.onCore fun c => { c with prog := some (.credit sl) })

/-! ## Monitors (R282, R266) -/

/-- MONARM. -/
def execMonarm (a : XReg) (c : Ctl) (s : State) : Host.Outcome State Fault Refusal :=
  run c s fun s =>
    globalAccess s (s.x a) 1 Access.read fun pa pte =>
      let s1 := s.access (s.x a) pa pte .read (hintOf c)
      .ok (s1.issueOp fun pos =>
        { pos := pos, kind := .monarm, va := (s.x a).toNat, pa := lineOf pa, n := 128, acq := true, rel := false, scope := .core,
          key := pteKey pte, req := s.sent s1 })

/-- MWAIT: an unsatisfied arm is waited for first (R20). -/
def execMwait (d a : XReg) (c : Ctl) (s : State) : Host.Outcome State Fault Refusal :=
  run c s fun s =>
    if s.core.acquiring then .hold s
    else if s.core.trig || s.core.mon.isNone then .ok (s.setX d 1)
    else match s.core.prog with
      | some (.mwait start out) =>
        if s.x a ≠ 0 && (out || (s.cycle - start).toNat ≥ (s.x a).toNat) then .ok (s.setX d 0) else .hold s
      | _ => .hold (s.onCore fun c => { c with prog := some (.mwait s.cycle false) })

/-- MDISARM. -/
def execMdisarm (c : Ctl) (s : State) : Host.Outcome State Fault Refusal :=
  run c s fun s => if s.core.acquiring then .hold s else .ok (s.onCore fun c => { c with mon := none, trig := false })

/-! ## Prefetch (R283, R234) -/

/-- PREF: never traps; dropped where its translation would not grant it. It stalls as any global access does, and an ownership fill is held
by a locked leaf (R232, R246). In a mapped stash range it fills the entry, with ownership for `.own`; not with HINT 1 (R234). -/
def execPref (own : Bool) (a : XReg) (i : BitVec 16) (c : Ctl) (s : State) : Host.Outcome State Fault Refusal :=
  run c s fun s =>
    let va := (s.x a + i.signExtend 64).toNat
    let hint := hintOf c
    let s := s.agentWalk s.core.loc s.core.tlb s.core.tenantNo va 1
    match s.agentTr s.core va (if own then Access.store else Access.read) with
    | .hit pa pte =>
      if isHost pa || s.core.served va pa { write := own, fetch := false, atomic := false } then .ok s
      else portGate s pa pte <|
        let s1 := s.request .core s.core.loc s.core.tenantNo va pa pte (if own then .own else .read) hint true
        .ok (if hint = 1 then s1 else s1.onCore fun c => c.touchStash va pa (homeSlice pte pa) false own)
    | .wait => if own then .hold s else .ok s
    | .miss => .hold s
    | .refuse _ _ => .ok s

/-! ## Stashes (R223 to R225, R284, R285) -/

/-- The local ranges of a core's stash regions, rings and windows. -/
def Core.stashRanges (c : Core) : List (Nat × Nat) := c.stashes.toList.filterMap fun o => o.map fun r => (r.lbase, 4096 * r.pages)
def Core.ringRanges (c : Core) (but : Nat) : List (Nat × Nat) :=
  (List.finRange 8).filterMap fun i => if c.rings[i].kind = .none || i.val = but then none else some (c.rings[i].base, c.rings[i].n * c.rings[i].slot)
def Core.winRanges (c : Core) (but : Nat) : List (Nat × Nat) :=
  (List.finRange 16).filterMap fun i => if !c.wins[i].init || i.val = but then none else some (c.wins[i].base, 2 * c.wins[i].half)

/-- A range meets none of a list. -/
def clearOf (a n : Nat) (rs : List (Nat × Nat)) : Bool := rs.all fun r => !overlaps a n r.1 r.2

/-- STASH.MAP. -/
def execStashMap (r : BitVec 2) (b a : XReg) (c : Ctl) (s : State) : Host.Outcome State Fault Refusal :=
  run c s fun s =>
    let geo := s.x b
    let g := (s.x a).toNat
    let pages := bitsOf geo 36 32
    let l := bitsOf geo 17 0
    let k := s.core
    let total := (k.stashRanges.map Prod.snd).sum
    let gs := k.stashes.toList.filterMap fun o => o.map fun r => (r.gbase, 4096 * r.pages)
    if k.stashes[r.toNat].isSome || bitsOf geo 63 37 ≠ 0 || bitsOf geo 31 18 ≠ 0 || pages = 0 || 16 < pages || l % 4096 ≠ 0 ||
        g % 4096 ≠ 0 || 2 ^ 48 ≤ g || 0x30000 < l + 4096 * pages || 65536 < total + 4096 * pages ||
        !clearOf l (4096 * pages) k.stashRanges || !clearOf l (4096 * pages) (k.ringRanges 8) ||
        !clearOf l (4096 * pages) (k.winRanges 16) || !clearOf g (4096 * pages) gs then usage s
    else .ok (s.onCore fun c => { c with stashes := c.stashes.set r.toNat (some { lbase := l, gbase := g, pages := pages, entries := [] }) })

/-- Write back a region's dirty entries; they stay valid. -/
def Stash.clean (r : Stash) : Stash := { r with entries := r.entries.map fun e => { e with dirty := false } }

/-- A store or atomic of the thread to a region's global range has not been performed yet. -/
def Core.stashBusy (c : Core) (r : Stash) : Bool :=
  let inside := fun (va : Nat) => r.gbase ≤ va && va < r.gbase + 4096 * r.pages
  (c.sb.any fun t => t.log.isNone && inside t.va) || c.pq.any fun o => o.kind.isAtomic && inside o.va

/-- Hold until what the thread has stored to a region is in its entries, write these back, and go on (R225, R284). -/
def writeBack (s : State) (r : Option Stash) (k : State → Res) : Res :=
  if r.any s.core.stashBusy then .hold s else k (s.backAll (r.elim [] Stash.entries))

/-- STASH.CLEAN. -/
def execStashClean (r : BitVec 2) (c : Ctl) (s : State) : Host.Outcome State Fault Refusal :=
  run c s fun s => writeBack s s.core.stashes[r.toNat] fun s => .ok (s.onCore fun c =>
    { c with stashes := c.stashes.set r.toNat (c.stashes[r.toNat].map Stash.clean) })

/-- Unmap a region after its write-back: its local range reads as zero (R225, R285). -/
def Core.dropStash (c : Core) (r : Fin 4) : Core :=
  match c.stashes[r] with
  | none => c
  | some t => { c with stashes := c.stashes.set r none, lmem := c.lmem.clear t.lbase (t.lbase + 4096 * t.pages) }

/-- STASH.DROP. -/
def execStashDrop (r : BitVec 2) (c : Ctl) (s : State) : Host.Outcome State Fault Refusal :=
  run c s fun s => writeBack s s.core.stashes[r.toNat] fun s => .ok (s.onCore fun c => c.dropStash r.toFin)

/-! ## Rings (R228 to R230, R286, R287) -/

def Ring.filled (r : Ring) : Nat := (r.t + 2 * r.n - r.h) % (2 * r.n)
def Ring.free (r : Ring) : Nat := r.n - r.filled
/-- The ring was declared with `.chan` (R230, R391). -/
def Ring.isChan (r : Ring) : Bool :=
  match r.kind with
  | .plotChan _ _ | .launchChan _ => true
  | _ => false
/-- The local address of slot `v mod n`. -/
def Ring.slotAt (r : Ring) (v : Nat) : Nat := r.base + (v % r.n) * r.slot

/-- RING.INIT. -/
def execRingInit (h : BitVec 3) (b a : XReg) (c : Ctl) (s : State) : Host.Outcome State Fault Refusal :=
  run c s fun s =>
    let geo := s.x b
    let base := (s.x a).toNat
    let sz := bitsOf geo 15 0
    let n := bitsOf geo 24 16
    let k := s.core
    if k.rings[h.toNat].isChan || bitsOf geo 63 25 ≠ 0 || base % 64 ≠ 0 || sz = 0 || sz % 64 ≠ 0 || 4096 < sz || n < 2 || 256 < n ||
        0x30000 ≤ base || 0x30000 < base + n * sz || !clearOf base (n * sz) k.stashRanges ||
        !clearOf base (n * sz) (k.ringRanges h.toNat) || !clearOf base (n * sz) (k.winRanges 16) then usage s
    else .ok (s.onCore fun c => { c with rings := c.rings.set h.toNat { Ring.start with kind := .ring, base := base, slot := sz, n := n } })

/-- The launch-relative cores at the two ends of a channel of a core (R338, R391): the producer that feeds it, and the consumer it
feeds; none where the partner lies outside. -/
def State.chanPeer (s : State) (c : Core) (h : Nat) (producer : Bool) : Option (Nat × Nat) :=
  match c.place with
  | none => none
  | some p => match s.launchAt p.launch with
    | none => none
    | some l =>
      let sgn : Int := if producer then 1 else -1
      match (c.rings[h]?.getD Ring.start).kind with
      | .plotChan dx dy =>
        let qx := (p.px : Int) + sgn * dx
        let qy := (p.py : Int) + sgn * dy
        if 0 ≤ qx && qx < l.cmd.w && 0 ≤ qy && qy < l.cmd.h then
          some (p.launch, p.plot * (l.cmd.w * l.cmd.h) + qy.toNat * l.cmd.w + qx.toNat)
        else none
      | .launchChan d =>
        let total := l.count * l.cmd.w * l.cmd.h
        if total = 0 then none else some (p.launch, (((s.coreIndex c : Int) + sgn * d) % total).toNat)
      | _ => none

/-- What the members on k share: the ring is there, k from 1 to n, and the ring is not broken (R286, R394). -/
def ringUse (s : State) (h : BitVec 3) (a : XReg) (chanOk : Bool) (f : Ring → Nat → Res) : Res :=
  let r := s.core.rings[h.toNat]
  let k := (s.x a).toNat
  if r.kind = .none || k = 0 || r.n < k || (r.isChan && (!chanOk || r.broken || (s.chanPeer s.core h.toNat true).isNone)) then usage s
  else f r k

/-- RING.RSV. -/
def execRingRsv (h : BitVec 3) (a : XReg) (c : Ctl) (s : State) : Host.Outcome State Fault Refusal :=
  run c s fun s => ringUse s h a false fun r k => if k ≤ r.free then .ok s else .hold s

/-- RING.WAIT: on a channel its return is an acquire at `.dev`, which orders only what the thread issues later. -/
def execRingWait (h : BitVec 3) (a : XReg) (c : Ctl) (s : State) : Host.Outcome State Fault Refusal :=
  run c s fun s => ringUse s h a true fun r k => if k ≤ r.filled && !(r.isChan && s.core.acquiring) then .ok s else .hold s

/-- RING.ADVP. -/
def execRingAdvp (h : BitVec 3) (a : XReg) (c : Ctl) (s : State) : Host.Outcome State Fault Refusal :=
  run c s fun s => ringUse s h a false fun r k =>
    if r.free < k then usage s
    else .ok (s.onCore fun c => { c with rings := c.rings.set h.toNat { r with t := (r.t + k) % (2 * r.n) } })

/-- RING.ADVC: on a channel the producer is told (R229, R392). -/
def execRingAdvc (h : BitVec 3) (a : XReg) (c : Ctl) (s : State) : Host.Outcome State Fault Refusal :=
  run c s fun s => ringUse s h a true fun r k =>
    if r.filled < k then usage s
    else
      let h' := (r.h + k) % (2 * r.n)
      let s1 := s.onCore fun c => { c with rings := c.rings.set h.toNat { r with h := h' } }
      match s.chanPeer s.core h.toNat true with
      | some (lid, i) => .ok { s1 with msgs := s1.msgs ++ [.ringPtr lid i h.toNat h' s.core.loc.die] }
      | none => .ok s1

/-- RING.PTR (R286). -/
def execRingPtr (d : XReg) (h : BitVec 3) (c : Ctl) (s : State) : Host.Outcome State Fault Refusal :=
  run c s fun s =>
    let r := s.core.rings[h.toNat]
    .ok (s.setX d (if r.kind = .none then 0
      else w64 (r.h * 2 ^ 45 + r.t * 2 ^ 36 + (r.slotAt r.h) * 2 ^ 18 + r.slotAt r.t)))

/-! ## Windows (R226, R227, R288) -/

def Window.front (w : Window) : Nat := if w.side then w.base + w.half else w.base
def Window.back (w : Window) : Nat := if w.side then w.base else w.base + w.half

/-- The core is the named third party of a contract block. -/
def Block.names (b : Block) (ref l : Loc) (w : Nat) : Bool :=
  l.kind == .compute && ref.die == l.die && b.tx == l.x && b.ty == l.y && b.twin == w

/-- The window is the third-party window of an open contract or of a tile not yet delivered (R288). DEDUCED (log 25). -/
def State.winContract (s : State) (l : Loc) (w : Nat) : Bool :=
  let mine := fun (lid : Nat) => (s.coreAt l).place.any fun p => p.launch == lid
  s.engines.any fun e =>
    ((e.w ++ e.e).any fun o => o.block.names e.ref l w && mine o.party.launch) ||
    (e.run.toList ++ e.pending).any fun r => r.block.twin == w && some r.third == (s.coreAt l).place

/-- A command writes window `w` of core `l`: one that names the window. What a command writes at local addresses that lie in a window does not
count. DESIGN CHOICE (log 125). -/
def CmdKind.writesWin (k : CmdKind) (issuer l : Loc) (target : Option Loc) (w : Nat) : Bool :=
  match k with
  | .keyq p | .keyg p _ => issuer = l && p.owin == w
  | .placex _ _ kind _ win _ => kind == 2 && win == w && target == some l
  | _ => false

/-- The core at a launch-relative index, when its thread stands on one (R119). -/
def State.coreOfIndex (s : State) (launch i : Nat) : Option Core :=
  s.allCores.find? fun c => (match c.place with | some p => p.launch == launch | none => false) && s.coreIndex c == i

def CmdKind.target : CmdKind → Option Nat
  | .getx _ _ kind core _ _ | .placex _ _ kind core _ _ => if kind = 0 then none else some core
  | _ => none

/-- The core a command's target index names. -/
def State.cmdTarget (s : State) (c : Core) (k : CmdKind) : Option Core :=
  match c.place, k.target with
  | some p, some i => s.coreOfIndex p.launch i
  | _, _ => none

/-- An engine command that writes the window has not completed (R288). -/
def State.winCmd (s : State) (l : Loc) (w : Nat) : Bool :=
  s.allCores.any fun c => c.cmds.any fun m => m.kind.writesWin c.loc l ((s.cmdTarget c m.kind).map Core.loc) w

/-- WIN.INIT. DEDUCED (log 26). -/
def execWinInit (w : BitVec 4) (b a : XReg) (c : Ctl) (s : State) : Host.Outcome State Fault Refusal :=
  run c s fun s =>
    let base := (s.x a).toNat
    let half := (s.x b).toNat
    let k := s.core
    if base % 64 ≠ 0 || half % 64 ≠ 0 || half < 64 || 65536 < half || 0x30000 < base + 2 * half ||
        !clearOf base (2 * half) k.stashRanges || !clearOf base (2 * half) (k.ringRanges 8) ||
        !clearOf base (2 * half) (k.winRanges w.toNat) || s.winContract k.loc w.toNat || s.winCmd k.loc w.toNat then usage s
    else
      let v : Window := { k.wins[w.toNat] with init := true, side := false, base := base, half := half }
      .ok (s.onCore fun c => { c with wins := c.wins.set w.toNat v })

/-- A write of a command of core `c` goes into the back half of window `w` of core `l`. -/
def State.intoBack (s : State) (c : Core) (l : Loc) (w : Nat) (q : EqWrite) : Bool :=
  let v := (s.coreAt l).wins[w]?.getD Window.start
  let named := fun (i : Nat) => (c.place.bind fun p => s.coreOfIndex p.launch i).any fun t => t.loc == l
  match q with
  | .lmem a bs => c.loc == l && overlaps a bs.length v.back v.half
  | .window w' _ _ => c.loc == l && w' == w
  | .remote i (some w') _ _ => w' == w && named i
  | .remote i none a bs => named i && overlaps a bs.length v.back v.half
  | .global _ _ | .logAdd _ _ => false

/-- The drains that write window `w` of core `l` now: engine and contract. -/
def State.drainsInto (s : State) (l : Loc) (w : Nat) : List (Loc × Bool × Place × Nat) :=
  s.engines.filterMap fun e => e.run.bind fun r =>
    if r.phase ≠ .stepping && r.block.twin == w && some r.third == (s.coreAt l).place then some (e.ref, e.horiz, r.west, r.seqOf true) else none

/-- The commands with a write into the back half of window `w` of core `l` in their queues: issuer, number, writes made. -/
def State.cmdsInto (s : State) (l : Loc) (w : Nat) : List (Loc × Nat × Nat) :=
  s.allCores.flatMap fun c => c.cmds.filterMap fun m => if m.eq.any (s.intoBack c l w) then some (c.loc, m.id, m.made) else none

/-- The writes into the back half that had begun before a WIN.PUB, as it names them, have completed (R227, R264). DEDUCED (log 29). -/
def State.winQuiet (s : State) (l : Loc) (w : Nat) (drains : List (Loc × Bool × Place × Nat)) (cmds : List (Loc × Nat × Nat)) : Bool :=
  (drains.all fun d => !(s.drainsInto l w).contains d) &&
  cmds.all fun k =>
    let c := s.coreAt k.1
    match c.cmds.find? fun m => m.id = k.2.1 with
    | some m => !((m.eq.take (k.2.2 + m.eq.length - m.made)).any (s.intoBack c l w))
    | none => true

/-- The toggle of a window (R227, R264). -/
def Core.toggle (c : Core) (w : Fin 16) : Core := { c with wins := c.wins.set w { c.wins[w] with side := !c.wins[w].side } }

/-- WIN.PUB. -/
def execWinPub (w : BitVec 4) (c : Ctl) (s : State) : Host.Outcome State Fault Refusal :=
  run c s fun s =>
    if !s.core.wins[w.toNat].init then usage s
    else if s.core.acquiring then .hold s
    else
      let (drains, cmds) := match s.core.prog with
        | some (.winPub _ ds cs) => (ds, cs)
        | _ => (s.drainsInto s.core.loc w.toNat, s.cmdsInto s.core.loc w.toNat)
      if s.winQuiet s.core.loc w.toNat drains cmds then .ok (s.onCore fun c => c.toggle w.toFin)
      else .hold (s.onCore fun c => { c with prog := some (.winPub w.toNat drains cmds) })

/-- WIN.BACK. -/
def execWinBack (d : XReg) (w : BitVec 4) (c : Ctl) (s : State) : Host.Outcome State Fault Refusal :=
  run c s fun s => if !s.core.wins[w.toNat].init then usage s else .ok (s.setX d (w64 s.core.wins[w.toNat].back))

/-- WIN.FRONT. -/
def execWinFront (d : XReg) (w : BitVec 4) (c : Ctl) (s : State) : Host.Outcome State Fault Refusal :=
  run c s fun s => if !s.core.wins[w.toNat].init then usage s else .ok (s.setX d (w64 s.core.wins[w.toNat].front))

/-! ## Instruction fence, cache maintenance, bank formats (R279, R289, R290, R18) -/

/-- IFENCE: waits, then moves the fetch bound to the current view (R267). -/
def execIfence (sc : Scope) (c : Ctl) (s : State) : Host.Outcome State Fault Refusal :=
  run c s fun s => scopePolicy s sc fun sc =>
    if s.released s.core sc then .ok (s.onCore fun c => { c with fenceAt := s.cycle, fencePos := c.pos }) else .hold s

/-- A physical line is one that a virtual range of a thread's tenant translates to now (R289): by the entries the TLBs hold and the leaves
of its table. DEDUCED (log 30). -/
def State.lineInRange (s : State) (c : Core) (es : List TlbEntry) (lo n line : Nat) : Bool :=
  es.any fun e =>
    let va := e.va + (line - ptePfn e.pte)
    e.tenant == c.tenantNo && ptePfn e.pte ≤ line && line < ptePfn e.pte + e.size && overlaps va 128 lo n &&
      match s.translateCore c va Access.read with
      | .hit pa _ => lineOf pa == line
      | _ => false

/-- The entries and leaves that may translate a thread's addresses. -/
def State.entriesOf (s : State) (c : Core) : List TlbEntry :=
  c.tlb ++ (s.dieAt c.loc.die).tlb ++ s.leaves c.loc.die c.tenantNo

/-- A slice's lines after a clean or a drop of the lines a test picks. -/
def Slice.cleanLines (sl : Slice) (p : Nat → Bool) (drop : Bool) : Slice :=
  { sl with
    lines := sl.lines.filterMap fun ln => if p ln.line then (if drop then none else some { ln with dirty := false }) else some ln }

/-- A stack's lines after a clean or a drop of the lines a test picks. -/
def Die.cleanStack (d : Die) (p : Nat → Bool) (drop : Bool) : Die :=
  { d with stack := d.stack.filterMap fun l => if p l.line then (if drop then none else some { l with dirty := false }) else some l }

/-- Clean, and for CINV drop, every copy of the lines of a range: in slices, stacks, stash entries and atomic line buffers (R289). -/
def State.cleanRange (s : State) (c : Core) (lo n : Nat) (drop : Bool) : State :=
  let es := s.entriesOf c
  let p := fun (a : Nat) => s.lineInRange c es lo n a
  let s1 := { s with
    slices := s.slices.map fun (q : Nat × Slice) => (q.1, q.2.cleanLines p drop)
    dies := s.dies.map fun (d : Die) => d.cleanStack p drop }
  let clean := fun (e : StashEntry) => if p e.line then (if drop then none else some { e with dirty := false }) else some e
  s1.mapCores fun k => { k with
    linebuf := if drop then k.linebuf.filter fun a => !p a else k.linebuf
    stashes := k.stashes.map fun (o : Option Stash) => o.map fun r => { r with entries := r.entries.filterMap clean } }

def cacheOp (s : State) (a b : XReg) (drop : Bool) : Res :=
  let n := (s.x b).toNat
  if 2 ^ 32 < n then usage s else if n = 0 then .ok s else .ok (s.cleanRange s.core (s.x a).toNat n drop)

/-- CCLEAN. -/
def execCclean (b a : XReg) (c : Ctl) (s : State) : Host.Outcome State Fault Refusal := run c s fun s => cacheOp s a b false
/-- CINV. -/
def execCinv (b a : XReg) (c : Ctl) (s : State) : Host.Outcome State Fault Refusal := run c s fun s => cacheOp s a b true

/-- A value R18 accepts for a bank format register. -/
def bankfmtOk (v : W64) : Bool :=
  let f := bitsOf v 3 0
  bitsOf v 63 5 == 0 && !(0xB ≤ f && f ≤ 0xE) && (!v.getLsbD 4 || f == 0x3 || f == 0x4 || f == 0x7 || f == 0xA)

/-- Write a bank format register under R18's checks. -/
def writeBankfmt (s : State) (b : Fin 12) (v : W64) : Res :=
  if bankfmtOk v then .ok (s.onCore fun c => { c with bankfmt := c.bankfmt.set b v })
  else .trap { code := 0x0C, i0 := 0, i1 := 0, i2 := 0, i3 := 0 }

/-- BANKF.SET. -/
def execBankfSet (b a : XReg) (c : Ctl) (s : State) : Host.Outcome State Fault Refusal :=
  run c s fun s =>
    if h : (s.x a).toNat < 12 then writeBankfmt s ⟨(s.x a).toNat, h⟩ (s.x b) else usage s

/-- BANKF.GET. -/
def execBankfGet (d a : XReg) (c : Ctl) (s : State) : Host.Outcome State Fault Refusal :=
  run c s fun s =>
    if h : (s.x a).toNat < 12 then .ok (s.setX d (s.core.bankfmt[(s.x a).toNat])) else usage s

end Sys2Proof.Machine
end

