-- ==== Sys2Proof/Machine/Parallel.lean ====
section
/-! DEFINITION. Sys2Proof/Machine/Parallel.lean: where a thread stands, gangs, barriers, named events and staged loops (R117 to R150,
R204 to R217); SSTEP and YIELD stand in Superstep.lean and Launch.lean. -/

namespace Sys2Proof.Machine

/-! ## The launch a thread belongs to (R119) -/

/-- A launch command of one 1 × 1 plot: what a thread outside every launch is taken to stand in. DEDUCED (log 85). -/
def Command.single : Command :=
  { nbound := 0, nwait := 0, sigen := false, prio := 0, chain := 0, indcnt := false, cores := false, throttle := 0, h := 1, w := 1,
    ty := 0, count := 1, codeBase := 0, codeLimit := 0, entry := 0, localSrc := 0, localUse := 0, localLen := 0, arg := 0,
    countAddr := 0, waits := [], sname := 0, samt := 0, sliceDesc := 0, boundTab := 0, exitAddr := 0, mbz := true }

def Launch.single : Launch :=
  { id := 0, tenant := 0, number := 0, queue := 0, slot := 0, cmd := Command.single, count := 1, bound := [], image := [],
    table := { rings := [], groups := [], wins := [] }, age := 0, plots := [], exits := [], ending := false, credits := [] }

def State.launchOf (s : State) (c : Core) : Launch := (c.place.bind fun p => s.launchAt p.launch).getD Launch.single
def Core.placeOr (c : Core) : Place := c.place.getD { launch := 0, plot := 0, px := 0, py := 0 }

def State.plotAt (s : State) (lid i : Nat) : Option (Launch × Plot) :=
  match s.launchAt lid with
  | some l => match l.plots[i]? with
    | some p => some (l, p)
    | none => none
  | none => none

def Plot.runs (p : Plot) : Bool :=
  match p.st with
  | .resident _ _ _ => true
  | _ => false

/-- A thread's plot is resident and runs; the control core and the slice cores belong to no plot. -/
def State.placeRuns (s : State) (p : Place) : Bool := (s.plotAt p.launch p.plot).any fun q => q.2.runs

/-- The throttle: 0 means W·H (R154). -/
def Launch.throttle (l : Launch) : Nat := if l.cmd.throttle = 0 then l.cmd.w * l.cmd.h else l.cmd.throttle

/-- Chain position (R144): order 0 serpentine, 1 rows, 2 columns. -/
def chainPos (order px py w h : Nat) : Nat :=
  if order = 2 then px * h + py
  else if order = 1 || py % 2 = 0 then py * w + px
  else py * w + (w - 1 - px)

/-! ## WHO (R206) -/

def execWhopos (d : XReg) (c : Ctl) (s : State) : Host.Outcome State Fault Refusal :=
  run c s fun s =>
    let p := s.core.placeOr
    let l := s.launchOf s.core
    .ok (s.setX d (w64 (p.px + p.py * 2 ^ 8 + s.core.loc.x * 2 ^ 16 + s.core.loc.y * 2 ^ 24 +
      (s.tenantAt s.core.tenantNo).viewDie s.core.loc.die * 2 ^ 32 + chainPos l.cmd.chain p.px p.py l.cmd.w l.cmd.h * 2 ^ 40)))

def execWhodim (d : XReg) (c : Ctl) (s : State) : Host.Outcome State Fault Refusal :=
  run c s fun s =>
    let l := s.launchOf s.core
    .ok (s.setX d (w64 (l.cmd.w + l.cmd.h * 2 ^ 8 + l.cmd.chain * 2 ^ 16 + l.throttle * 2 ^ 24)))

def execWhocore (d : XReg) (c : Ctl) (s : State) : Host.Outcome State Fault Refusal :=
  run c s fun s =>
    let p := s.core.placeOr
    let l := s.launchOf s.core
    .ok (s.setX d (w64 (p.plot * (l.cmd.w * l.cmd.h) + p.py * l.cmd.w + p.px)))

def execWhoplot (d : XReg) (c : Ctl) (s : State) : Host.Outcome State Fault Refusal :=
  run c s fun s => .ok (s.setX d (w64 (s.core.placeOr.plot + (s.launchOf s.core).count * 2 ^ 32)))

def execWholaunch (d : XReg) (c : Ctl) (s : State) : Host.Outcome State Fault Refusal :=
  run c s fun s =>
    let l := s.launchOf s.core
    .ok (s.setX d (w64 (l.number.toNat + l.queue * 2 ^ 32 + l.slot * 2 ^ 36 + (if l.cmd.cores then 2 ^ 48 else 0))))

/-! ## Shapes and gangs (R120, R121, R123, R124, R207, R208) -/

def descW (d : BitVec 16) : Nat := (d.extractLsb' 0 5).toNat
def descH (d : BitVec 16) : Nat := (d.extractLsb' 5 5).toNat

/-- A descriptor is valid for a plot (R121). -/
def descValid (d : BitVec 16) (w h : Nat) : Bool :=
  d.toNat / 1024 == 0 && descW d != 0 && descH d != 0 && w % descW d == 0 && h % descH d == 0

/-- The gang shapes of R123. -/
def gangShape (d : BitVec 16) : Bool :=
  [(1, 2), (2, 1), (2, 2), (2, 4), (4, 2)].contains (descW d, descH d)

/-- The positions of the aligned sub-rectangle that holds a position. -/
def members (desc : BitVec 16) (px py : Nat) : List (Nat × Nat) :=
  let (ox, oy) := shapeOrigin desc px py
  (List.range (descH desc)).flatMap fun j => (List.range (descW desc)).map fun i => (ox + i, oy + j)

/-- The core of a plot's position, when its thread stands on one. -/
def State.coreAtPlace (s : State) (launch plot px py : Nat) : Option Core :=
  s.allCores.find? fun c => c.place = some { launch := launch, plot := plot, px := px, py := py }

def Run.isHalted : Run → Bool
  | .halted _ => true
  | _ => false

/-- Every member has issued GANG with this descriptor or has halted; then whether the gang forms: none halted, one address. -/
def State.gangReady (s : State) (desc : BitVec 16) (p : Place) (pc : W64) : Option Bool :=
  let ms := (members desc p.px p.py).map fun q => s.coreAtPlace p.launch p.plot q.1 q.2
  let waits := fun (o : Option Core) => match o with
    | some c => c.run.isHalted || (c.held && c.prog == some (.gang desc)) || c.place == some p
    | none => false
  let same := fun (o : Option Core) => match o with
    | some c => !c.run.isHalted && c.pc == pc
    | none => false
  if ms.all waits then some (ms.all same) else none

/-- GANG (R207, R124): the last member's GANG releases them all. -/
def execGang (ht wd : BitVec 5) (c : Ctl) (s : State) : Host.Outcome State Fault Refusal :=
  run c s fun s =>
    let desc : BitVec 16 := ((0 : BitVec 6) ++ ht) ++ wd
    let l := s.launchOf s.core
    if !descValid desc l.cmd.w l.cmd.h || !gangShape desc then usage s
    else
      let s := s.dissolve s.core.loc
      let p := s.core.placeOr
      match s.gangReady desc p s.core.pc with
      | none => .hold (s.onCore fun c => { c with prog := some (.gang desc) })
      | some forms =>
        let g : Option Gang := if forms then some { desc := desc, outs := [] } else none
        let me := s.core.loc
        let s1 := s.mapCores fun k => match k.place with
          | some q => if k.loc ≠ me && sameShape desc p q && k.held && k.prog == some (.gang desc) then { k.advance with gang := g } else k
          | none => k
        .ok (s1.onCore fun c => { c with gang := g })

/-- SPLIT (R208). -/
def execSplit (c : Ctl) (s : State) : Host.Outcome State Fault Refusal := run c s fun s => .ok (s.dissolve s.core.loc)

/-- A member's transfer, taken to a target or not taken, is compared with the other members' (R126): a differing outcome dissolves the gang.
DEDUCED (log 21). -/
def State.gangTransfer (s : State) (target : Option W64) : State :=
  match s.core.gang, s.core.place with
  | some g, some p =>
    let outs := g.outs ++ [target]
    let s1 := s.onCore fun c => { c with gang := some { g with outs := outs } }
    let n := outs.length
    let differ := s1.allCores.any fun c => match c.gang, c.place with
      | some g', some q => g'.desc == g.desc && sameShape g.desc p q && n ≤ g'.outs.length && g'.outs.take n != outs
      | _, _ => false
    if differ then s1.dissolve s1.core.loc else s1
  | _, _ => s

/-! ## Named events (R138, R212, R213) -/

/-- Ready(c, n) of R212. -/
def evReady (c n : W32) : Bool := (c - n).toNat < 2 ^ 31

/-- The command at the head of a launch queue still waits for an event (R158). -/
def LQueue.waitsFor (q : LQueue) (e : Nat) : Bool :=
  q.cur.any fun h => (h.cmd.waits.zip (h.satisfied ++ List.replicate 4 false)).any fun w => !w.2 && w.1.1.toNat == e

/-- What waits for an event: threads held in EVT.WAIT, and launch commands (R139). -/
def State.waiters (s : State) (t e : Nat) : List Waiter :=
  (s.allCores.filterMap fun c => match c.prog with
    | some (.evtWaiting e' _) => if c.tenantNo = t && e' = e then some (.thread c.loc) else none
    | _ => none) ++
  (s.tenantAt t).queues.filterMap fun q => if q.2.waitsFor e then some (.command q.1) else none

def State.isActive (s : State) (t e : Nat) : Bool := s.active.any fun a => a.tenant == t && a.event == e

/-- The waiters of an entry: those that still wait keep their order, the others leave, new ones come last; a ninth or later waiter stands
in the overflow list (R139). -/
def EvEntry.enrol (a : EvEntry) (ws : List Waiter) : EvEntry :=
  let old := (a.slots ++ a.overflow).filter ws.contains
  let all := old ++ ws.filter fun w => !old.contains w
  { a with slots := all.take 8, overflow := all.drop 8 }

/-- The scheduler table after an event's waiters have changed: an entry that nothing waits for is given up. -/
def State.enrol (s : State) (t e : Nat) : State :=
  { s with active := (s.active.map fun a => if a.tenant == t && a.event == e then a.enrol (s.waiters t e) else a).filter fun a =>
      !(a.tenant == t && a.event == e) || a.slots != [] }

/-- A waiting thread or launch command is satisfied in the first evaluation in which its condition holds (R138, R158), and leaves the
scheduler table (R139). -/
def State.wake (s : State) (t e : Nat) : State :=
  let v := tabGet 0 (s.tenantAt t).events e
  let s1 := s.mapCores fun c =>
    match c.prog with
    | some (.evtWaiting e' n) => if c.tenantNo = t && e' = e && evReady v n then { c with prog := some .evtSatisfied } else c
    | _ => c
  (s1.modTenant t fun n => { n with queues := n.queues.map fun q => (q.1, { q.2 with cur := q.2.cur.map fun h =>
    { h with satisfied := (h.cmd.waits.zip (h.satisfied ++ List.replicate 4 false)).map fun w =>
        w.2 || (w.1.1.toNat == e && evReady v w.1.2) } }) }).enrol t e

/-- Add to an event's counter, and evaluate its waiters. -/
def State.addEvent (s : State) (t e : Nat) (n : W32) : State :=
  (s.modTenant t fun k => { k with events := tabSet k.events e (tabGet 0 k.events e + n) }).wake t e

/-- What a thread sees of a counter: its own earlier signals count (R213). -/
def State.eventSeen (s : State) (e : Nat) : W32 :=
  (s.core.sigs.filter fun g => g.ev = e).foldl (fun v g => v + g.amt) (tabGet 0 (s.tenantAt s.core.tenantNo).events e)

/-- EVT.SIG: issues, and the addition is applied at the table once its release holds. -/
def execEvtSig (b a : XReg) (c : Ctl) (s : State) : Host.Outcome State Fault Refusal :=
  run c s fun s =>
    if 0xFFFF < (s.x a).toNat then usage s
    else .ok (s.onCore fun c =>
      { c with sigs := c.sigs ++ [{ pos := c.pos, ev := (s.x a).toNat, amt := (s.x b).setWidth 32 }], pos := c.pos + 1 })

/-- EVT.WAIT. -/
def execEvtWait (b a : XReg) (c : Ctl) (s : State) : Host.Outcome State Fault Refusal :=
  run c s fun s =>
    let e := (s.x a).toNat
    let n : W32 := (s.x b).setWidth 32
    if 0xFFFF < e then usage s
    else if s.core.acquiring then .hold s
    else if s.core.prog == some .evtSatisfied || evReady (s.eventSeen e) n then .ok s
    else .hold ((s.onCore fun c => { c with prog := some (.evtWaiting e n) }).enrol s.core.tenantNo e)

/-- EVT.TEST. -/
def execEvtTest (d : GReg) (b a : XReg) (c : Ctl) (s : State) : Host.Outcome State Fault Refusal :=
  run c s fun s =>
    let e := (s.x a).toNat
    if 0xFFFF < e then usage s
    else if s.core.acquiring then .hold s
    else .ok (s.setG d (evReady (s.eventSeen e) ((s.x b).setWidth 32)))

/-! ## Barriers (R133 to R137, R209 to R211) -/

/-- The binding every barrier has at thread start: the 1 × 1 sub-rectangle (R133). -/
def Binding.start (b : Nat) : Binding :=
  { id := b, desc := 0x21, even := false, evname := 0, observed := 0, reached := 0, after := 0, pend := false, sync := none }

def Core.binding (c : Core) (b : Nat) : Binding := (c.bindings.find? fun k => k.id = b).getD (Binding.start b)
def Core.setBinding (c : Core) (k : Binding) : Core := { c with bindings := k :: c.bindings.filter fun j => j.id ≠ k.id }

/-- The core that is home to a shape's sub-rectangle (R133): the origin's. -/
def State.homeOf (s : State) (p : Place) (desc : BitVec 16) : Loc :=
  let (ox, oy) := shapeOrigin desc p.px p.py
  match s.coreAtPlace p.launch p.plot ox oy with
  | some c => c.loc
  | none => s.core.loc

def Core.homeRec (c : Core) (b : Nat) (desc : BitVec 16) : HomeRec :=
  (c.homes.find? fun h => h.id = b && h.desc = desc).getD { id := b, desc := desc, phase := 0, arrived := [] }
def Core.setHome (c : Core) (h : HomeRec) : Core := { c with homes := h :: c.homes.filter fun j => !(j.id == h.id && j.desc == h.desc) }

/-- A core of the sub-rectangle has halted. -/
def State.memberHalted (s : State) (p : Place) (q : Nat × Nat) : Bool :=
  match s.coreAtPlace p.launch p.plot q.1 q.2 with
  | some c => c.run.isHalted
  | none => false

/-- The barrier at a home fires when every member has arrived or halted (R134): the phase advances, the firing is sent to
its members, and the home's own binding may signal an event (R137, R210). A phase in which nobody has arrived does not fire, even where every
member has halted. DESIGN CHOICE (log 117). -/
def State.tryFire (s : State) (p : Place) (b : Nat) (desc : BitVec 16) : State :=
  let hl := s.homeOf p desc
  let h := (s.coreAt hl).homeRec b desc
  let ms := members desc p.px p.py
  if h.arrived ≠ [] && ms.all fun q => h.arrived.contains q || s.memberHalted p q then
    let s1 := s.modCore hl fun c => c.setHome { h with phase := h.phase + 1, arrived := [] }
    let s2 := { s1 with msgs := s1.msgs ++ [.firing p b desc (h.phase + 1)] }
    let k := (s2.coreAt hl).binding b
    if k.desc = desc && k.even then
      s2.modCore hl fun c => { c with sigs := c.sigs ++ [{ pos := c.pos, ev := k.evname.toNat, amt := 1 }], pos := c.pos + 1 }
    else s2
  else s

/-- A halted member counts at every barrier of its plot (R134). -/
def State.fireAll (s : State) (p : Place) : State :=
  let homes := s.allCores.flatMap fun c => match c.place with
    | some q => if q.launch = p.launch && q.plot = p.plot then c.homes.map fun h => (q, h) else []
    | none => []
  homes.foldl (fun s e => s.tryFire e.1 e.2.id e.2.desc) s

/-- A barrier's release: every store, one-sided write and counter update issued before is performed at `.plot` (R211, R217). -/
def State.plotReleased (s : State) (c : Core) : Bool := s.released c .plot && c.cmdsDone

/-- BAR.INIT. -/
def execBarInit (b a : XReg) (c : Ctl) (s : State) : Host.Outcome State Fault Refusal :=
  run c s fun s =>
    let id := (s.x a).toNat
    let w := s.x b
    let desc : BitVec 16 := w.setWidth 16
    let l := s.launchOf s.core
    let p := s.core.placeOr
    let cur := s.core.binding id
    if 2047 < id || bitsOf w 63 33 ≠ 0 || !descValid desc l.cmd.w l.cmd.h ||
        ((s.coreAt (s.homeOf p cur.desc)).homeRec id cur.desc).arrived.contains (p.px, p.py) then usage s
    else
      let ph := ((s.coreAt (s.homeOf p desc)).homeRec id desc).phase
      let k : Binding :=
        { id := id, desc := desc, even := w.getLsbD 32, evname := w.extractLsb' 16 16, observed := ph, reached := ph,
          after := ph, pend := false, sync := none }
      .ok (s.onCore fun c => c.setBinding k)

/-- Count an arrival at the home (R134). -/
def State.arrive (s : State) (id : Nat) (sync : Option W64) : State :=
  let p := s.core.placeOr
  let k := s.core.binding id
  let hl := s.homeOf p k.desc
  let h := (s.coreAt hl).homeRec id k.desc
  let s1 := s.onCore fun c => c.setBinding { k with pend := true, after := h.phase, sync := sync }
  (s1.modCore hl fun c => c.setHome { h with arrived := (p.px, p.py) :: h.arrived }).tryFire p id k.desc

/-- BAR.ARRIVE. -/
def execBarArrive (a : XReg) (c : Ctl) (s : State) : Host.Outcome State Fault Refusal :=
  run c s fun s =>
    let id := (s.x a).toNat
    if 2047 < id then usage s
    else if (s.core.binding id).pend || !s.plotReleased s.core then .hold s
    else .ok (s.arrive id none)

/-- BAR.WAIT: a firing later than the observed one, and later than the core's latest arrival, has reached the core (R134, R211).
DEDUCED (log 16). -/
def barWait (s : State) (id : Nat) : Res :=
  let k := s.core.binding id
  if !s.core.acquiring && k.observed < k.reached && k.after < k.reached then .ok (s.onCore fun c => c.setBinding { k with observed := k.reached, sync := none }) else .hold s

def execBarWait (a : XReg) (c : Ctl) (s : State) : Host.Outcome State Fault Refusal :=
  run c s fun s => if 2047 < (s.x a).toNat then usage s else barWait s (s.x a).toNat

/-- BAR.SYNC: the arrival once, then the wait; an arrival recorded before an interruption is not counted twice (R205). -/
def execBarSync (a : XReg) (c : Ctl) (s : State) : Host.Outcome State Fault Refusal :=
  run c s fun s =>
    let id := (s.x a).toNat
    if 2047 < id then usage s
    else if (s.core.binding id).sync = some s.core.pc then barWait s id
    else if (s.core.binding id).pend || !s.plotReleased s.core then .hold s
    else barWait (s.arrive id (some s.core.pc)) id

/-! ## Staged loops (R144 to R150, R215 to R217) -/

/-- The core of a plot at a chain position. -/
def State.chainCore (s : State) (c : Core) (pos : Nat) : Option Core :=
  let l := s.launchOf c
  let p := c.placeOr
  s.allCores.find? fun k => match k.place with
    | some q => q.launch == p.launch && q.plot == p.plot && chainPos l.cmd.chain q.px q.py l.cmd.w l.cmd.h == pos
    | none => false

/-- The chain position of a core and the length of its chain. -/
def State.chainOf (s : State) (c : Core) : Nat × Nat :=
  let l := s.launchOf c
  let p := c.placeOr
  (chainPos l.cmd.chain p.px p.py l.cmd.w l.cmd.h, l.cmd.w * l.cmd.h)

/-- Send a core's counter toward its successor (R149). -/
def State.stageSend (s : State) (l : Loc) : State :=
  let c := s.coreAt l
  let (pos, len) := s.chainOf c
  let succ := ((s.chainCore c ((pos + 1) % len)).map Core.loc).getD l
  let m : StageMsg := { pos := pos, iter := c.stage.cur, ctr := c.stage.ctr, halted := c.run.isHalted }
  s.modCore succ fun k => { k with stage := { k.stage with msgs := k.stage.msgs ++ [m] } }

/-- The current iteration of a core ends (R147): its counter becomes 255, which its successor and the throttle's waiters learn. -/
def State.endIteration (s : State) (l : Loc) : State :=
  let c := s.coreAt l
  if c.stage.cur.isNone || c.stage.ctr = 255 then s
  else
    let s1 := (s.modCore l fun k => { k with stage := { k.stage with ctr := 255, ended := k.stage.ended + 1 } }).stageSend l
    let p := c.placeOr
    s1.mapCores fun k => match k.place with
      | some q => if k.loc ≠ l && q.launch = p.launch && q.plot = p.plot then { k with stage := { k.stage with ends := k.stage.ends + 1 } } else k
      | none => k

/-- STAGE.NEXT (R216, R145, R146). -/
def execStageNext (d a : XReg) (c : Ctl) (s : State) : Host.Outcome State Fault Refusal :=
  run c s fun s =>
    let count := (s.x a).toNat
    if 2 ^ 63 ≤ count then usage s
    else if s.core.stage.cur.isSome && s.core.stage.ctr ≠ 255 && !s.plotReleased s.core then .hold s
    else
      let l := s.core.loc
      let s := s.endIteration l
      let g := s.core.stage
      let (pos, len) := s.chainOf s.core
      let i := pos + len * g.taken
      if g.exhausted || count ≤ i then
        .ok ((s.onCore fun c => { c with stage := { c.stage with cur := none, exhausted := true } }).setX d (BitVec.allOnes 64))
      else if (i = 0 || i ≤ g.begun) && i < g.ended + (s.launchOf s.core).throttle then
        let s1 := s.onCore fun c => { c with stage := { c.stage with cur := some i, ctr := 0, taken := c.stage.taken + 1 } }
        .ok ((s1.stageSend l).setX d (w64 i))
      else .hold s

/-- STAGE.ADV. -/
def execStageAdv (a : XReg) (c : Ctl) (s : State) : Host.Outcome State Fault Refusal :=
  run c s fun s =>
    let g := s.core.stage
    if 255 < (s.x a).toNat || g.cur.isNone || g.ctr = 255 then usage s
    else if !s.plotReleased s.core then .hold s
    else
      let v := Nat.min (g.ctr.toNat + (s.x a).toNat) 254
      .ok ((s.onCore fun c => { c with stage := { c.stage with ctr := BitVec.ofNat 8 v } }).stageSend s.core.loc)

/-- STAGE.WAITL (R148). -/
def execStageWaitl (a : XReg) (c : Ctl) (s : State) : Host.Outcome State Fault Refusal :=
  run c s fun s =>
    let g := s.core.stage
    match g.cur with
    | none => usage s
    | some i =>
      if 254 < (s.x a).toNat then usage s
      else if s.core.acquiring then .hold s
      else if i = 0 || g.pred.halted || i < g.begun then .ok s
      else match g.pred.iter with
        | some j => if i ≤ j || (j + 1 = i && (s.x a).toNat < g.pred.ctr.toNat) then .ok s else .hold s
        | none => .hold s

/-- STAGE.END. -/
def execStageEnd (c : Ctl) (s : State) : Host.Outcome State Fault Refusal :=
  run c s fun s =>
    let g := s.core.stage
    if g.cur.isNone then usage s
    else if g.ctr = 255 then .ok s
    else if !s.plotReleased s.core then .hold s
    else .ok (s.endIteration s.core.loc)

/-! ## The events of these mechanisms -/

/-- GANG_HOLD_TIMEOUT (R126): a member held while another could issue. DESIGN CHOICE (log 38). -/
def execGangHoldTimeout (l : Loc) (s : State) : Host.Outcome State Fault Refusal :=
  let c := s.coreAt l
  let other := s.allCores.any fun k => match k.gang, c.gang, k.place, c.place with
    | some g, some g', some p, some q => g.desc == g'.desc && sameShape g.desc p q && k.loc != l && !k.held && k.run == .running
    | _, _, _, _ => false
  event (if c.gang.isSome && c.held && other then s.dissolve l else s)

/-- A thread is a member of the sub-rectangle of a barrier that fired. -/
def Core.memberOf (c : Core) (p : Place) (desc : BitVec 16) : Bool := (c.place.isSome || c.run == .running) && sameShape desc p c.placeOr

/-- A firing reaches a member whose binding is the one that fired; an arrival it answers is no longer pending (R211). -/
def Binding.firing (k : Binding) (ph : Nat) : Binding :=
  { k with reached := Nat.max k.reached ph, pend := k.pend && !(k.after < ph) }

/-- BARRIER_FIRING_ARRIVE (R135, R211, R291): the oldest firing of a barrier on its way to a core reaches every member of its
sub-rectangle at once. DEDUCED (log 35). -/
def execBarrierFiringArrive (l : Loc) (b : Nat) (s : State) : Host.Outcome State Fault Refusal :=
  match s.msgs.find? fun m => match m with | .firing p b' desc _ => b' == b && (s.coreAt l).memberOf p desc | _ => false with
  | some m => match m with
    | .firing p _ desc ph =>
      event (State.mapCores { s with msgs := s.msgs.erase m } fun c =>
        if c.memberOf p desc && (c.binding b).desc = desc then c.setBinding ((c.binding b).firing ph) else c)
    | _ => event s
  | none => event s

/-- EVENT_SIGNAL_APPLY (R213): a thread's oldest signal whose release holds is added. -/
def execEventSignalApply (l : Loc) (s : State) : Host.Outcome State Fault Refusal :=
  let c := s.coreAt l
  match c.sigs with
  | [] => event s
  | g :: r =>
    if c.loadsDone g.pos && s.storesDone c g.pos .dev && (c.cmds.all fun m => !(m.pos < g.pos)) then
      event ((s.modCore l fun c => { c with sigs := r }).addEvent c.tenantNo g.ev g.amt)
    else event s

/-- EVENT_ACTIVATE (R139): an event that something waits for takes an entry of the scheduler table, of 4,096. -/
def execEventActivate (t e : Nat) (s : State) : Host.Outcome State Fault Refusal :=
  event (if s.isActive t e || s.waiters t e = [] || 4096 ≤ s.active.length then s
    else { s with active := s.active ++ [({ tenant := t, event := e, slots := [], overflow := [] } : EvEntry).enrol (s.waiters t e)] })

/-- EVENT_WAKE (R138, R139): an event's waiters are evaluated. -/
def execEventWake (t e : Nat) (s : State) : Host.Outcome State Fault Refusal := event (s.wake t e)

/-- STAGE_UPDATE_ARRIVE (R149): the oldest update on its way to a core is seen. DEDUCED (log 35). -/
def execStageUpdateArrive (l : Loc) (s : State) : Host.Outcome State Fault Refusal :=
  match (s.coreAt l).stage.msgs with
  | [] => event s
  | m :: r => event (s.modCore l fun c => { c with stage := { c.stage with
      msgs := r, pred := m, begun := Nat.max c.stage.begun (match m.iter with | some i => i + 1 | none => 0) } })

/-- ITERATION_END_ARRIVE (R146): one notice of an ended iteration is seen. -/
def execIterationEndArrive (l : Loc) (s : State) : Host.Outcome State Fault Refusal :=
  event (if 0 < (s.coreAt l).stage.ends then
    s.modCore l fun c => { c with stage := { c.stage with ends := c.stage.ends - 1, ended := c.stage.ended + 1 } } else s)

/-- MWAIT_TIMEOUT (R282): the time limit of a held MWAIT is over: x[S1] cycles have passed since it issued. -/
def execMwaitTimeout (l : Loc) (s : State) : Host.Outcome State Fault Refusal :=
  let c := s.coreAt l
  match c.prog with
  | some (.mwait start false) =>
    let limit := match decode c.loc.kind c.ir.head c.ir.tail with
      | .ok (.mwait _ a _) => (c.getX a).toNat
      | _ => 0
    event (if c.held && limit ≠ 0 && limit ≤ (s.cycle - start).toNat then s.setCore { c with prog := some (.mwait start true) } else s)
  | _ => event s

/-- A block of 64 credits of a slice's log is granted to a tenant, where the log has room for 64 entries (R281). -/
def State.grantBlock (s : State) (t sl : Nat) : Option State :=
  let used := ((s.sliceAt sl).log.filter fun e => e.tenant = t).length + tabGet 0 (s.sliceAt sl).granted t
  if used + 64 ≤ (s.tenantAt t).logCap then
    some (s.modSlice sl fun k => { k with granted := tabSet k.granted t (tabGet 0 k.granted t + 64) })
  else none

/-- LOG_CREDIT_GRANT (R281): a waiting LOG obtains a block of 64 credits, or its request is refused. -/
def execLogCreditGrant (l : Loc) (sl : Nat) (s : State) : Host.Outcome State Fault Refusal :=
  let c := s.coreAt l
  if c.prog = some (.credit sl) then
    match s.grantBlock c.tenantNo sl with
    | some s1 => event (s1.modCore l fun c => { c with credits := tabSet c.credits sl (tabGet 0 c.credits sl + 64), prog := none })
    | none => event (s.setCore { c with prog := some (.creditRefused sl) })
  else event s

/-- RING_POINTER_LAND (R229, R392): the oldest pointer change on its way to this end of a channel lands, unless a retraining link holds it
(R389, R393). -/
def execRingPointerLand (l : Loc) (h : Nat) (s : State) : Host.Outcome State Fault Refusal :=
  let c := s.coreAt l
  match c.place with
  | none => event s
  | some p =>
    match s.msgs.find? fun m => match m with
      | .ringPtr lid i k _ _ => lid == p.launch && i == s.coreIndex c && k == h
      | _ => false with
    | some m => match m with
      | .ringPtr _ _ _ v d => event (if s.pathHeld d l.die then s else { s with msgs := s.msgs.erase m }.modCore l fun c =>
          { c with rings := c.rings.setIfInBounds h { (c.rings[h]?.getD Ring.start) with prodH := v } })
      | _ => event s
    | none => event s

/-- WINDOW_TOGGLE (R227, R264): the publish of a held WIN.PUB takes its toggle, and the thread goes on. -/
def execWindowToggle (l : Loc) (w : Nat) (s : State) : Host.Outcome State Fault Refusal :=
  let c := s.coreAt l
  if h : w < 16 then
    event (match c.prog with
      | some (.winPub v ds cs) => if c.held && v = w && s.winQuiet l w ds cs then s.setCore (c.toggle ⟨w, h⟩).advance else s
      | _ => s)
  else event s

end Sys2Proof.Machine
end

