-- ==== Sys2Proof/Machine/Regs.lean ====
section
/-! DEFINITION. Sys2Proof/Machine/Regs.lean: which registers and ports an instruction names, and the stagger of a captured
instruction's v fields (R201). Events name none. -/

namespace Sys2Proof.Machine

/-- The v register of a v-class operand. -/
def vregOf : VOp → List (BitVec 5)
  | .reg r => [r]
  | _ => []

/-- The link port of a v-class operand. -/
def portOf : VOp → List Dir
  | .link d => [d]
  | _ => []

/-- A v-class operand moved by a block's offset: only registers move. -/
def staggerOp (o : BitVec 5) : VOp → VOp
  | .reg r => .reg (r + o)
  | p => p

/-- The x registers an instruction names; `lr` for CALL and CALLR. -/
def xregs : Instr → List XReg
  | .add _ d b a _ | .sub _ d b a _ | .and _ d b a _ | .or _ d b a _ | .xor _ d b a _ | .andn _ d b a _
  | .shl _ d b a _ | .shr _ d b a _ | .sar _ d b a _ | .rot _ d b a _ | .min _ d b a _ | .max _ d b a _
  | .minn _ d b a _ | .maxn _ d b a _ | .mul d b a _ | .mulh d b a _ | .mulhn d b a _ | .div d b a _ | .divn d b a _
  | .rem d b a _ | .remn d b a _ | .bfi d b a _ _ _ | .sel d b a _ _ | .fadd _ d b a _ | .fsub _ d b a _
  | .fmul _ d b a _ | .fdiv _ d b a _ | .fmin _ d b a _ | .fmax _ d b a _ | .amo _ d b a _ _ _ _ | .shLineX d b a _ => [d, b, a]
  | .addi d a _ _ | .andi d a _ _ | .ori d a _ _ | .xori d a _ _ | .shli d a _ _ | .shri d a _ _ | .sari d a _ _
  | .roti d a _ _ | .lic d a _ _ _ | .clz d a _ | .ctz d a _ | .popc d a _ | .brev d a _ | .bswap d a _
  | .bfx d a _ _ _ | .bfxs d a _ _ _ | .ldl d a _ _ _ | .stl d a _ _ _ | .ld d a _ _ _ | .st d a _ _ _ | .fsqrt _ d a _
  | .fabs _ d a _ | .fneg _ d a _ | .fclass _ d a _ | .fcvt d a _ _ _ _ _ | .stageNext d a _ | .lda d a _ _ _
  | .strl d a _ _ _ | .mwait d a _ | .bankfGet d a _ => [d, a]
  | .li d _ _ | .gtox d _ | .loop d _ _ | .vredadd d _ _ _ _ _ | .vredmin d _ _ _ _ | .vredmax d _ _ _ _ | .whopos d _
  | .whodim d _ | .whocore d _ | .whoplot d _ | .wholaunch d _ | .ringPtr d _ _ | .winBack d _ _ | .winFront d _ _
  | .ccntRd d _ _ | .sysRd d _ _ => [d]
  | .cmp _ _ b a _ | .fcmp _ _ _ b a _ | .vins _ b a _ | .barInit b a _ | .evtSig b a _ | .evtWait b a _
  | .evtTest _ b a _ | .log _ b a _ _ | .stashMap _ b a _ | .ringInit _ b a _ | .winInit _ b a _ | .cclean b a _
  | .cinv b a _ | .bankfSet b a _ | .shFwdMem b a _ | .ctxSave b a _ | .ctxLoad b a _ | .grpSet _ b a _ => [b, a]
  | .cmpi _ _ a _ _ | .xtog a _ | .jr a _ | .vbcast _ _ a _ | .vldl _ a _ _ _ | .vstl _ a _ _ _ | .vgatl _ a _ _ _ _
  | .vscatl _ a _ _ _ _ | .vld _ a _ _ _ | .vst _ a _ _ _ | .scfgRead _ a _ | .scfgWrite _ a _ | .rep a _ _ _
  | .barArrive a _ | .barWait a _ | .barSync a _ | .stageAdv a _ | .stageWaitl a _ | .monarm a _ | .pref _ a _ _
  | .ringRsv _ a _ | .ringWait _ a _ | .ringAdvp _ a _ | .ringAdvc _ a _ | .lnkStat a _ _ | .ccntWait _ a _
  | .ccntSet _ a _ | .keyq a _ | .keyg a _ | .chanSend _ a _ | .chanRecv _ a _ | .shLineF _ a _ | .shPref a _
  | .shReply a _ | .sysWr a _ _ | .tlbinvPage a _ => [a]
  | .fma _ d e b a _ | .fms _ d e b a _ | .fnma _ d e b a _ | .fnms _ d e b a _ | .cas d e b a _ _ _ _ => [d, e, b, a]
  | .call _ _ => [31]
  | .callr a _ => [a, 31]
  | .vscanadd _ _ b _ _ _ _ | .vcprs _ _ b _ _ _ | .vhdrP _ _ b _ | .vhdrA _ _ _ b _ | .scfgStop _ b _ | .shFwdAcc b _ => [b]
  | .vextr d b _ _ => [d, b]
  | .vldls _ a b _ _ _ | .vstls _ a b _ _ _ | .ldred _ a b _ _ _ _ _ => [a, b]
  | .visect _ e b a _ _ => [e, b, a]
  | .lnkOpen _ a b e f _ => [a, b, e, f]
  | .xcopy _ a b e _ _ _ _ | .slmsg _ a b e _ => [a, b, e]
  | .getx _ a _ e _ _ _ | .placex _ a _ e _ _ _ => [a, e]
  | .compact _ _ b e f _ => [b, e, f]
  | _ => []

/-- The guards that a control word names (R56). -/
def ctlGuards (c : Ctl) : List GReg := c.toList.flatMap fun w => [w.extractLsb' 0 3, w.extractLsb' 4 3]

/-- The guards an instruction names, those of its control word included. -/
def guardRegs (i : Instr) : List GReg :=
  (match i with
    | .cmp d _ _ _ _ | .cmpi d _ _ _ _ | .fcmp d _ _ _ _ _ | .evtTest d _ _ _ => [d]
    | .gand d b a _ | .gor d b a _ | .gxor d b a _ | .gandn d b a _ => [d, b, a]
    | .sel _ _ _ g _ => [g]
    | .br g _ _ => [g.extractLsb' 0 3]
    | .gtox _ _ | .xtog _ _ => [0, 1, 2, 3, 4, 5, 6, 7]
    | _ => []) ++ ctlGuards ((encodeFields i).bind Fields.c)

/-- The v registers an instruction names. -/
def vregs : Instr → List (BitVec 5)
  | .vadd d b a _ _ _ | .vsub d b a _ _ _ | .vmul d b a _ _ _ | .vmin d b a _ _ _ | .vmax d b a _ _ _
  | .vadds d b a _ _ _ | .vsubs d b a _ _ _ | .vand d b a _ _ _ | .vor d b a _ _ _ | .vxor d b a _ _ _
  | .vandn d b a _ _ _ | .vshl d b a _ _ _ | .vshr d b a _ _ _ | .vsar d b a _ _ _ | .vsel d b a _ _ _ _ => vregOf d ++ vregOf b ++ vregOf a
  | .vabs d a _ _ _ | .vneg d a _ _ _ | .vexp2 d a _ _ | .vlog2 d a _ _ | .vrcp d a _ _ | .vrsq d a _ _
  | .vsqrt d a _ _ | .vcvt d a _ _ _ _ _ _ _ | .vscanadd d a _ _ _ _ _ | .vcprs d a _ _ _ _ | .vhdrP d a _ _
  | .vmov d a _ => vregOf d ++ vregOf a
  | .vfma d e b a _ _ _ | .vfms d e b a _ _ _ | .vfnma d e b a _ _ _ | .vperm d e b a _ _ _ | .vdot4 d e b a _ _
  | .vdot4n d e b a _ _ => vregOf d ++ vregOf e ++ vregOf b ++ vregOf a
  | .vcmp _ _ b a _ _ _ => vregOf b ++ vregOf a
  | .vredadd _ a _ _ _ _ | .vredmin _ a _ _ _ | .vredmax _ a _ _ _ | .vextr _ _ a _ => vregOf a
  | .vbcast d _ _ _ | .vldl d _ _ _ _ | .vstl d _ _ _ _ | .vldls d _ _ _ _ _ | .vstls d _ _ _ _ _ | .vld d _ _ _ _
  | .vst d _ _ _ _ | .visect d _ _ _ _ _ => vregOf d
  | .vins d _ _ _ => [d]
  | .vgatl d _ ix _ _ _ | .vscatl d _ ix _ _ _ => vregOf d ++ [ix]
  | .vhdrA d e a _ _ => vregOf d ++ vregOf e ++ vregOf a
  | .vfwd _ _ b _ => b.toList
  | .getx _ _ ix _ _ _ _ | .placex _ _ ix _ _ _ _ => [ix]
  | .ldred d _ _ _ _ _ _ _ => [d, d + 1]
  | _ => []

/-- The link ports an instruction pushes to (R128, R304). -/
def pushPorts : Instr → List Dir
  | .vadd d _ _ _ _ _ | .vsub d _ _ _ _ _ | .vmul d _ _ _ _ _ | .vmin d _ _ _ _ _ | .vmax d _ _ _ _ _
  | .vadds d _ _ _ _ _ | .vsubs d _ _ _ _ _ | .vand d _ _ _ _ _ | .vor d _ _ _ _ _ | .vxor d _ _ _ _ _
  | .vandn d _ _ _ _ _ | .vshl d _ _ _ _ _ | .vshr d _ _ _ _ _ | .vsar d _ _ _ _ _ | .vsel d _ _ _ _ _ _
  | .vabs d _ _ _ _ | .vneg d _ _ _ _ | .vexp2 d _ _ _ | .vlog2 d _ _ _ | .vrcp d _ _ _ | .vrsq d _ _ _
  | .vsqrt d _ _ _ | .vcvt d _ _ _ _ _ _ _ _ | .vscanadd d _ _ _ _ _ _ | .vcprs d _ _ _ _ _ | .vhdrP d _ _ _
  | .vmov d _ _ | .vfma d _ _ _ _ _ _ | .vfms d _ _ _ _ _ _ | .vfnma d _ _ _ _ _ _ | .vperm d _ _ _ _ _ _ | .vdot4 d _ _ _ _ _
  | .vdot4n d _ _ _ _ _ | .vbcast d _ _ _ | .vldl d _ _ _ _ | .vldls d _ _ _ _ _ | .vgatl d _ _ _ _ _ | .vld d _ _ _ _
  | .visect d _ _ _ _ _ | .vhdrA d _ _ _ _ => portOf d
  | .vfwd d _ _ _ => [d]
  | _ => []

/-- The link ports an instruction names. -/
def linkPorts : Instr → List Dir
  | .vadd d b a _ _ _ | .vsub d b a _ _ _ | .vmul d b a _ _ _ | .vmin d b a _ _ _ | .vmax d b a _ _ _
  | .vadds d b a _ _ _ | .vsubs d b a _ _ _ | .vand d b a _ _ _ | .vor d b a _ _ _ | .vxor d b a _ _ _
  | .vandn d b a _ _ _ | .vshl d b a _ _ _ | .vshr d b a _ _ _ | .vsar d b a _ _ _ | .vsel d b a _ _ _ _ => portOf d ++ portOf b ++ portOf a
  | .vabs d a _ _ _ | .vneg d a _ _ _ | .vexp2 d a _ _ | .vlog2 d a _ _ | .vrcp d a _ _ | .vrsq d a _ _
  | .vsqrt d a _ _ | .vcvt d a _ _ _ _ _ _ _ | .vscanadd d a _ _ _ _ _ | .vcprs d a _ _ _ _ | .vhdrP d a _ _
  | .vmov d a _ => portOf d ++ portOf a
  | .vfma d e b a _ _ _ | .vfms d e b a _ _ _ | .vfnma d e b a _ _ _ | .vperm d e b a _ _ _ | .vdot4 d e b a _ _
  | .vdot4n d e b a _ _ => portOf d ++ portOf e ++ portOf b ++ portOf a
  | .vcmp _ _ b a _ _ _ => portOf b ++ portOf a
  | .vredadd _ a _ _ _ _ | .vredmin _ a _ _ _ | .vredmax _ a _ _ _ | .vextr _ _ a _ => portOf a
  | .vbcast d _ _ _ | .vldl d _ _ _ _ | .vstl d _ _ _ _ | .vldls d _ _ _ _ _ | .vstls d _ _ _ _ _ | .vgatl d _ _ _ _ _
  | .vscatl d _ _ _ _ _ | .vld d _ _ _ _ | .vst d _ _ _ _ | .visect d _ _ _ _ _ => portOf d
  | .vhdrA d e a _ _ => portOf d ++ portOf e ++ portOf a
  | .vfwd d a _ _ => [d] ++ [a]
  | .lnkOpen dir _ _ _ _ _ | .lnkClose dir _ | .lnkStat _ dir _ | .lnkCancel dir _ => [dir]
  | _ => []

/-- A captured instruction in a run with offset `o` (R201): every v field that holds a register is moved. -/
def stagger (o : BitVec 5) : Instr → Instr
  | .vadd d b a t m c => .vadd (staggerOp o d) (staggerOp o b) (staggerOp o a) t m c
  | .vsub d b a t m c => .vsub (staggerOp o d) (staggerOp o b) (staggerOp o a) t m c
  | .vmul d b a t m c => .vmul (staggerOp o d) (staggerOp o b) (staggerOp o a) t m c
  | .vmin d b a t m c => .vmin (staggerOp o d) (staggerOp o b) (staggerOp o a) t m c
  | .vmax d b a t m c => .vmax (staggerOp o d) (staggerOp o b) (staggerOp o a) t m c
  | .vabs d a t m c => .vabs (staggerOp o d) (staggerOp o a) t m c
  | .vneg d a t m c => .vneg (staggerOp o d) (staggerOp o a) t m c
  | .vadds d b a t m c => .vadds (staggerOp o d) (staggerOp o b) (staggerOp o a) t m c
  | .vsubs d b a t m c => .vsubs (staggerOp o d) (staggerOp o b) (staggerOp o a) t m c
  | .vfma d e b a t m c => .vfma (staggerOp o d) (staggerOp o e) (staggerOp o b) (staggerOp o a) t m c
  | .vfms d e b a t m c => .vfms (staggerOp o d) (staggerOp o e) (staggerOp o b) (staggerOp o a) t m c
  | .vfnma d e b a t m c => .vfnma (staggerOp o d) (staggerOp o e) (staggerOp o b) (staggerOp o a) t m c
  | .vand d b a t m c => .vand (staggerOp o d) (staggerOp o b) (staggerOp o a) t m c
  | .vor d b a t m c => .vor (staggerOp o d) (staggerOp o b) (staggerOp o a) t m c
  | .vxor d b a t m c => .vxor (staggerOp o d) (staggerOp o b) (staggerOp o a) t m c
  | .vandn d b a t m c => .vandn (staggerOp o d) (staggerOp o b) (staggerOp o a) t m c
  | .vshl d b a t m c => .vshl (staggerOp o d) (staggerOp o b) (staggerOp o a) t m c
  | .vshr d b a t m c => .vshr (staggerOp o d) (staggerOp o b) (staggerOp o a) t m c
  | .vsar d b a t m c => .vsar (staggerOp o d) (staggerOp o b) (staggerOp o a) t m c
  | .vcmp d cc b a t m c => .vcmp d cc (staggerOp o b) (staggerOp o a) t m c
  | .vsel d b a k t m c => .vsel (staggerOp o d) (staggerOp o b) (staggerOp o a) k t m c
  | .vexp2 d a m c => .vexp2 (staggerOp o d) (staggerOp o a) m c
  | .vlog2 d a m c => .vlog2 (staggerOp o d) (staggerOp o a) m c
  | .vrcp d a m c => .vrcp (staggerOp o d) (staggerOp o a) m c
  | .vrsq d a m c => .vrsq (staggerOp o d) (staggerOp o a) m c
  | .vsqrt d a m c => .vsqrt (staggerOp o d) (staggerOp o a) m c
  | .vcvt d a sp dp src dst rm sat c => .vcvt (staggerOp o d) (staggerOp o a) sp dp src dst rm sat c
  | .vredadd d a rm t m c => .vredadd d (staggerOp o a) rm t m c
  | .vredmin d a t m c => .vredmin d (staggerOp o a) t m c
  | .vredmax d a t m c => .vredmax d (staggerOp o a) t m c
  | .vscanadd d a b rm t m c => .vscanadd (staggerOp o d) (staggerOp o a) b rm t m c
  | .vbcast d t a c => .vbcast (staggerOp o d) t a c
  | .vextr d b a c => .vextr d b (staggerOp o a) c
  | .vins d b a c => .vins (d + o) b a c
  | .vldl d a t off c => .vldl (staggerOp o d) a t off c
  | .vstl d a t off c => .vstl (staggerOp o d) a t off c
  | .vldls d a b t off c => .vldls (staggerOp o d) a b t off c
  | .vstls d a b t off c => .vstls (staggerOp o d) a b t off c
  | .vgatl d a ix t off c => .vgatl (staggerOp o d) a (ix + o) t off c
  | .vscatl d a ix t off c => .vscatl (staggerOp o d) a (ix + o) t off c
  | .vld d a t off c => .vld (staggerOp o d) a t off c
  | .vst d a t off c => .vst (staggerOp o d) a t off c
  | .vperm d e b a t m c => .vperm (staggerOp o d) (staggerOp o e) (staggerOp o b) (staggerOp o a) t m c
  | .vdot4 d e b a m c => .vdot4 (staggerOp o d) (staggerOp o e) (staggerOp o b) (staggerOp o a) m c
  | .vdot4n d e b a m c => .vdot4n (staggerOp o d) (staggerOp o e) (staggerOp o b) (staggerOp o a) m c
  | .visect d e b a k c => .visect (staggerOp o d) e b a k c
  | .vcprs d a b t k c => .vcprs (staggerOp o d) (staggerOp o a) b t k c
  | .vhdrP d a b c => .vhdrP (staggerOp o d) (staggerOp o a) b c
  | .vhdrA d e a b c => .vhdrA (staggerOp o d) (staggerOp o e) (staggerOp o a) b c
  | .vmov d a c => .vmov (staggerOp o d) (staggerOp o a) c
  | .vfwd d a b c => .vfwd d a (b.map (· + o)) c
  | i => i

end Sys2Proof.Machine
end

