-- ==== Sys2Proof/Machine/Link.lean ====
section
/-! DEFINITION. Sys2Proof/Machine/Link.lean: word channels (R117, R128 to R132), ports and contracts, the link engines and their
deliveries (R294 to R322), and stream descriptors (R197, R198). -/

namespace Sys2Proof.Machine

/-! ## Local ranges -/

/-- A local range's check: below 0x3_0000 and outside every stash region (R17, R224). -/
def localOk (c : Core) (a n : Nat) : Bool := a + n ≤ 0x30000 && !c.inStash a n

/-- An instruction's read of `n` local bytes meets a bad block or a single-bit error: UNCORRECTED is latched and the correction counted whatever
then becomes of the instruction, a precise trap of it included (R368, R369). DESIGN CHOICE (log 119). -/
def latchBad (s : State) (a n : Nat) (k : State → Res) : Res :=
  let t := s.noteBad a n
  if t.core.uncorrected = s.core.uncorrected && (s.core.softIn a n).isEmpty then k s
  else match k t with
    | .trap i => .trapIn t i
    | r => r

/-- The assist of R84: the instruction stops before any effect until firmware has served it. DEDUCED (log 90). -/
def withAssist (s : State) (fp6 : Bool) (k : State → Res) : Res :=
  if fp6 && s.core.prog ≠ some (.assist true) then .hold (s.onCore fun c => { c with prog := some (.assist false) }) else k s

/-! ## Stream descriptors (R197, R198) -/

def s32 (v : Nat) : Int := intDec 32 true v

/-- The descriptor in 32 bytes, and whether its reserved word and its multiples of 64 are in order. -/
def parseDesc (bs : List Byte) : StreamDesc × Bool :=
  let base := fieldNat bs 0 4
  let counts := (List.range 4).map fun l => fieldNat bs (8 + 2 * l) 2 + 1
  let strides := (List.range 4).map fun l => s32 (fieldNat bs (16 + 4 * l) 4)
  ({ base := base, counts := counts, strides := strides },
    fieldNat bs 4 4 == 0 && base % 64 == 0 && strides.all fun t => t % 64 == 0)

/-- The number of elements. -/
def StreamDesc.total (d : StreamDesc) : Nat := d.counts.foldl (· * ·) 1

/-- The exact address of element `n` (R197). -/
def descGo : List Nat → List Int → Nat → Int
  | c :: cs, t :: ts, n => (n % c : Nat) * t + descGo cs ts (n / c)
  | _, _, _ => 0

def StreamDesc.addr (d : StreamDesc) (n : Nat) : Int := d.base + descGo d.counts d.strides n

/-- Read a descriptor at a local address, with the checks of R198; an address that is both misaligned and out of range traps MISALIGN, as R103
orders the two. DEDUCED (log 118). -/
def readDesc (s : State) (a : W64) : Except Res StreamDesc :=
  if a.toNat % 32 ≠ 0 then .error (misalign a)
  else if 0x30000 ≤ a.toNat || s.core.inStash a.toNat 32 then .error (protect a)
  else
    let (d, ok) := parseDesc (s.core.readLmem a.toNat 32)
    if ok then .ok d else .error (usage s)

/-- Go on with the descriptor at a local address; a bad block that its read meets is latched (R369). -/
def withDesc (s : State) (a : W64) (k : State → StreamDesc → Res) : Res :=
  let go := fun (s : State) => match readDesc s a with
    | .error r => r
    | .ok d => k s d
  if a.toNat % 32 = 0 && localOk s.core a.toNat 32 then latchBad s a.toNat 32 go else go s

/-- An element address that may be accessed (R199, R301): from 0 to 0x2_FFC0, outside every stash region. -/
def elemOk (c : Core) (a : Int) : Bool := 0 ≤ a && a ≤ 0x2FFC0 && !c.inStash a.toNat 64

/-- The first element of a descriptor that may not be accessed. -/
def badElem (c : Core) (d : StreamDesc) : Option Int :=
  ((List.range d.total).find? fun n => !elemOk c (d.addr n)).map d.addr

/-! ## Neighbour positions (R117, R131) -/

/-- What stands behind a port. -/
inductive PortSide where
  | usable | detached | foreign
deriving DecidableEq, Repr

/-- A plot of the launch that is not resident and not done holds the position: reserved for it, or last occupied by it (R131). The rectangle of
a first load that was abandoned (R165) counts as last occupied. DESIGN CHOICE (log 120). -/
def Launch.holds (l : Launch) (n : Loc) : Bool :=
  l.plots.any fun p =>
    (match p.st with | .saved | .pending | .saving _ _ _ | .loading _ _ _ => true | _ => false) &&
    (match p.home with
      | some (d, ox, oy) => d == n.die && ox ≤ n.x && n.x < ox + l.cmd.w && oy ≤ n.y && n.y < oy + l.cmd.h
      | none => false)

/-- A core at one end of a link is fenced: the link carries no words and no engine work (R118). -/
def State.linkFenced (s : State) (ref : Loc) (horiz : Bool) : Bool :=
  s.mgmt.fenced.contains ref || s.mgmt.fenced.contains (engineEnd ref horiz false)

/-- The first row of R131's table that matches a port's neighbour position (no thread stands on a fenced core, R118). -/
def State.portSide (s : State) (c : Core) (d : Dir) : PortSide :=
  match neighbour c.loc d, c.place with
  | some n, some p =>
    if ((s.coreAt n).place.any fun q => q.launch = p.launch) then .usable
    else if (s.launchOf c).holds n then .detached
    else .foreign
  | _, _ => .foreign

def linkAbsent (d : Dir) : Res := .trap { code := 0x0E, i0 := w64 d.index, i1 := 0, i2 := 0, i3 := 0 }

/-- The port's state after a diversion or a mismatch: word mode, and the contract it is about is over; a later one that the party has
opened meanwhile stays as it is (R303, R316). -/
def Port.reset (p : Port) : Port :=
  { p with mode := .word, isOpen := p.isOpen && p.mark != p.seq, closed := p.closed && p.mark != p.seq, feed := none, divert := none,
           mism := none, cancelled := none }

/-- A party diverted at its instruction (R316): LPC names it, a repetition block is abandoned, RESTART is checked as a target. -/
def divertTo (s : State) (d : Dir) (reason : BitVec 8) (restart : W64) : Res :=
  checkTarget s restart fun s => .goto (s.onCore fun c =>
    let c1 := c.unhold.setPort d { (c.port d).reset with reason := reason }
    { c1 with inRep := false, sys := { c1.sys with lpc := c.pc &&& ~~~1, repstate := c.sys.repstate &&& 0x7FFFFFFFFFFFFFFF#64 } }) restart

/-- What every instruction that names a port meets first, LNK.STAT excepted: a mismatch pending on it traps and a diversion pending on it is
taken, otherwise the port exists and is not foreign (R117, R131, R303, R316). What is pending comes first also at a port that has become
foreign; an instruction that is executed again after a translation stall meets it too. DESIGN CHOICE (log 111, 121). -/
def namePort (s : State) (d : Dir) (k : Res) : Res :=
  let p := s.core.port d
  if s.portSide s.core d = .foreign && p.mism.isNone && p.divert.isNone then linkAbsent d
  else match p.mism, p.divert with
    | some (what, other, own), _ =>
      .trapIn (s.onCore fun c => c.setPort d p.reset)
        { code := 0x0F, i0 := w64 what, i1 := other.setWidth 64, i2 := 0, i3 := own.setWidth 64 }
    | none, some (reason, restart) => divertTo s d reason restart
    | none, none => k

/-! ## Pops and pushes (R128 to R130, R169, R300, R304) -/

/-- The words a receiving FIFO holds, those in transit counted. -/
def Core.fifoOf (c : Core) (d : Dir) : List FifoWord := c.fifo[d.index]?.getD []
def Core.setFifo (c : Core) (d : Dir) (q : List FifoWord) : Core := { c with fifo := c.fifo.setIfInBounds d.index q }

/-- The word a pop takes, after its parity errors and retries (R368, R369): with its 8 retries exhausted it reads as 0xFF bytes, and
UNCORRECTED is latched. DESIGN CHOICE (log 108). -/
def State.popWord (s : State) (d : Dir) (w : V512) (rest : List FifoWord) : V512 × State :=
  let s1 := s.onCore fun c => c.setFifo d rest
  match s.core.wordErr.find? fun e => e.1 = d.index with
  | none => (w, s1)
  | some e =>
    let s2 := s1.onCore fun c => { c with wordErr := c.wordErr.filter fun f => f.1 ≠ d.index }
    if e.2 ≤ 8 then (w, s2.countFixed (.core s.core.loc) s.core.tenantNo e.2)
    else (BitVec.allOnes 512, s2.onCore fun c => c.latchUncorrected 4 0 0)

/-- Pop a link port: `none` where the pop must stall. -/
def popLink (s : State) (d : Dir) : Except Res (Option (V512 × State)) :=
  if (s.core.port d).mode ≠ .word then .error (.trap { code := 0x10, i0 := w64 d.index, i1 := 0, i2 := 0, i3 := 0 })
  else match s.core.fifoOf d with
    | w :: r => if w.landed then .ok (some (s.popWord d w.data r)) else .ok none
    | [] => .ok none

/-- The words in the operand FIFO of one side: its 8 slots, as a thread of that side finds them (R304, R16). -/
def LinkEngine.fill (e : LinkEngine) (west : Bool) (who : Option Place) : Nat :=
  ((e.side west).map fun o => if some o.party = who then o.words.length else 0).sum

/-- Append a feed word to a party's contract. DESIGN CHOICE (log 23). -/
def State.feedWord (s : State) (l : Loc) (d : Dir) (w : V512) : State :=
  let (ref, horiz, west) := engineOf l d
  let e := s.engineAt ref horiz
  let c := s.coreAt l
  let os := (e.side west).map fun o => if o.isOf c.place (c.port d).seq then { o with words := o.words ++ [(w, true)] } else o
  (s.setEngine (e.setSide west os)).modCore l fun c => c.setPort d { c.port d with fed := (c.port d).fed + 1 }

/-- Push a link port: a word into the neighbour's FIFO, or a feed; a feed at a fenced link stalls (R118). -/
def pushLink (s : State) (d : Dir) (w : V512) : Except Res (Option State) :=
  let p := s.core.port d
  match p.mode with
  | .direct => .error (usage s)
  | .instr =>
    let (ref, horiz, west) := engineOf s.core.loc d
    if p.w ≤ p.fed then .error (usage s)
    else if s.linkFenced ref horiz || 8 ≤ (s.engineAt ref horiz).fill west s.core.place then .ok none
    else .ok (some (s.feedWord s.core.loc d w))
  | .word =>
    if s.portSide s.core d = .detached then .ok none
    else match neighbour s.core.loc d with
      | none => .error (linkAbsent d)
      | some n =>
        let q := (s.coreAt n).fifoOf d.opp
        if 8 ≤ q.length then .ok none else .ok (some (s.modCore n fun c => c.setFifo d.opp
          (q ++ [{ data := w, landed := false, pusher := s.core.place }])))

/-- WORD_LAND (R129): the oldest word on its way into a receiving FIFO lands. -/
def landFirst : List FifoWord → List FifoWord
  | [] => []
  | w :: r => if w.landed then w :: landFirst r else { w with landed := true } :: r

def execWordLand (l : Loc) (d : Dir) (s : State) : Host.Outcome State Fault Refusal :=
  event (s.modCore l fun c => c.setFifo d (landFirst (c.fifoOf d)))

/-! ## Contract blocks (R294, R295) -/

/-- k positions per word (R295). -/
def perWord (fmt : Nat) : Nat :=
  match fmt with
  | 1 | 2 => 1
  | 3 | 4 | 5 | 6 | 8 => 2
  | _ => 4

/-- Parse a contract block: the block, its SPARSE code, and whether its must-be-zero bits are zero. -/
def parseBlock (bs : List Byte) : Block × Nat × Bool :=
  let b2 := fieldNat bs 2 1
  let b3 := fieldNat bs 3 1
  let w3 := fieldNat bs 0xC 2
  ({ id := BitVec.ofNat 16 (fieldNat bs 0 2), sparse := b2 / 16 % 4 == 1, rtout := bitOf b2 3, byp := bitOf b2 2, red := bitOf b2 1,
     role := bitOf b2 0, out := BitVec.ofNat 4 (b3 / 16), fmt := BitVec.ofNat 4 (b3 % 16), m := fieldNat bs 4 1 % 32 + 1,
     n := fieldNat bs 5 1 % 32 + 1, k := fieldNat bs 8 3 + 1, twin := w3 / 1024 % 16, ty := w3 / 32 % 32, tx := w3 % 32,
     restart := w64 (fieldNat bs 0x10 8) },
   b2 / 16 % 4,
   b2 / 64 == 0 && fieldNat bs 4 1 / 32 == 0 && fieldNat bs 5 1 / 32 == 0 && fieldNat bs 6 2 == 0 && fieldNat bs 0xB 1 == 0 &&
     w3 / 16384 == 0 && fieldNat bs 0xE 2 == 0 && fieldNat bs 0x18 8 == 0)

/-- The combinations of R295. -/
def comboOk (b : Block) (sparse : Nat) : Bool :=
  let f := b.fmt.toNat
  let o := b.out.toNat
  let flt := (1 ≤ f && f ≤ 6) || f = 7 || f = 10
  let int := f = 8 || f = 9
  let small := 1 ≤ f && f ≤ 6
  (flt || int) && (if int then o == 0 else o ≤ 2) && sparse ≤ 1 && (sparse = 0 || (small && b.k % 4 == 0)) &&
    (!b.red || b.m ≤ 16) && (!b.byp || (small && b.k ≤ 32))

def ceilDiv (a b : Nat) : Nat := (a + b - 1) / b

/-- W of a party (R296). -/
def Block.words (b : Block) : Nat :=
  let s := perWord b.fmt.toNat
  if !b.role && b.byp then 0
  else if b.sparse then (if b.role then b.k / (2 * s) else b.k / s)
  else ceilDiv b.k s

/-- S, the steps of a contract (R296). -/
def Block.steps (b : Block) : Nat :=
  let s := perWord b.fmt.toNat
  if b.sparse then (if b.byp then b.k / (2 * s) else b.k / s) else ceilDiv b.k s

/-- A scale region of `rows` rows lies inside one bank at a multiple of 128 (R76). -/
def scaleOk (base rows k : Nat) : Bool :=
  let n := 128 * (ceilDiv rows 32 * ceilDiv k 128)
  base % 128 == 0 && base + n ≤ 0x30000 && base / 0x4000 == (base + n - 1) / 0x4000

/-- Steps 6 to 8 of R301, on the block read. -/
def openChecks (s : State) (b : Block) (b2 e f : XReg) (k : State → Option StreamDesc → Res) : Res :=
  let c := s.core
  let needMeta := b.sparse && b.role
  let ma := s.x b2
  let sc := s.x e
  let fm := b.fmt.toNat
  if (b2 ≠ 0) ≠ needMeta then usage s
  else if needMeta && ma.toNat % 16 ≠ 0 then misalign ma
  else if needMeta && !localOk c ma.toNat (16 * (b.k / 4)) then protect ma
  else if e = 0 && (fm = 7 || fm = 10) then trapAt 0x0D 0
  else if e ≠ 0 && !(fm = 3 || fm = 4 || fm = 7 || fm = 10) then usage s
  else if e ≠ 0 && b.byp && !b.role then usage s
  else if e ≠ 0 && !scaleOk sc.toNat (if b.role then b.n else b.m) b.k then trapAt 0x0D sc
  else if f = 0 then k s none
  else withDesc s (s.x f) fun s d =>
    if d.total ≠ b.words then usage s
    else match badElem c d with
      | some a => protect (w64i a)
      | none => k s (some d)

/-- LNK.OPEN (R301). -/
def execLnkOpen (dir : Dir) (a b e f : XReg) (c : Ctl) (s : State) : Host.Outcome State Fault Refusal :=
  run c s fun s => namePort s dir (
    let p := s.core.port dir
    let at_ := s.x a
    if p.mode ≠ .word || (p.isOpen && !p.closed) then usage s
    else if at_.toNat % 32 ≠ 0 then misalign at_
    else if !localOk s.core at_.toNat 32 then protect at_
    else latchBad s at_.toNat 32 fun s =>
      let (blk, sparse, mbz) := parseBlock (s.core.readLmem at_.toNat 32)
      if !mbz || 17 < blk.tx || 17 < blk.ty then usage s
      else if !comboOk blk sparse then trapAt 0x0C at_
      else openChecks s blk b e f fun s desc =>
        withAssist s (blk.fmt = 5 || blk.fmt = 6) fun s =>
          let (ref, horiz, west) := engineOf s.core.loc dir
          let eng := s.engineAt ref horiz
          let o : Open := { seq := p.seq + 1, party := s.core.placeOr,
                            partner := (neighbour s.core.loc dir).bind (s.placeAt s.core.placeOr.launch), block := blk, metaBase := (s.x b).toNat, scaleBase := if e = 0 then 0x30000 else (s.x e).toNat,
                            landed := false, words := [], closePos := none, closed := false, kept := none }
          let q : Port := { p with mode := if desc.isSome then .direct else .instr, seq := p.seq + 1, id := blk.id, isOpen := true,
                                   closed := false, restart := blk.restart, fed := 0, w := blk.words, feed := desc }
          .ok ((s.setEngine (eng.setSide west (eng.side west ++ [o]))).onCore fun c => c.setPort dir q))

/-- LNK.CLOSE (R305). -/
def execLnkClose (dir : Dir) (c : Ctl) (s : State) : Host.Outcome State Fault Refusal :=
  run c s fun s => namePort s dir (
    let p := s.core.port dir
    if p.mode = .word && !(p.isOpen && !p.closed) then usage s
    else if p.mode = .instr && p.fed < p.w then usage s
    else if p.mode = .direct && p.fed < p.w then .hold s
    else
      let (ref, horiz, west) := engineOf s.core.loc dir
      let eng := s.engineAt ref horiz
      let os := (eng.side west).map fun o => if o.isOf s.core.place p.seq then { o with closePos := some s.core.pos } else o
      .ok ((s.setEngine (eng.setSide west os)).onCore fun c =>
        { c.setPort dir { p with mode := .word, closed := true, feed := none } with pos := c.pos + 1 }))

/-- LNK.WAIT (R311). -/
def execLnkWait (w : BitVec 4) (c : Ctl) (s : State) : Host.Outcome State Fault Refusal :=
  run c s fun s =>
    let win := s.core.wins[w.toNat]
    if !win.init then usage s
    else if s.core.acquiring then .hold s
    else match win.queue with
      | [] => .hold s
      | r :: rest =>
        let s1 := s.onCore fun c => { c with wins := c.wins.set w.toNat { win with queue := rest } }
        let ref := w64 (r.refx + r.refy * 256)
        if r.result = 1 then .ok s1
        else if r.result = 3 then .ok (s1.onCore fun c => c.latchUncorrected 5 ref (r.id.setWidth 64))
        else if r.result = 2 then
          .trapIn s1 { code := 0x12, i0 := w64 r.row, i1 := w64 r.col, i2 := ref, i3 := r.id.setWidth 64 }
        else .trapIn s1 { code := 0x0F, i0 := 13, i1 := 0, i2 := ref, i3 := r.id.setWidth 64 }

/-- Records on their way to a third party's window, from every engine. -/
def State.comingTo (s : State) (t : Place) (w : Nat) : Nat :=
  (s.engines.map fun e => ((e.pending ++ (e.run.filter fun r => r.phase != .stepping).toList).filter fun r =>
    r.third == t && r.block.twin == w).length).sum

/-- What an engine finds of a contract's third party when it may drain (R307, R310 to R312): its core, resident, with room in the
delivery queue; nothing yet; or that it has halted. -/
inductive Third where
  | ready (c : Core) | waits | gone
deriving DecidableEq, Repr

def State.thirdOf (s : State) (r : EngRun) : Third :=
  match s.threadOf r.third with
  | none => match s.plotAt r.third.launch r.third.plot with
    | some (_, p) => if p.st == .done then .gone else .waits
    | none => .gone
  | some c =>
    if !((s.plotAt r.third.launch r.third.plot).any fun e => e.2.runs) then .waits
    else if c.run.isHalted then .gone
    else if 255 ≤ (c.wins[r.block.twin]?.getD Window.start).queue.length + s.comingTo r.third r.block.twin then .waits
    else .ready c

/-- A contract has taken its steps and both its closes have landed. -/
def LinkEngine.stepsOver (e : LinkEngine) (r : EngRun) : Bool :=
  r.started && r.step == r.block.steps &&
    [true, false].all fun w => (e.side w).any fun o => o.isOf (some (r.party w)) (r.seqOf w) && o.closed

/-- Where a port's contract stands: STATE of R319 and R385 but for what `portState` says of it. -/
def contractState (s : State) (c : Core) (d : Dir) : Nat :=
  let p := c.port d
  let (ref, horiz, west) := engineOf c.loc d
  let e := s.engineAt ref horiz
  let waiting := if (e.side west).any fun o => o.isOf c.place p.seq then (if p.closed then 3 else 1) else 0
  if p.mism.isSome then 6
  else if p.divert.isSome then 5
  else if !p.isOpen then 0
  else if e.pending.any fun r => r.ofEnd west c.place p.seq then 4
  else match e.run with
    | some r =>
      if r.ofEnd west c.place p.seq then
        if !p.closed then 2 else if r.phase ≠ .stepping then 4
        else if e.stepsOver r && s.thirdOf r == .waits then 4 else 3
      else waiting
    | none => waiting

/-- STATE of R319 and R385: 0 in word mode, which a diversion or a mismatch of an earlier contract has put the port in though the party has
opened a later one (R303, R316). -/
def portState (s : State) (c : Core) (d : Dir) : Nat :=
  let p := c.port d
  if p.mode = .word && p.isOpen && !p.closed && !p.marked then 0 else contractState s c d

/-- LNK.STAT (R319). -/
def execLnkStat (a : XReg) (dir : Dir) (c : Ctl) (s : State) : Host.Outcome State Fault Refusal :=
  run c s fun s =>
    if s.portSide s.core dir = .foreign then linkAbsent dir
    else
      let p := s.core.port dir
      let (ref, horiz, west) := engineOf s.core.loc dir
      let e := s.engineAt ref horiz
      let them := s.placeAt s.core.placeOr.launch (engineEnd ref horiz (!west))
      .ok (s.setX a (w64 (e.fill west s.core.place + e.fill (!west) them * 2 ^ 4 + (p.fed % 2 ^ 24) * 2 ^ 8 + p.reason.toNat * 2 ^ 32 +
        p.result.toNat * 2 ^ 40 + portState s s.core dir * 2 ^ 44 + p.id.toNat * 2 ^ 48)))

/-- Both parties cancel in one cycle (R318): the partner's LNK.CANCEL was the move before this one. DEDUCED (log 107). -/
def State.cancelsToo (s : State) (p : Port) : Bool := p.mism.isNone && p.divert.isSome && p.mark == p.seq && p.cancelled == some (s.cycle - 1)

/-- LNK.CANCEL (R318). -/
def execLnkCancel (dir : Dir) (c : Ctl) (s : State) : Host.Outcome State Fault Refusal :=
  run c s fun s =>
    let p := s.core.port dir
    if s.cancelsToo p then .ok (s.onCore fun k => k.setPort dir { p.reset with reason := 7 })
    else namePort s dir (
      let (ref, horiz, west) := engineOf s.core.loc dir
      let e := s.engineAt ref horiz
      if p.isOpen && (e.side west).any fun o => o.isOf s.core.place p.seq then
        .ok (s.cancelContract s.core.loc dir 3 fun q => { q.withdrawn with reason := 7 }) else .ok s)

/-! ## Matching (R302, R303, R312) -/

/-- The first disagreement of two blocks (R303); `there` that the third party is a core of the launch on this die, `tile` that the
engine holds a tile of M × K. -/
def disagree (a b : Block) (there tile : Bool) : Option Nat :=
  if a.id ≠ b.id then some 1 else if a.role == b.role then some 2 else if a.m ≠ b.m then some 3 else if a.n ≠ b.n then some 4
  else if a.k ≠ b.k then some 5 else if a.fmt ≠ b.fmt then some 6 else if a.out ≠ b.out then some 7
  else if a.sparse != b.sparse then some 8 else if a.red != b.red || a.byp != b.byp || a.rtout != b.rtout then some 9
  else if a.tx ≠ b.tx || a.ty ≠ b.ty || a.twin ≠ b.twin then some 10 else if !there then some 11
  else if a.byp && !tile then some 12 else none

/-- The place of the launch that a block names as third party, on the engine's die. -/
def State.thirdParty (s : State) (ref : Loc) (lid : Nat) (b : Block) : Option Place :=
  s.placeEver lid { kind := .compute, die := ref.die, x := b.tx, y := b.ty }

/-- A place's plot is pinned, until it completes (R131, R312). -/
def State.pin (s : State) (p : Place) : State :=
  s.modLaunch p.launch fun l => { l with plots := l.plots.modify p.plot fun q => if q.st == .done then q else { q with pinned := true } }

/-- The plot of a party has completed. -/
def State.partyDone (s : State) (p : Place) : Bool := (s.plotAt p.launch p.plot).all fun q => q.2.st == .done

/-- Two contracts of one launch may be each other's: one whose plot has completed meets only the thread it was opened towards (R16, R325). -/
def State.meets (s : State) (a b : Open) : Bool :=
  a.party.launch == b.party.launch && (a.partner == some b.party || !s.partyDone a.party) && (b.partner == some a.party || !s.partyDone b.party)

/-- The oldest contracts of the two sides of an engine that are each other's. DEDUCED (log 106). -/
def State.pair (s : State) (e : LinkEngine) : Option (Open × Open) :=
  e.w.findSome? fun o => match e.e.find? (s.meets o) with
    | some b => match e.w.find? fun a => s.meets a b with
      | some a => if a.landed && b.landed then some (a, b) else none
      | none => none
    | none => none

/-- Mark a party's contract mismatched (R303). What was pending before on the port is pending no longer. DESIGN CHOICE (log 111). -/
def State.markMism (s : State) (o : Open) (d : Dir) (what : Nat) (other : BitVec 16) : State :=
  s.modThread o.party fun c => c.setPort d { c.port d with mism := some (what, other, o.block.id), divert := none, mark := o.seq }

/-- The tile an engine holds is these two parties' (R309, R16). -/
def LinkEngine.heldBy (e : LinkEngine) (west east : Place) : Option Tile :=
  (e.held.filter fun t => t.1 == west && t.2.1 == east).map fun t => t.2.2

/-- An engine that holds no earlier contract compares two contracts, and starts one or marks it mismatched (R302, R303). -/
def State.compare (s : State) (ref : Loc) (horiz : Bool) (ow oe : Open) : State :=
  let e := s.engineAt ref horiz
  let b := ow.block
  let third := s.thirdParty ref ow.party.launch b
  let held := e.heldBy ow.party oe.party
  match disagree ow.block oe.block third.isSome (held.any fun t => t.m == b.m && t.n == b.k), third with
  | none, some t =>
    let r : EngRun :=
      { aSeq := if ow.block.role then oe.seq else ow.seq, bSeq := if ow.block.role then ow.seq else oe.seq, west := ow.party,
        east := oe.party, third := t, block := b,
        aWest := !ow.block.role, started := false, step := 0, recs := [], byp := if b.byp then held else none,
        phase := .stepping, out := [], tile := none,
        result := { id := b.id, result := 0, row := 0, col := 0, refx := ref.x, refy := ref.y }, redDiff := none,
        parityBad := false, retries := 0 }
    (((s.setEngine { e with run := some r, held := none }).pin ow.party).pin oe.party).pin t
  | what, _ =>
    let e1 := ({ e with held := none }.withdraw true (some ow.party) ow.seq).withdraw false (some oe.party) oe.seq
    ((s.setEngine e1).markMism ow (engineDir horiz true) (what.getD 11) oe.block.id).markMism oe (engineDir horiz false) (what.getD 11)
      ow.block.id

/-- Match the oldest landed contracts of an engine, when it may; after a mismatch, which starts nothing, the next ones (R302). The count
bounds the contracts looked at. -/
def State.matchUpTo (s : State) (ref : Loc) (horiz : Bool) : Nat → State
  | 0 => s
  | n + 1 =>
    let e := s.engineAt ref horiz
    match e.run, s.pair e with
    | none, some (ow, oe) =>
      if s.linkFenced ref horiz || ((ow.block.byp || oe.block.byp) && !e.pending.isEmpty) then s
      else State.matchUpTo (s.compare ref horiz ow oe) ref horiz n
    | _, _ => s

def State.tryMatch (s : State) (ref : Loc) (horiz : Bool) : State := s.matchUpTo ref horiz (s.engineAt ref horiz).w.length
/-- Every engine matches if it can. -/
def State.matchAll (s : State) : State := s.engines.foldl (fun (t : State) (e : LinkEngine) => t.tryMatch e.ref e.horiz) s

/-- LINK_OPEN_LAND (R302): the oldest open on its way lands, and the engine matches if it can. -/
def landOpen : List Open → List Open
  | [] => []
  | o :: r => if o.landed then o :: landOpen r else { o with landed := true } :: r

def execLinkOpenLand (l : Loc) (d : Dir) (s : State) : Host.Outcome State Fault Refusal :=
  let (ref, horiz, west) := engineOf l d
  let e := s.engineAt ref horiz
  event ((s.setEngine (e.setSide west (landOpen (e.side west)))).tryMatch ref horiz)

/-- ENGINE_START (R302): the cycle after the match. -/
def execEngineStart (l : Loc) (horiz : Bool) (s : State) : Host.Outcome State Fault Refusal :=
  let e := s.engineAt l horiz
  match e.run with
  | some r => event (if s.linkFenced l horiz then s else s.setEngine { e with run := some { r with started := true } })
  | none => event s

/-- A close leaves once the party's earlier loads are satisfied and stores performed at `.dev` (R305). Of a party whose plot has completed,
HALT has seen the loads satisfied; its stores may still stand in the buffer of a die. -/
def State.closeLeaves (s : State) (o : Open) : Bool :=
  o.closePos.any fun p => match s.threadOf o.party with
    | some c => c.loadsDone p && s.storesDone c p .dev
    | none => s.dies.toList.all fun d => d.db.all fun b => !(b.owner == .thread o.party && b.pos < p)

/-- LINK_CLOSE_LAND (R305): the closes of one side that have left land. -/
def execLinkCloseLand (l : Loc) (d : Dir) (s : State) : Host.Outcome State Fault Refusal :=
  let (ref, horiz, west) := engineOf l d
  let e := s.engineAt ref horiz
  event (s.setEngine (e.setSide west ((e.side west).map fun o => if s.closeLeaves o then { o with closed := true } else o)))

/-- DIRECT_FEED_PUSH (R304): the feed unit pushes its next element as the bank holds it; it takes nothing from BANKFMT (R17, R18 name the
engines among its readers and give no use of it). DESIGN CHOICE (log 96). -/
def execDirectFeedPush (l : Loc) (d : Dir) (s : State) : Host.Outcome State Fault Refusal :=
  let c := s.coreAt l
  let p := c.port d
  let (ref, horiz, west) := engineOf l d
  match p.feed with
  | some desc =>
    if p.mode = .direct && p.fed < p.w && !s.linkFenced ref horiz && (s.engineAt ref horiz).fill west c.place < 8 then
      let a := (desc.addr p.fed).toNat
      let bad := c.badLocal.contains (a / 64)
      let w := if bad then BitVec.allOnes 512 else toV512 (c.lmem.readN a 64)
      event ((s.feedWord l d w).noteBadAt l a 64)
    else event s
  | none => event s

/-! ## Steps and the tile (R296 to R298, R306, R308) -/

/-- A party as an engine reads it: its thread, or, once its plot has completed, the local memory kept for the contract (R325). -/
def State.partyOf (s : State) (o : Open) : Core :=
  (s.threadOf o.party).getD { Core.start { kind := .compute, die := 0, x := 0, y := 0 } 0 with lmem := o.kept.getD { cells := [] } }

/-- The addresses of the scale bytes of the 32 rows of an operand for the k-block of position `k`; none for an unscaled operand. -/
def scaleAddrs (base kk k : Nat) : List Nat :=
  if base = 0x30000 then [] else (List.range 32).map fun row => base + scaleOffset kk row k

/-- The scale bytes of the 32 rows of an operand for the k-block of position `k`; empty for an unscaled operand. DEDUCED (log 56). -/
def scaleBytes (c : Core) (base kk k : Nat) : List Byte := (scaleAddrs base kk k).flatMap fun a => c.readLmem a 1

/-- The first address of a list that lies in a bad block of a core. -/
def Core.firstBad (c : Core) (as_ : List Nat) : Option Nat := as_.find? fun a => c.badLocal.contains (a / 64)

/-- What an engine's reads of a party's local memory find (R368, R369): single-bit errors are corrected, written back and counted; a bad block
is latched (a feed of the core's own contract). -/
def State.noteParty (s : State) (p : Place) (as_ : List Nat) : State :=
  match s.threadOf p with
  | none => s
  | some c =>
    let fixed := c.soft.filter fun w => as_.any fun a => a / 8 == w
    let c1 := match c.firstBad as_ with
      | some a => c.latchUncorrected 1 (w64 a) 0
      | none => c
    if (c.firstBad as_).isNone && fixed.isEmpty then s
    else if fixed.isEmpty then s.modThread p fun _ => c1
    else (s.modThread p fun _ => { c1 with soft := c1.soft.filter fun w => !fixed.contains w }.countFixed fixed.length).countFixed
      (.core c.loc) c.tenantNo fixed.length

/-- The word of a sparse B operand, counted over the words, that holds position `k` (R297). -/
def EngRun.blockOf (r : EngRun) (k : Nat) : Nat := if perWord r.block.fmt.toNat = 2 then k / 4 else 2 * (k / 4)

/-- ENGINE_STEP (R306): the words the step consumes stand in their FIFOs; the scales of a k-block are read before its first word is consumed,
and once (R298); the retries of an operand word are counted, and when all 8 have failed the contract's parity error stands (R368, R369). -/
def execEngineStep (l : Loc) (horiz : Bool) (s : State) : Host.Outcome State Fault Refusal :=
  let e := s.engineAt l horiz
  match e.run with
  | some r =>
    if s.linkFenced l horiz || !r.started || r.phase ≠ .stepping || r.block.steps ≤ r.step then event s
    else
      let b := r.block
      let sw := perWord b.fmt.toNat
      let useA := !b.byp
      let useB := !b.sparse || b.byp || r.step % 2 == 0
      let mine := fun (w : Bool) (o : Open) => o.isOf (some (r.party w)) (r.seqOf w)
      match (e.side r.aWest).find? (mine r.aWest), (e.side (!r.aWest)).find? (mine (!r.aWest)) with
      | some oa, some ob =>
        let aw := oa.words.head?
        let bw := ob.words.head?
        if (useA && aw.isNone) || (useB && bw.isNone) then event s
        else
          let ca := s.partyOf oa
          let cb := s.partyOf ob
          let kA := sw * r.step
          let bIdx := if b.sparse && !b.byp then r.step / 2 else r.step
          let grp := if sw = 2 then bIdx else bIdx / 2
          let kB := if b.sparse then 4 * grp else sw * r.step
          let firstA := 32 * (kA / 32) / sw
          let firstB := if b.sparse && !b.byp then 2 * r.blockOf (32 * (kB / 32)) else if b.sparse then r.blockOf (32 * (kB / 32))
            else 32 * (kB / 32) / sw
          let newA := useA && r.step == firstA
          let newB := useB && r.step == firstB
          let metas := if b.sparse then (List.range 16).map fun i => ob.metaBase + 16 * grp + i else []
          let rec_ : StepRec :=
            { a := if useA then (aw.map Prod.fst).getD 0 else 0, b := if useB then (bw.map Prod.fst).getD 0 else 0,
              scaleA := if newA then scaleBytes ca oa.scaleBase b.k kA else if useA then (r.recs[firstA]?.map StepRec.scaleA).getD [] else [],
              scaleB := if newB then scaleBytes cb ob.scaleBase b.k kB else if useB then (r.recs[firstB]?.map StepRec.scaleB).getD [] else [],
              meta_ := if useB && b.sparse then cb.readLmem (ob.metaBase + 16 * grp) 16 else [] }
          let took := fun (use : Bool) (w : Bool) (o : Open) => if mine w o && use then { o with words := o.words.tail } else o
          let e1 := (e.setSide r.aWest ((e.side r.aWest).map (took useA r.aWest)))
          let e2 := e1.setSide (!r.aWest) ((e1.side (!r.aWest)).map (took useB (!r.aWest)))
          let s0 := s.setEngine { e2 with run := some { r with
            step := r.step + 1, recs := r.recs ++ [rec_], parityBad := r.parityBad || decide (8 < r.retries), retries := 0 } }
          let s1 := if r.retries = 0 || 8 < r.retries then s0
            else s0.countFixed (.core e.ref) ((s.launchAt r.west.launch).elim 64 Launch.tenant) r.retries
          event ((s1.noteParty oa.party (if newA then scaleAddrs oa.scaleBase b.k kA else [])).noteParty ob.party
            ((if newB then scaleAddrs ob.scaleBase b.k kB else []) ++ if useB then metas else []))
      | _, _ => event s
  | none => event s

/-- The bits of position `p` of a word, elements of `e` bits (R296). -/
def posBits (w : V512) (e p : Nat) : Nat := (w.toNat / 2 ^ (e * p)) % 2 ^ e

/-- The decoded element at position `p` of a word in a format (R67 to R72), unscaled. -/
def wordElem (fmt : Nat) (w : V512) (p : Nat) : FVal :=
  if fmt = 10 then
    let pr := i4xPair (posBits w 8 (p / 2))
    if p % 2 = 0 then pr.1 else pr.2
  else match fmtType fmt with
    | some (.flt f) => fdec f (posBits w f.width p)
    | some (.int n s) =>
      let v := intDec n s (posBits w n p)
      FVal.fin (v < 0) v.natAbs 0
    | none => .nan

/-- Times a scale byte, when the operand is scaled. -/
def scaled (v : FVal) (sc : List Byte) (row : Nat) : FVal :=
  match sc[row]? with
  | some b => v.mul (e8m0 b.toNat)
  | none => v

/-- Element A[i][k] of the contract (R296, R309). -/
def EngRun.elemA (r : EngRun) (i k : Nat) : FVal :=
  let fmt := r.block.fmt.toNat
  match r.byp with
  | some t => match fmtType fmt with
    | some (.flt f) => fdec f (fround f (t.vals[i * t.n + k]?.getD .nan))
    | _ => .nan
  | none =>
    let sw := perWord fmt
    match r.recs[k / sw]? with
    | some q => scaled (wordElem fmt q.a (i * sw + k % sw)) q.scaleA i
    | none => .nan

/-- Element B[k][j] (R296), and under 2:4 sparsity (R297) the kept value, or none at a pruned position; where the two kept values come in two
words, both positions are those that word 2g's read of the metadata gave. DESIGN CHOICE (log 56). -/
def EngRun.elemB (r : EngRun) (k j : Nat) : Option FVal :=
  let b := r.block
  let fmt := b.fmt.toNat
  let sw := perWord fmt
  if !b.sparse then
    match r.recs[k / sw]? with
    | some q => some (scaled (wordElem fmt q.b (j * sw + k % sw)) q.scaleB j)
    | none => some .nan
  else
    let g := k / 4
    let stride := if b.byp then 1 else 2
    let rec0 := if sw = 2 then r.recs[stride * g]? else r.recs[stride * (2 * g)]?
    match rec0 with
    | none => some .nan
    | some q0 =>
      let mb := (q0.meta_[j / 2]?.getD 0).toNat
      let nib := if j % 2 = 0 then mb % 16 else mb / 16
      let p0 := nib % 4
      let p1 := nib / 4
      if p1 ≤ p0 then some .nan
      else
        let v := fun (n : Nat) =>
          if sw = 2 then scaled (wordElem fmt q0.b (2 * j + n)) q0.scaleB j
          else match r.recs[stride * (2 * g + n)]? with
            | some q => scaled (wordElem fmt q.b j) q.scaleB j
            | none => .nan
        if k % 4 = p0 then some (v 0) else if k % 4 = p1 then some (v 1) else none

/-- The products along K of one output element; a pruned position is a zero product (R85, R297), whose sign is +. DESIGN CHOICE (log 98). -/
def EngRun.products (r : EngRun) (i j : Nat) : List FVal :=
  (List.range r.block.k).map fun k => match r.elemB k j with
    | some b => (r.elemA i k).mul b
    | none => FVal.fin false 0 0

/-- An integer contract's element: the sum modulo 2^32 (R86). -/
def intSum (ps : List FVal) : Nat :=
  (ps.foldl (fun (acc : Int) (v : FVal) => match v with | .fin n m e => acc + unitsOf n m e 0 | _ => acc) 0 % 2 ^ 32).toNat

/-- The delivered bits of an element and the value the held tile keeps (R308, R309). -/
def EngRun.element (r : EngRun) (i j : Nat) : Nat × FVal :=
  let b := r.block
  let fmt := b.fmt.toNat
  let ps := r.products i j
  if fmt = 8 || fmt = 9 then (intSum ps, let v := intDec 32 true (intSum ps); FVal.fin (v < 0) v.natAbs 0)
  else
    let gs := groupsOf (groupSize fmt) ps ps.length
    let c := gs.foldl accGroup (FVal.fin false 0 0)
    let out := match b.out.toNat with | 1 => fBF16 | 2 => fF16 | _ => fF32
    if b.rtout && out ≠ fF32 then
      let c0 := gs.dropLast.foldl accGroup (FVal.fin false 0 0)
      (fround out (groupSum c0 (gs.getLast?.getD [])), c)
    else (fround out c, c)

/-- Output element size and row stride (R307). -/
def Block.eo (b : Block) : Nat := if b.out = 1 || b.out = 2 then 2 else 4
def Block.rowStride (b : Block) : Nat := 64 * ceilDiv (b.n * b.eo) 64

/-- The tile as 64-byte elements, row padding zero (R307). -/
def EngRun.elements (r : EngRun) : List (List Byte) :=
  let b := r.block
  let bytes := (List.range b.m).flatMap fun i =>
    let row := (List.range b.n).flatMap fun j => natBytes b.eo (r.element i j).1
    sliceBytes row 0 b.rowStride
  (List.range (b.m * b.rowStride / 64)).map fun q => (bytes.drop (64 * q)).take 64

def EngRun.tileOf (r : EngRun) : Tile :=
  { m := r.block.m, n := r.block.n,
    vals := (List.range r.block.m).flatMap fun i => (List.range r.block.n).map fun j => (r.element i j).2 }

/-- An engine lets go of its running contract: both opens leave, and it may match again. -/
def State.retire (s : State) (ref : Loc) (horiz : Bool) (r : EngRun) (e : LinkEngine) : State :=
  (s.setEngine (({ e with run := none }.withdraw true (some r.west) (r.seqOf true)).withdraw false (some r.east) (r.seqOf false))).tryMatch ref horiz

/-- Both parties' ports show the result of a delivery (R310, R319); a thread that has ended has none. DEDUCED (log 79). -/
def State.tellResult (s : State) (horiz : Bool) (r : EngRun) (result : BitVec 4) : State :=
  let tell := fun (s : State) (west : Bool) =>
    s.modThread (r.party west) fun c => c.setPort (engineDir horiz west) { c.port (engineDir horiz west) with result := result }
  tell (tell s true) false

/-- The failed checks of R310 on a third party's window, in their order: the result of the record and the place of a difference. -/
def EngRun.failure (r : EngRun) (t : Core) : Option Delivery :=
  let w := t.wins[r.block.twin]?.getD Window.start
  if !w.init || w.half < r.block.m * r.block.rowStride then some { r.result with result := 4 }
  else match (if r.block.red then r.redDiff else none) with
    | some (i, j) => some { r.result with result := 2, row := i, col := j }
    | none => if r.parityBad then some { r.result with result := 3 } else none

/-- TILE_DRAIN_BEGIN (R307, R310 to R312): the last step is taken, both closes have landed, the third party's plot is resident and its
delivery queue has room. DEDUCED, DESIGN CHOICE (log 24, 79). -/
def execTileDrainBegin (l : Loc) (horiz : Bool) (s : State) : Host.Outcome State Fault Refusal :=
  let e := s.engineAt l horiz
  match e.run with
  | some r =>
    if s.linkFenced l horiz || r.phase ≠ .stepping || !e.stepsOver r then event s
    else match s.thirdOf r with
      | .waits => event s
      | .gone => event ((s.tellResult horiz r 5).retire l horiz r { e with held := none })
      | .ready t => match r.failure t with
        | some d => event (s.retire l horiz r { e with pending := e.pending ++ [{ r with phase := .draining 0, result := d }] })
        | none =>
          event (s.setEngine { e with run := some { r with
            phase := .draining 0, out := r.elements, tile := some r.tileOf, result := { r.result with result := 1 } } })
  | none => event s

/-- Bytes of an engine or a remote command reach a window's back half, at an offset. -/
def Core.writeBack (c : Core) (w off : Nat) (bs : List Byte) : Core :=
  { c with lmem := c.lmem.writeN ((c.wins[w]?.getD Window.start).back + off) bs }

/-- TILE_ELEMENT_APPLY (R307): the next element is written; after the last the engine takes its next contract. -/
def execTileElementApply (l : Loc) (horiz : Bool) (s : State) : Host.Outcome State Fault Refusal :=
  let e := s.engineAt l horiz
  match e.run with
  | some r =>
    match r.phase, r.out with
    | .draining q, el :: rest =>
      if s.linkFenced l horiz then event s else
      let s1 := s.modThread r.third fun c => c.writeBack r.block.twin (64 * q) el
      let r' := { r with phase := .draining (q + 1), out := rest }
      if rest.isEmpty then event (s1.retire l horiz r { e with pending := e.pending ++ [r'] })
      else event (s1.setEngine { e with run := some r' })
    | _, _ => event s
  | none => event s

/-- A delivery's record reaches its third party's window and counter (R307). -/
def EngRun.counted (r : EngRun) (c : Core) : Core :=
  let w := c.wins[r.block.twin]?.getD Window.start
  let k := r.block.twin % 8
  let n := c.ctrs[k]?.getD Counter.start
  { c with wins := c.wins.setIfInBounds r.block.twin { w with queue := w.queue ++ [r.result] },
           ctrs := c.ctrs.setIfInBounds k { n with count := n.count + 1 } }

/-- DELIVERY_COUNT (R307, R309): the oldest delivery's record is queued and counted. -/
def execDeliveryCount (l : Loc) (horiz : Bool) (s : State) : Host.Outcome State Fault Refusal :=
  let e := s.engineAt l horiz
  match e.pending with
  | [] => event s
  | r :: rest =>
    let held := if r.result.result = 1 then r.tile.map fun t => (r.west, r.east, t) else none
    event ((((s.modThread r.third r.counted).tellResult horiz r r.result.result).setEngine
      { e with pending := rest, held := held }).tryMatch l horiz)

/-- The thread is held by an instruction that pushes to a port (R314). -/
def Core.pushing (c : Core) (d : Dir) : Bool :=
  c.held && (match decode c.loc.kind c.ir.head c.ir.tail with
    | .ok i => (pushPorts i).contains d
    | .error _ => false)

/-- A core takes LINKSTALL for its contract `seq` (R314, R362): its port is in word mode again, and that contract over. A thread that has
ended takes nothing. -/
def Core.linkStalled (c : Core) (d : Dir) (seq : Option Nat) (id : BitVec 16) : Core :=
  let p := c.port d
  let gone := seq == some p.seq
  let c1 := c.setPort d { p with mode := .word, isOpen := p.isOpen && !gone, closed := p.closed && !gone, feed := none, reason := 5 }
  if c.run.isHalted || c.run = .idle then c1 else { c1 with linkstall := c1.linkstall ++ [(d.index, id)] }

/-- The partner's contract of an unmatched one: of the two threads' contracts at the engine, the one as far from the oldest. -/
def LinkEngine.counterpart (e : LinkEngine) (west : Bool) (mine : Option Place) (seq : Nat) (them : Option Place) : Option Nat :=
  let own := (e.side west).filter fun o => some o.party == mine
  let their := (e.side (!west)).filter fun o => some o.party == them
  (own.findIdx? fun o => o.seq == seq).bind fun i => their[i]?.map Open.seq

/-- LINK_WATCHDOG (R314): a feed that has found no room for 2^20 cycles; the contract is cancelled, and the cores of the launch at the link
take LINKSTALL. DESIGN CHOICE (log 38), DEDUCED (log 106). -/
def execLinkWatchdog (l : Loc) (d : Dir) (s : State) : Host.Outcome State Fault Refusal :=
  let c := s.coreAt l
  let p := c.port d
  let (ref, horiz, west) := engineOf l d
  let e := s.engineAt ref horiz
  let stuck := 8 ≤ e.fill west c.place && (match p.mode with
    | .word => false
    | .instr => c.pushing d
    | .direct => p.feed.isSome && p.fed < p.w)
  let draining := match e.run with | some r => r.phase ≠ .stepping && r.ofEnd west c.place p.seq | none => false
  if stuck && !draining then
    let there := s.placeAt c.placeOr.launch (engineEnd ref horiz (!west))
    let od := engineDir horiz (!west)
    let matched := e.run.filter fun r => r.ofEnd west c.place p.seq
    let their := match matched with
      | some r => some (r.seqOf (!west))
      | none => e.counterpart west c.place p.seq there
    let e1 := if matched.isSome then { e with run := none, held := none } else e
    let e2 := e1.withdraw west c.place p.seq
    let e3 := match their with
      | some q => e2.withdraw (!west) there q
      | none => e2
    let s1 := (s.setEngine e3).modCore l fun c => c.linkStalled d (some p.seq) p.id
    event ((match there with
      | some t => s1.modThread t fun k => k.linkStalled od their p.id
      | none => s1).tryMatch ref horiz)
  else event s

/-- What a completed plot's party leaves at the engines: the local memory that a closed contract of it still reads (R325). -/
def LinkEngine.keepParty (e : LinkEngine) (c : Core) : LinkEngine :=
  let keep := fun (o : Open) => if some o.party == c.place then { o with kept := some c.lmem } else o
  { e with w := e.w.map keep, e := e.e.map keep }

/-- A launch's contracts, words and tiles leave an engine with it (R16). -/
def LinkEngine.dropLaunch (e : LinkEngine) (lid : Nat) : LinkEngine :=
  { e with
    w := e.w.filter fun o => o.party.launch ≠ lid
    e := e.e.filter fun o => o.party.launch ≠ lid
    run := e.run.filter fun r => r.west.launch ≠ lid
    pending := e.pending.filter fun r => r.west.launch ≠ lid
    held := e.held.filter fun t => t.1.launch ≠ lid }

end Sys2Proof.Machine
end

