-- ==== Sys2Proof/Machine/Scalar.lean ====
section
/-! DEFINITION. Sys2Proof/Machine/Scalar.lean: integer arithmetic, compares, guards, local loads and stores (R88 to R103). -/

namespace Sys2Proof.Machine

/-! ## Shared by the scalar entries -/

/-- An instruction that writes one x register a value of the state. -/
def writeX (c : Ctl) (d : XReg) (f : State → W64) (s : State) : Host.Outcome State Fault Refusal :=
  run c s fun s => .ok (s.setX d (f s))

/-- An instruction that writes one guard. -/
def writeG (c : Ctl) (d : GReg) (f : State → Bool) (s : State) : Host.Outcome State Fault Refusal :=
  run c s fun s => .ok (s.setG d (f s))

/-- A member of 0x02 on 64 bits, or of 0x03 on the low 32 bits with a sign-extended result (R90, R91). -/
def sized (w : Bool) (f : (n : Nat) → BitVec n → BitVec n → BitVec n) (a b : W64) : W64 :=
  if w then (f 32 (a.setWidth 32) (b.setWidth 32)).signExtend 64 else f 64 a b

def addN (n : Nat) (a b : BitVec n) : BitVec n := a + b
def subN (n : Nat) (a b : BitVec n) : BitVec n := a - b
def andN (n : Nat) (a b : BitVec n) : BitVec n := a &&& b
def orN (n : Nat) (a b : BitVec n) : BitVec n := a ||| b
def xorN (n : Nat) (a b : BitVec n) : BitVec n := a ^^^ b
def andnN (n : Nat) (a b : BitVec n) : BitVec n := a &&& ~~~b
/-- Shifts and rotates take their count modulo the width: b[5:0] or b[4:0]. -/
def shlN (n : Nat) (a b : BitVec n) : BitVec n := a <<< (b.toNat % n)
def shrN (n : Nat) (a b : BitVec n) : BitVec n := a >>> (b.toNat % n)
def sarN (n : Nat) (a b : BitVec n) : BitVec n := a.sshiftRight (b.toNat % n)
def rotN (n : Nat) (a b : BitVec n) : BitVec n := a.rotateRight (b.toNat % n)
def minN (n : Nat) (a b : BitVec n) : BitVec n := if a.slt b then a else b
def maxN (n : Nat) (a b : BitVec n) : BitVec n := if a.slt b then b else a
def minuN (n : Nat) (a b : BitVec n) : BitVec n := if a.ult b then a else b
def maxuN (n : Nat) (a b : BitVec n) : BitVec n := if a.ult b then b else a

/-! ## R23 -/

/-- NOP. -/
def execNop (c : Ctl) (s : State) : Host.Outcome State Fault Refusal := run c s fun s => .ok s

/-! ## R90, R91 -/

def execAdd (w : Bool) (d b a : XReg) (c : Ctl) (s : State) : Host.Outcome State Fault Refusal :=
  writeX c d (fun s => sized w addN (s.x a) (s.x b)) s
def execSub (w : Bool) (d b a : XReg) (c : Ctl) (s : State) : Host.Outcome State Fault Refusal :=
  writeX c d (fun s => sized w subN (s.x a) (s.x b)) s
def execAnd (w : Bool) (d b a : XReg) (c : Ctl) (s : State) : Host.Outcome State Fault Refusal :=
  writeX c d (fun s => sized w andN (s.x a) (s.x b)) s
def execOr (w : Bool) (d b a : XReg) (c : Ctl) (s : State) : Host.Outcome State Fault Refusal :=
  writeX c d (fun s => sized w orN (s.x a) (s.x b)) s
def execXor (w : Bool) (d b a : XReg) (c : Ctl) (s : State) : Host.Outcome State Fault Refusal :=
  writeX c d (fun s => sized w xorN (s.x a) (s.x b)) s
def execAndn (w : Bool) (d b a : XReg) (c : Ctl) (s : State) : Host.Outcome State Fault Refusal :=
  writeX c d (fun s => sized w andnN (s.x a) (s.x b)) s
def execShl (w : Bool) (d b a : XReg) (c : Ctl) (s : State) : Host.Outcome State Fault Refusal :=
  writeX c d (fun s => sized w shlN (s.x a) (s.x b)) s
def execShr (w : Bool) (d b a : XReg) (c : Ctl) (s : State) : Host.Outcome State Fault Refusal :=
  writeX c d (fun s => sized w shrN (s.x a) (s.x b)) s
def execSar (w : Bool) (d b a : XReg) (c : Ctl) (s : State) : Host.Outcome State Fault Refusal :=
  writeX c d (fun s => sized w sarN (s.x a) (s.x b)) s
def execRot (w : Bool) (d b a : XReg) (c : Ctl) (s : State) : Host.Outcome State Fault Refusal :=
  writeX c d (fun s => sized w rotN (s.x a) (s.x b)) s
def execMin (w : Bool) (d b a : XReg) (c : Ctl) (s : State) : Host.Outcome State Fault Refusal :=
  writeX c d (fun s => sized w minN (s.x a) (s.x b)) s
def execMax (w : Bool) (d b a : XReg) (c : Ctl) (s : State) : Host.Outcome State Fault Refusal :=
  writeX c d (fun s => sized w maxN (s.x a) (s.x b)) s
def execMinn (w : Bool) (d b a : XReg) (c : Ctl) (s : State) : Host.Outcome State Fault Refusal :=
  writeX c d (fun s => sized w minuN (s.x a) (s.x b)) s
def execMaxn (w : Bool) (d b a : XReg) (c : Ctl) (s : State) : Host.Outcome State Fault Refusal :=
  writeX c d (fun s => sized w maxuN (s.x a) (s.x b)) s

/-! ## R92 to R94 -/

def execAddi (d a : XReg) (i : BitVec 16) (c : Ctl) (s : State) : Host.Outcome State Fault Refusal :=
  writeX c d (fun s => s.x a + i.signExtend 64) s
def execAndi (d a : XReg) (i : BitVec 16) (c : Ctl) (s : State) : Host.Outcome State Fault Refusal :=
  writeX c d (fun s => s.x a &&& i.signExtend 64) s
def execOri (d a : XReg) (i : BitVec 16) (c : Ctl) (s : State) : Host.Outcome State Fault Refusal :=
  writeX c d (fun s => s.x a ||| i.signExtend 64) s
def execXori (d a : XReg) (i : BitVec 16) (c : Ctl) (s : State) : Host.Outcome State Fault Refusal :=
  writeX c d (fun s => s.x a ^^^ i.signExtend 64) s
def execShli (d a : XReg) (n : BitVec 6) (c : Ctl) (s : State) : Host.Outcome State Fault Refusal :=
  writeX c d (fun s => s.x a <<< n.toNat) s
def execShri (d a : XReg) (n : BitVec 6) (c : Ctl) (s : State) : Host.Outcome State Fault Refusal :=
  writeX c d (fun s => s.x a >>> n.toNat) s
def execSari (d a : XReg) (n : BitVec 6) (c : Ctl) (s : State) : Host.Outcome State Fault Refusal :=
  writeX c d (fun s => (s.x a).sshiftRight n.toNat) s
def execRoti (d a : XReg) (n : BitVec 6) (c : Ctl) (s : State) : Host.Outcome State Fault Refusal :=
  writeX c d (fun s => (s.x a).rotateRight n.toNat) s

/-- LI (R93). -/
def execLi (d : XReg) (i : BitVec 16) (c : Ctl) (s : State) : Host.Outcome State Fault Refusal :=
  writeX c d (fun _ => i.signExtend 64) s

/-- Bits [16k+15:16k] of a word replaced (R94). -/
def putChunk (a : W64) (k : BitVec 2) (i : BitVec 16) : W64 :=
  (a &&& ~~~((0xFFFF : W64) <<< (16 * k.toNat))) ||| (i.setWidth 64 <<< (16 * k.toNat))

/-- LIC (R94). -/
def execLic (d a : XReg) (k : BitVec 2) (i : BitVec 16) (c : Ctl) (s : State) : Host.Outcome State Fault Refusal :=
  writeX c d (fun s => putChunk (s.x a) k i) s

/-! ## R95 -/

def mulHigh (a b : W64) : W64 := ((a.signExtend 128) * (b.signExtend 128)).extractLsb' 64 64
def mulHighN (a b : W64) : W64 := ((a.setWidth 128) * (b.setWidth 128)).extractLsb' 64 64
/-- The signed quotient, truncated toward zero; all ones for b = 0, and −2^63 for −2^63 / −1. -/
def divS (a b : W64) : W64 := if b = 0 then BitVec.allOnes 64 else a.sdiv b
def divU (a b : W64) : W64 := if b = 0 then BitVec.allOnes 64 else a.udiv b
def remS (a b : W64) : W64 := if b = 0 then a else a.srem b
def remU (a b : W64) : W64 := if b = 0 then a else a.umod b

def execMul (d b a : XReg) (c : Ctl) (s : State) : Host.Outcome State Fault Refusal := writeX c d (fun s => s.x a * s.x b) s
def execMulh (d b a : XReg) (c : Ctl) (s : State) : Host.Outcome State Fault Refusal :=
  writeX c d (fun s => mulHigh (s.x a) (s.x b)) s
def execMulhn (d b a : XReg) (c : Ctl) (s : State) : Host.Outcome State Fault Refusal :=
  writeX c d (fun s => mulHighN (s.x a) (s.x b)) s
def execDiv (d b a : XReg) (c : Ctl) (s : State) : Host.Outcome State Fault Refusal := writeX c d (fun s => divS (s.x a) (s.x b)) s
def execDivn (d b a : XReg) (c : Ctl) (s : State) : Host.Outcome State Fault Refusal := writeX c d (fun s => divU (s.x a) (s.x b)) s
def execRem (d b a : XReg) (c : Ctl) (s : State) : Host.Outcome State Fault Refusal := writeX c d (fun s => remS (s.x a) (s.x b)) s
def execRemn (d b a : XReg) (c : Ctl) (s : State) : Host.Outcome State Fault Refusal := writeX c d (fun s => remU (s.x a) (s.x b)) s

/-! ## R96 -/

def clzN (a : W64) : W64 := if a = 0 then 64 else w64 (63 - Nat.log2 a.toNat)
def brevN (a : W64) : W64 := a.reverse
def ctzN (a : W64) : W64 := clzN (brevN a)
def popcN (a : W64) : W64 := w64 ((List.range 64).filter fun i => a.getLsbD i).length
def bswapN (a : W64) : W64 := w64 (leNat (natBytes 8 a.toNat).reverse)

def execClz (d a : XReg) (c : Ctl) (s : State) : Host.Outcome State Fault Refusal := writeX c d (fun s => clzN (s.x a)) s
def execCtz (d a : XReg) (c : Ctl) (s : State) : Host.Outcome State Fault Refusal := writeX c d (fun s => ctzN (s.x a)) s
def execPopc (d a : XReg) (c : Ctl) (s : State) : Host.Outcome State Fault Refusal := writeX c d (fun s => popcN (s.x a)) s
def execBrev (d a : XReg) (c : Ctl) (s : State) : Host.Outcome State Fault Refusal := writeX c d (fun s => brevN (s.x a)) s
def execBswap (d a : XReg) (c : Ctl) (s : State) : Host.Outcome State Fault Refusal := writeX c d (fun s => bswapN (s.x a)) s

/-! ## R97, R98 -/

/-- The field of R97. -/
def field (a : W64) (pos width : BitVec 6) : W64 := zextTo64 width.toNat (a >>> pos.toNat)
/-- The mask of R98. -/
def fieldMask (pos width : BitVec 6) : W64 := (zextTo64 width.toNat (BitVec.allOnes 64)) <<< pos.toNat

def execBfx (d a : XReg) (pos width : BitVec 6) (c : Ctl) (s : State) : Host.Outcome State Fault Refusal :=
  writeX c d (fun s => field (s.x a) pos width) s
def execBfxs (d a : XReg) (pos width : BitVec 6) (c : Ctl) (s : State) : Host.Outcome State Fault Refusal :=
  writeX c d (fun s => sextTo64 width.toNat (field (s.x a) pos width)) s
def execBfi (d b a : XReg) (pos width : BitVec 6) (c : Ctl) (s : State) : Host.Outcome State Fault Refusal :=
  writeX c d (fun s =>
    (s.x b &&& ~~~(fieldMask pos width)) ||| ((s.x a <<< pos.toNat) &&& fieldMask pos width)) s

/-! ## R99 to R102 -/

def execCmp (d : GReg) (cc : Cond) (b a : XReg) (c : Ctl) (s : State) : Host.Outcome State Fault Refusal :=
  writeG c d (fun s => condHolds cc (s.x a) (s.x b)) s
def execCmpi (d : GReg) (cc : Cond) (a : XReg) (i : BitVec 16) (c : Ctl) (s : State) : Host.Outcome State Fault Refusal :=
  writeG c d (fun s => condHolds cc (s.x a) (cmpImm cc i)) s
def execGand (d b a : GReg) (c : Ctl) (s : State) : Host.Outcome State Fault Refusal :=
  writeG c d (fun s => s.core.getG a && s.core.getG b) s
def execGor (d b a : GReg) (c : Ctl) (s : State) : Host.Outcome State Fault Refusal :=
  writeG c d (fun s => s.core.getG a || s.core.getG b) s
def execGxor (d b a : GReg) (c : Ctl) (s : State) : Host.Outcome State Fault Refusal :=
  writeG c d (fun s => s.core.getG a != s.core.getG b) s
def execGandn (d b a : GReg) (c : Ctl) (s : State) : Host.Outcome State Fault Refusal :=
  writeG c d (fun s => s.core.getG a && !s.core.getG b) s

/-- SEL (R101). -/
def execSel (d b a : XReg) (g : GReg) (c : Ctl) (s : State) : Host.Outcome State Fault Refusal :=
  writeX c d (fun s => if s.core.getG g then s.x a else s.x b) s

/-- The eight guards as a word, `g0` reading true (R102). -/
def Core.guards (c : Core) : BitVec 8 := c.g ||| 1

/-- GTOX. -/
def execGtox (d : XReg) (c : Ctl) (s : State) : Host.Outcome State Fault Refusal :=
  writeX c d (fun s => s.core.guards.setWidth 64) s
/-- XTOG. -/
def execXtog (a : XReg) (c : Ctl) (s : State) : Host.Outcome State Fault Refusal :=
  run c s fun s => .ok (s.onCore fun k => { k with g := (s.x a).setWidth 8 ||| 1 })

/-! ## Local loads and stores (R17, R103, R224, R369) -/

/-- On a slice core LDL and STL address only the invocation's data area and, for MSG, its message buffer (R346). -/
def State.handlerOk (s : State) (a n : Nat) : Bool :=
  if s.core.loc.kind = .slice then
    match (s.sliceAt (16 * s.core.loc.die + s.core.loc.x)).inv with
    | some v => (v.reg.dataAt ≤ a && a + n ≤ v.reg.dataAt + v.reg.dlen) || (v.trig.kind == .msg && 0x7FC0 ≤ a && a + n ≤ 0x8000)
    | none => false
  else true

/-- The checks of a local access of `n` bytes aligned to `al`, in the order of R103, then R224's and R346's. -/
def localAccess (s : State) (a : W64) (n al : Nat) (k : Res) : Res :=
  if a.toNat % al ≠ 0 then misalign a
  else if 0x30000 ≤ a.toNat then protect a
  else if s.core.inStash a.toNat n || !s.handlerOk a.toNat n then protect a
  else k

/-- LDL. -/
def execLdl (d a : XReg) (sz : LdSize) (off : BitVec 16) (c : Ctl) (s : State) : Host.Outcome State Fault Refusal :=
  run c s fun s =>
    let at_ := s.x a + off.signExtend 64
    let n := LdSize.bytes sz
    localAccess s at_ n n
      (.ok ((s.setX d (loadValue sz (s.core.readLmem at_.toNat n))).noteBad at_.toNat n))

/-- STL. -/
def execStl (d a : XReg) (sz : StSize) (off : BitVec 16) (c : Ctl) (s : State) : Host.Outcome State Fault Refusal :=
  run c s fun s =>
    let at_ := s.x a + off.signExtend 64
    let n := StSize.bytes sz
    localAccess s at_ n n
      (.ok (s.onCore fun k => { k with lmem := k.lmem.writeN at_.toNat (natBytes n (s.x d).toNat) }))

end Sys2Proof.Machine
end

