-- ==== Sys2Proof/Machine/Control.lean ====
section
/-! DEFINITION. Sys2Proof/Machine/Control.lean: control transfer, SVC and BRK (R111 to R116). -/

namespace Sys2Proof.Machine

/-- A transfer: the target is checked (R22), then the member's own effect and the new PC take effect; a gang member's outcome is
compared with the other members' (R126). A target in the line the transfer stands in makes no fetch (R291). -/
def transfer (s : State) (target : W64) (f : State → State) : Res :=
  let kept := if s.core.sameLine target then some target else none
  checkTarget s target fun s => .goto (((f s).gangTransfer (some target)).onCore fun c => { c with kept := kept }) target

/-- `lr` is x31 (R14). -/
def lr : XReg := 31

/-- The target of a half-word offset from the instruction's own address. -/
def rel16 (s : State) (i : BitVec 16) : W64 := s.core.pc + 2 * i.signExtend 64
def rel32 (s : State) (off : BitVec 32) : W64 := s.core.pc + 2 * off.signExtend 64

/-- A transfer not taken is an outcome of its own (R126). -/
def notTaken (s : State) : Res := .ok (s.gangTransfer none)

/-- A control transfer: one that a false guard skips is not taken, and that is its outcome (R57, R126). -/
def runTransfer (ctl : Ctl) (s : State) (body : State → Res) : Host.Outcome State Fault Refusal :=
  if enabled ctl s.core then run ctl s body else .next ((s.gangTransfer none).advance.delayed ctl)

/-- BR (R112). -/
def execBr (g : BitVec 4) (i : BitVec 16) (c : Ctl) (s : State) : Host.Outcome State Fault Refusal :=
  runTransfer c s fun s => if guardTerm s.core g then transfer s (rel16 s i) id else notTaken s

/-- JMP (R113). -/
def execJmp (off : BitVec 32) (c : Ctl) (s : State) : Host.Outcome State Fault Refusal :=
  runTransfer c s fun s => transfer s (rel32 s off) id

/-- CALL (R113). -/
def execCall (off : BitVec 32) (c : Ctl) (s : State) : Host.Outcome State Fault Refusal :=
  runTransfer c s fun s => transfer s (rel32 s off) fun t => t.setX lr s.core.npc

/-- JR (R114). -/
def execJr (a : XReg) (c : Ctl) (s : State) : Host.Outcome State Fault Refusal := runTransfer c s fun s => transfer s (s.x a) id

/-- CALLR (R114). -/
def execCallr (a : XReg) (c : Ctl) (s : State) : Host.Outcome State Fault Refusal :=
  runTransfer c s fun s => transfer s (s.x a) fun t => t.setX lr s.core.npc

/-- LOOP (R115). -/
def execLoop (d : XReg) (i : BitVec 16) (c : Ctl) (s : State) : Host.Outcome State Fault Refusal :=
  runTransfer c s fun s =>
    let n := s.x d - 1
    if n ≠ 0 then transfer s (rel16 s i) fun t => t.setX d n else notTaken (s.setX d 0)

/-- The trap of SVC and BRK (R116). -/
def svcTrap (s : State) (code : Nat) (imm : BitVec 6) : Res :=
  .trap { code := code, i0 := imm.setWidth 64, i1 := s.core.npc, i2 := 0, i3 := 0 }

/-- SVC. -/
def execSvc (code : BitVec 6) (c : Ctl) (s : State) : Host.Outcome State Fault Refusal := run c s fun s => svcTrap s 0x17 code
/-- BRK. -/
def execBrk (code : BitVec 6) (c : Ctl) (s : State) : Host.Outcome State Fault Refusal := run c s fun s => svcTrap s 0x16 code

end Sys2Proof.Machine
end

