-- ==== Sys2Proof/Machine/Engine.lean ====
section
/-! DEFINITION. Sys2Proof/Machine/Engine.lean: completion counters, the engine commands XCOPY, GETX, PLACEX, COMPACT and SLMSG, the
channels, and the moves every command takes (R263, R326 to R338, R345, R390 to R394). -/

namespace Sys2Proof.Machine

/-! ## Completion counters (R327, R328) -/

/-- OUT: this core's commands on a counter that have not completed or faulted. -/
def Core.outOf (c : Core) (k : Nat) : Nat := (c.cmds.filter fun m => m.ctr = k).length

/-- CCNT.WAIT. -/
def execCcntWait (k : BitVec 3) (a : XReg) (c : Ctl) (s : State) : Host.Outcome State Fault Refusal :=
  run c s fun s =>
    let t := s.core.ctrs[k.toNat]
    if s.core.acquiring then .hold s
    else if t.fault then
      .trapIn (s.onCore fun c => { c with ctrs := c.ctrs.set k.toNat { t with fault := false } })
        { code := 0x19, i0 := t.record[0], i1 := t.record[1], i2 := t.record[2], i3 := t.record[3] }
    else if evReady t.count ((s.x a).setWidth 32) then .ok s
    else .hold s

/-- CCNT.RD. -/
def execCcntRd (d : XReg) (k : BitVec 3) (c : Ctl) (s : State) : Host.Outcome State Fault Refusal :=
  run c s fun s =>
    let t := s.core.ctrs[k.toNat]
    .ok (s.setX d (w64 (t.count.toNat + s.core.outOf k.toNat * 2 ^ 32 + (if t.fault then 2 ^ 40 else 0) + t.fcount.toNat * 2 ^ 48)))

/-- CCNT.SET. -/
def execCcntSet (k : BitVec 3) (a : XReg) (c : Ctl) (s : State) : Host.Outcome State Fault Refusal :=
  run c s fun s =>
    let t := s.core.ctrs[k.toNat]
    let clear := (s.x a).getLsbD 40
    let t' := { t with count := (s.x a).setWidth 32, fault := t.fault && !clear, fcount := if clear then 0 else t.fcount }
    .ok (s.onCore fun c => { c with ctrs := c.ctrs.set k.toNat t' })

/-! ## Issue, completion and faults of a command (R326, R329) -/

/-- A thread's CHAN.SENDs whose slots are still on their way. -/
def State.sends (s : State) (c : Core) : Nat :=
  (s.msgs.filter fun m => match m with
    | .chanData lid _ _ src _ _ _ => (c.place.any fun p => p.launch == lid) && src == s.coreIndex c
    | _ => false).length

/-- The engine commands of a thread that are issued and have not completed or faulted, CHAN.SEND among them (R326). -/
def State.inFlight (s : State) (c : Core) : Nat := c.cmds.length + s.sends c

/-- A command that passed its checks is issued, with the HINT of its control word (R58), or stalls while 32 are in flight. -/
def issueCmd (s : State) (ctr opc : Nat) (kind : CmdKind) (hint : Nat := 0) : Res :=
  if 32 ≤ s.inFlight s.core then .hold s
  else
    let m : Cmd := { id := s.core.cmdNo, pos := s.core.pos, ctr := ctr, opc := opc, pc := s.core.pc, kind := kind, started := false,
                     idx := 0, kept := 0, buf := none, src := [], dst := [], key := none, made := 0, hint := hint, req := [], wreq := [], eq := [], done := false, paused := false }
    .ok (s.onCore fun c => { c with cmds := c.cmds ++ [m], cmdNo := c.cmdNo + 1, pos := c.pos + 1 })

def Core.dropCmd (c : Core) (id : Nat) : Core := { c with cmds := c.cmds.filter fun m => m.id ≠ id }
def Core.setCmd (c : Core) (m : Cmd) : Core := { c with cmds := c.cmds.map fun n => if n.id = m.id then m else n }

/-- A fault is recorded on a counter (R329): FCOUNT saturates, the first fault stays on record. -/
def Core.recordFault (c : Core) (ctr : Nat) (rec_ : Vector W64 4) : Core :=
  let t := c.ctrs[ctr]?.getD Counter.start
  let fc := if t.fcount = 255 then t.fcount else t.fcount + 1
  { c with ctrs := c.ctrs.setIfInBounds ctr (if t.fault then { t with fcount := fc } else { t with fault := true, fcount := fc, record := rec_ }) }

/-- A command stops on a fault after issue (R329). -/
def State.stopCmd (s : State) (l : Loc) (m : Cmd) (cause idx addr : Nat) : State :=
  s.modCore l fun c => (c.dropCmd m.id).recordFault m.ctr
    #v[w64 cause, w64 (idx % 65536 + m.opc * 65536 + m.ctr * 2 ^ 24), w64 addr, m.pc]

/-! ## Reads and writes of an engine (R263, R336, R369) -/

/-- What an engine's access meets: bytes, with the physical addresses or the local ranges they were read at; nothing yet; a target that is
not resident; a fault; a bad block of a core's local memory. -/
inductive EngRead where
  | bytes (bs : List Byte) (pas : List Nat) (own : List (Loc × Nat × Nat))
  | wait
  | away
  | stop (cause addr : Nat)
  | bad (l : Loc) (addr : Nat)
deriving DecidableEq, Repr

/-- `n` global bytes through the view of the issuing core's die. -/
def State.readGlobal (s : State) (c : Core) (va : Nat) : Nat → EngRead
  | 0 => .bytes [] [] []
  | n + 1 =>
    match s.agentTr c va Access.read with
    | .hit pa pte =>
      if s.isPoisoned pa then .stop 0x15 va
      else match State.readGlobal s c (va + 1) n with
        | .bytes r ps _ => .bytes (s.engineByte c.loc.die (pteKey pte) pa :: r) (pa :: ps) []
        | e => e
    | .wait | .miss => .wait
    | .refuse code _ => .stop code va

/-- `n` local bytes of a core; a bad block is an error of its owner, and stops the command (R369). -/
def readLocal (c : Core) (a n : Nat) : EngRead :=
  match (List.range n).find? fun i => c.badLocal.contains ((a + i) / 64) with
  | some i => .bad c.loc (a + i)
  | none => .bytes (c.lmem.readN a n) [] [(c.loc, a, n)]

/-- What holds or refuses an engine's write: a write held under R246, another wait, a fault with its address. -/
inductive EngHeld where
  | locked
  | away
  | wait
  | stop (cause addr : Nat)
deriving DecidableEq, Repr

/-- The physical addresses of `n` global bytes for a write, with their leaves, or what it meets. -/
def State.writeAddrs (s : State) (c : Core) (va : Nat) : Nat → Except EngHeld (List (Nat × W64))
  | 0 => .ok []
  | n + 1 =>
    match s.agentTr c va Access.store with
    | .hit pa pte => match State.writeAddrs s c (va + 1) n with
      | .ok r => .ok ((pa, pte) :: r)
      | .error e => .error e
    | .wait | .miss => .error (match s.translateCore c va Access.read with
      | .hit _ pte => if pteLock pte then .locked else .wait
      | _ => .wait)
    | .refuse code _ => .error (.stop code va)

/-- Bytes with their physical addresses and leaves as stores of consecutive bytes within a line. -/
def storeRuns : List ((Nat × W64) × Byte) → List (Nat × W64 × List Byte)
  | [] => []
  | ((pa, pte), b) :: r => match storeRuns r with
    | (pa', pte', bs) :: t => if pa' = pa + 1 && pa' % 128 ≠ 0 then (pa, pte, b :: bs) :: t else (pa, pte, [b]) :: (pa', pte', bs) :: t
    | [] => [(pa, pte, [b])]

/-- A global write of an engine enters M as a `.dev` store would, or the outbound queue for a host aperture (R254, R263); every core's stash
entry of the line is recalled, the issuing core's too (R224). -/
def State.placeEngine (s : State) (c : Core) (pas : List (Nat × W64)) (data : List Byte) : State :=
  (storeRuns (pas.zip data)).foldl (fun s e =>
    if isHost e.1 then
      { s with ob := s.ob ++ [{ owner := .core c.loc, pos := 0, pa := e.1, data := e.2.2, at_ := s.cycle, key := 0 }] }
    else s.placeM none (pteKey e.2.1) e.1 e.2.2) s

/-- The requests of an engine's global write, one for each line (R232). -/
def State.writeReqs (s : State) (c : Core) (hint : Nat) (pas : List (Nat × W64)) (data : List Byte) : State :=
  (storeRuns (pas.zip data)).foldl (fun s e => s.request .engine c.loc c.tenantNo e.1 e.1 e.2.1 .partialWrite hint false) s

/-- The requests of a command's read of `n` global bytes, one for each line (R232): sent by the agent that reads, for the command's core. -/
def State.engineReq (s : State) (c : Core) (l : Loc) (hint va n : Nat) : State :=
  let ask := fun (s : State) (a : Nat) => match s.agentTr c a Access.read with
    | .hit pa pte => s.requestFrom c.loc.die .engine l c.tenantNo a pa pte .read hint false
    | _ => s
  if va / 128 = (va + n - 1) / 128 then ask s va else ask (ask s va) ((va + n - 1) / 128 * 128)

/-! ## XCOPY (R331 to R333) -/

/-- The format and SCALED state of a side: the field's, or its bank's. -/
def sideFmt (c : Core) (bank : Bool) (field a : Nat) : Nat × Bool :=
  if bank then
    let b := (c.bankfmt[a / 0x4000]?.getD 0)
    let f := bitsOf b 3 0
    (f, b.getLsbD 4 || f == 7 || f == 10)
  else (field, field == 7 || field == 10)

/-- The bytes of `n` elements of a format. -/
def fmtBytes (fmt n : Nat) : Nat := n * fmtBits fmt / 8

/-- Element alignment of a format: 1 for the sub-byte ones. -/
def fmtAlign (fmt : Nat) : Nat := if fmtBits fmt < 8 then 1 else fmtBits fmt / 8

/-- XCOPY's issue checks (R332). -/
def execXcopy (k : BitVec 3) (a b e : XReg) (dir : BitVec 2) (dfmt sfmt : BitVec 4) (c : Ctl) (s : State) :
    Host.Outcome State Fault Refusal :=
  run c s fun s =>
    let w := s.x e
    let dst := (s.x a).toNat
    let src := (s.x b).toNat
    let n := bitsOf w 23 0
    let rm := bitsOf w 26 24
    let sat := w.getLsbD 27
    let sbank := w.getLsbD 28
    let dbank := w.getLsbD 29
    let sg := dir.getLsbD 0
    let dg := dir.getLsbD 1
    if bitsOf w 63 30 ≠ 0 || 4 ≤ rm || (sbank && (sg || sfmt ≠ 0)) || (dbank && (dg || dfmt ≠ 0)) then usage s
    else
      let sf := sideFmt s.core sbank sfmt.toNat src
      let df := sideFmt s.core dbank dfmt.toNat dst
      let conv := fun (f : Nat × Bool) => !f.2 && (fmtType f.1).isSome
      if fmtReserved sf.1 || fmtReserved df.1 then trapAt 0x0C 0
      else if !(sf == df || (conv sf && conv df)) then usage s
      else if n * fmtBits sf.1 % 8 ≠ 0 || n * fmtBits df.1 % 8 ≠ 0 || (fmtBits sf.1 = 6 && n % 4 ≠ 0) || (fmtBits df.1 = 6 && n % 4 ≠ 0) then
        usage s
      else if dst % fmtAlign df.1 ≠ 0 then misalign (s.x a)
      else if src % fmtAlign sf.1 ≠ 0 then misalign (s.x b)
      else
        let dn := fmtBytes df.1 n
        let sn := fmtBytes sf.1 n
        let bad := fun (g bank : Bool) (at_ len : Nat) =>
          !g && (0x30000 < at_ + len || 0x30000 ≤ at_ || s.core.inStash at_ len || (bank && len != 0 && at_ / 0x4000 != (at_ + len - 1) / 0x4000))
        if bad dg dbank dst dn then protect (s.x a)
        else if bad sg sbank src sn then protect (s.x b)
        else if sg == dg && overlaps dst dn src sn then usage s
        else withAssist s (fmtBits sf.1 = 6 || fmtBits df.1 = 6) fun s =>
          let mode : RM := if rm = 1 then .rz else if rm = 2 then .ru else if rm = 3 then .rd else .rne
          issueCmd s k.toNat 0xA1 (.xcopy dst src n dir (BitVec.ofNat 4 df.1) (BitVec.ofNat 4 sf.1) mode sat) (hintOf c)

/-- Convert a chunk's elements (R333): equal formats copy the bytes. -/
def convertChunk (sf df : Nat) (rm : RM) (sat : Bool) (n : Nat) (bs : List Byte) : List Byte :=
  if sf = df then bs
  else match fmtType sf, fmtType df with
    | some st, some dt =>
      let v := leNat bs
      let out := (List.range n).foldl (fun acc i =>
        acc + convert dt rm sat 0 (st.dec ((v / 2 ^ (i * st.width)) % 2 ^ st.width)) * 2 ^ (i * dt.width)) 0
      natBytes (n * dt.width / 8) out
    | _, _ => bs

/-! ## GETX and PLACEX (R334 to R336) -/

/-- The access descriptor's fields (R334): BASE, BOUND, STRIDE, WIN, KIND, CORE, and its must-be-zero bits. -/
structure AccDesc where
  base : Nat
  bound : Nat
  stride : Nat
  win : Nat
  kind : Nat
  core : Nat
  mbz : Bool
deriving DecidableEq, Repr

def parseAcc (bs : List Byte) : AccDesc :=
  let w := fieldNat bs 0x10 4
  { base := fieldNat bs 0 8, bound := fieldNat bs 8 4, stride := fieldNat bs 0xC 4, win := w / 16 % 16, kind := w % 4,
    core := fieldNat bs 0x14 4, mbz := w / 256 == 0 && w / 4 % 4 == 0 && fieldNat bs 0x18 8 == 0 }

/-- 32-bit lane i of a vector, as a number. -/
def lane32 (v : V512) (i : Nat) : Nat := v.toNat / 2 ^ (32 * i) % 2 ^ 32

/-- The first lane that fails a check of R335, in ascending order, each lane's checks in order. -/
def laneFault (pc : W64) (d : AccDesc) (e : Nat) : List (Nat × Nat × Nat) → Option Res
  | [] => none
  | (lane, idx, addr) :: r =>
    if d.bound ≤ idx then some (trapLane 0x0A lane (w64 idx) pc)
    else if addr % e ≠ 0 then some (trapLane 0x0B lane 0 (w64 addr))
    else if d.kind = 1 && 0x30000 < addr + e then some (trapLane 0x09 lane 0 (w64 addr))
    else laneFault pc d e r

/-- The issue of GETX and PLACEX. -/
def oneSided (s : State) (k : BitVec 3) (opc : Nat) (a : XReg) (ix : BitVec 5) (e : XReg) (m : BitVec 3) (esz : Fin 7) (hint : Nat) : Res :=
  let sz := 2 ^ esz.val
  let da := s.x e
  let buf := s.x a
  if da.toNat % 32 ≠ 0 then misalign da
  else if !localOk s.core da.toNat 32 then protect da
  else latchBad s da.toNat 32 fun s =>
    let d := parseAcc (s.core.readLmem da.toNat 32)
    let l := s.launchOf s.core
    if !d.mbz || d.kind = 3 || (d.kind ≠ 0 && l.count * l.cmd.w * l.cmd.h ≤ d.core) then usage s
    else if buf.toNat % sz ≠ 0 then misalign buf
    else if !localOk s.core buf.toNat (16 * sz) then protect buf
    else
      let v := s.core.getV ix
      let mask := s.core.getM m
      let lanes := (List.range 16).filter fun i => mask.getLsbD i
      let acc := lanes.map fun i => (i, lane32 v i, (d.base + lane32 v i * d.stride) % 2 ^ 64)
      match laneFault s.core.pc d sz acc with
      | some r => r
      | none =>
        let addrs := acc.map fun x => (x.1, x.2.2)
        let kind := if opc = 0xA2 then CmdKind.getx buf.toNat sz d.kind d.core d.win addrs else .placex buf.toNat sz d.kind d.core d.win addrs
        issueCmd s k.toNat opc kind hint

def execGetx (k : BitVec 3) (a : XReg) (ix : BitVec 5) (e : XReg) (m : BitVec 3) (esz : Fin 7) (c : Ctl) (s : State) :
    Host.Outcome State Fault Refusal :=
  run c s fun s => oneSided s k 0xA2 a ix e m esz (hintOf c)

def execPlacex (k : BitVec 3) (a : XReg) (ix : BitVec 5) (e : XReg) (m : BitVec 3) (esz : Fin 7) (c : Ctl) (s : State) :
    Host.Outcome State Fault Refusal :=
  run c s fun s => oneSided s k 0xA3 a ix e m esz (hintOf c)

/-- Where a command's remote target stands. -/
inductive Target where
  | core (c : Core)
  | away
  | gone
deriving DecidableEq, Repr

/-- The target of a one-sided access: its core, not resident, or ended (R336). -/
def State.targetOf (s : State) (c : Core) (i : Nat) : Target :=
  match c.place with
  | none => .gone
  | some p => match s.coreOfIndex p.launch i with
    | some t => if t.run.isHalted then .gone else .core t
    | none => match s.launchAt p.launch with
      | none => .gone
      | some l =>
        match l.plots[i / (l.cmd.w * l.cmd.h)]? with
        | some q => if q.st = .done then .gone else .away
        | none => .gone

/-- A one-sided element's bytes, read from its target (R336), over a path that no retraining link holds (R389). -/
def State.readTarget (s : State) (c : Core) (e kind core win addr : Nat) : EngRead :=
  if kind = 0 then s.readGlobal c addr e
  else match s.targetOf c core with
    | .away => .away
    | .gone => .stop 0x20 0
    | .core t =>
      if s.pathHeld c.loc.die t.loc.die || s.pathHeld t.loc.die c.loc.die then .wait
      else if kind = 1 then (if t.inStash addr e then .stop 0x09 addr else readLocal t addr e)
      else
        let w := t.wins[win]?.getD Window.start
        if !w.init || w.half < addr + e then .stop 0x09 addr else readLocal t (w.front + addr) e

/-! ## COMPACT (R337) -/

/-- COMPACT's issue checks. -/
def execCompact (k : BitVec 3) (w : BitVec 4) (b e f : XReg) (c : Ctl) (s : State) : Host.Outcome State Fault Refusal :=
  run c s fun s =>
    let sh := s.x e
    let at_ := s.x f
    let rows := bitsOf sh 5 0 + 1
    let rb := 64 * (bitsOf sh 13 8 + 1)
    let dst := bitsOf at_ 17 0
    let lst := bitsOf at_ 49 32
    let win := s.core.wins[w.toNat]
    let n := rows * rb
    let ln := 2 * (rows + 1)
    let clear := fun (at_ len : Nat) => localOk s.core at_ len && !overlaps at_ len win.base (2 * win.half)
    if bitsOf sh 7 6 ≠ 0 || bitsOf sh 63 14 ≠ 0 || bitsOf at_ 31 18 ≠ 0 || bitsOf at_ 63 50 ≠ 0 || !win.init || win.half < n ||
        dst % 64 ≠ 0 || lst % 2 ≠ 0 || !clear dst n || !clear lst ln || overlaps dst n lst ln then usage s
    else issueCmd s k.toNat 0xA5 (.compact w.toNat rows rb (s.x b) dst lst)

/-! ## Messages to a slice core (R345) -/

def execSlmsg (k : BitVec 3) (a b e : XReg) (c : Ctl) (s : State) : Host.Outcome State Fault Refusal :=
  run c s fun s =>
    let sel := s.x b
    if (s.x a).toNat % 64 ≠ 0 then misalign (s.x a)
    else if (s.x e).toNat % 64 ≠ 0 then misalign (s.x e)
    else if !localOk s.core (s.x a).toNat 64 then protect (s.x a)
    else if !localOk s.core (s.x e).toNat 64 then protect (s.x e)
    else if bitsOf sel 63 6 ≠ 0 then usage s
    else match (s.tenantAt s.core.tenantNo).physDie (bitsOf sel 5 4) with
      | none => usage s
      | some d => issueCmd s k.toNat 0xA9 (.slmsg (s.x a).toNat (s.x e).toNat (16 * d + bitsOf sel 3 0))

/-! ## The moves of a command (R263) -/

/-- The read moves a command makes, one of at most 64 bytes each; a KEYQ's and KEYG's are counted with its key tables. -/
def CmdKind.reads : CmdKind → Nat
  | .xcopy _ _ n _ _ sf _ _ => ceilDiv (n * fmtBits sf.toNat) 512
  | .getx _ _ _ _ _ as_ | .placex _ _ _ _ _ as_ => as_.length
  | .compact _ rows rb _ _ _ => rows * rb / 64
  | .keyq _ | .keyg _ _ => 1
  | .slmsg _ _ _ => 1

/-- The bytes of a command's next read, Quince's apart. -/
def State.nextRead (s : State) (c : Core) (m : Cmd) : EngRead :=
  match m.kind with
  | .xcopy _ src n dir _ sf _ _ =>
    let len := Nat.min 64 (n * fmtBits sf.toNat / 8 - 64 * m.idx)
    if dir.getLsbD 0 then s.readGlobal c (src + 64 * m.idx) len else readLocal c (src + 64 * m.idx) len
  | .getx _ e kind core win as_ => s.readTarget c e kind core win (as_.getD m.idx (0, 0)).2
  | .placex buf e _ _ _ as_ => readLocal c (buf + (as_.getD m.idx (0, 0)).1 * e) e
  | .compact win _ _ _ _ _ => readLocal c ((c.wins[win]?.getD Window.start).front + 64 * m.idx) 64
  | .slmsg msg _ _ => readLocal c msg 64
  | .keyq _ | .keyg _ _ => .wait

/-- The index XINFO1 names for a command whose read stops at an address: the lane of a one-sided access, the element of an XCOPY.
DEDUCED (log 52). -/
def Cmd.readIndex (m : Cmd) (addr : Nat) : Nat :=
  match m.kind with
  | .getx _ _ _ _ _ as_ | .placex _ _ _ _ _ as_ => (as_.getD m.idx (0, 0)).1
  | .xcopy _ src _ _ _ sf _ _ => (addr - src) * 8 / fmtBits sf.toNat
  | _ => m.idx

/-- ENGINE_COMMAND_START (R263). -/
def execEngineCommandStart (l : Loc) (id : Nat) (s : State) : Host.Outcome State Fault Refusal :=
  let c := s.coreAt l
  match c.cmds.find? fun m => m.id = id with
  | some m =>
    if !m.started && c.loadsDone m.pos && s.storesDone c m.pos .dev then event (s.setCore (c.setCmd { m with started := true, done := m.kind.reads == 0 }))
    else event s
  | none => event s

/-- The length of an XCOPY's read move `i`. -/
def xcopyLen (n fmt i : Nat) : Nat := Nat.min 64 (n * fmtBits fmt / 8 - 64 * i)

/-- The global bytes of a command's next read, address and number, if it has any. -/
def Cmd.globalRead (m : Cmd) : Option (Nat × Nat) :=
  match m.kind with
  | .xcopy _ src n dir _ sf _ _ => if dir.getLsbD 0 then some (src + 64 * m.idx, xcopyLen n sf.toNat m.idx) else none
  | .getx _ e kind _ _ as_ => if kind = 0 then some ((as_.getD m.idx (0, 0)).2, e) else none
  | _ => none

/-- A read's outcome on a command; `idx` is what XINFO1 names where it stops. What it reads
has its single-bit errors corrected (R368); a bad block is latched on the core that owns it (R369). -/
def State.tookRead (s : State) (l : Loc) (m : Cmd) (idx : Nat → Nat) (r : EngRead) : State :=
  match r with
  | .bytes bs pas own =>
    let s1 := pas.foldl State.checkLine (own.foldl (fun (s : State) r => s.noteBadAt r.1 r.2.1 r.2.2) s)
    s1.modCore l fun c => c.setCmd { m with buf := some bs, req := [], paused := false }
  | .wait => s.modCore l fun c => c.setCmd { m with paused := false }
  | .away => s.modCore l fun c => c.setCmd { m with paused := true }
  | .stop cause addr => s.stopCmd l m cause (idx addr) addr
  | .bad k addr => (s.modCore k fun c => c.latchUncorrected 1 (w64 addr) 0).stopCmd l m 0x15 (idx addr) addr

/-- Writes appended to a command's queue. -/
def Cmd.push (m : Cmd) (ws : List EqWrite) : Cmd := { m with eq := m.eq ++ ws, made := m.made + ws.length }

/-- XCOPY's conversion of what it has read (R333): the whole elements, four at a time and at the end the rest; its writes are 64-byte
destination elements. DEDUCED (log 39). -/
def Cmd.convert (m : Cmd) (dst n : Nat) (global : Bool) (df sf : Nat) (rm : RM) (sat : Bool) (bs : List Byte) : Cmd :=
  let raw := m.src ++ bs
  let last := m.idx + 1 == m.kind.reads
  let half := fmtBits sf / 2
  let took := if last then raw.length else raw.length / half * half
  let cnt := if last then n - (64 * m.idx - m.src.length) * 8 / fmtBits sf else took * 8 / fmtBits sf
  let out := m.dst ++ convertChunk sf df rm sat cnt (raw.take took)
  let k := if last then ceilDiv out.length 64 else out.length / 64
  let ws := (List.range k).map fun i =>
    let a := dst + 64 * (m.kept + i)
    let d := (out.drop (64 * i)).take 64
    if global then EqWrite.global a d else EqWrite.lmem a d
  { m.push ws with src := raw.drop took, dst := out.drop (64 * k), kept := m.kept + k }

/-- The writes a command produces from what it has read, and the command after it; Quince's commands apart. -/
def Cmd.produce (m : Cmd) (bs : List Byte) : Cmd :=
  let next := fun (m' : Cmd) => { m' with buf := none, idx := m.idx + 1, done := m.idx + 1 == m.kind.reads }
  match m.kind with
  | .xcopy dst _ n dir df sf rm sat => next (m.convert dst n (dir.getLsbD 1) df.toNat sf.toNat rm sat bs)
  | .getx buf e _ _ _ as_ => next (m.push [.lmem (buf + (as_.getD m.idx (0, 0)).1 * e) bs])
  | .placex _ _ kind core win as_ =>
    let a := (as_.getD m.idx (0, 0)).2
    next (m.push [if kind = 0 then .global a bs else .remote core (if kind = 1 then none else some win) a bs])
  | .compact _ rows rb mask dst lst =>
    let per := rb / 64
    let r := m.idx / per
    let off := m.idx % per
    let keep := mask.getLsbD r
    let drops := r - m.kept
    let ws : List EqWrite :=
      if keep then [.lmem (dst + m.kept * rb + 64 * off) bs]
      else if off = 0 then [.lmem (lst + 2 + 2 * drops) (natBytes 2 r)] else []
    let kept := if keep && off + 1 == per then m.kept + 1 else m.kept
    let last : List EqWrite := if m.idx + 1 = m.kind.reads then [.lmem lst (natBytes 2 (rows - kept))] else []
    { next (m.push (ws ++ last)) with kept := kept }
  | .slmsg _ _ _ => { next m with done := false }
  | .keyq _ | .keyg _ _ => m

/-- The thread that an owner names. -/
def State.ownerCore (s : State) (o : Owner) : Option Core :=
  match o with
  | .core l => some (s.coreAt l)
  | .thread p => s.threadOf p

/-- The reply reaches an SLMSG's reply area (R345): the command's last write. -/
def State.slReply (s : State) (from_ : Option (Owner × Nat × Nat)) (bs : List Byte) : State :=
  match from_ with
  | none => s
  | some (o, id, reply) =>
    let got := fun (c : Core) => match c.cmds.find? fun m => m.id = id with
      | some m => if m.done then c else c.setCmd { m.push [.lmem reply bs] with done := true }
      | none => c
    match o with
    | .core l => s.modCore l got
    | .thread p => s.modThread p got

/-- A retraining link holds the way from a slice to the thread that a reply goes to (R389). -/
def State.replyHeld (s : State) (sl : Nat) (from_ : Option (Owner × Nat × Nat)) : Bool :=
  from_.any fun f => (s.ownerCore f.1).any fun c => s.pathHeld (sl / 16) c.loc.die

/-- The slice core runs a merge pass (R356): the triggers that arrive are skipped. -/
def Slice.passing (q : Slice) : Bool := q.pass.isSome && q.inv.isNone

/-- Count a skipped trigger (R349). -/
def Slice.skip (sl : Slice) (t : Nat) (k : Trigger) : Slice :=
  let v := sl.stat t k
  sl.setStat { v with skips := Nat.min (v.skips + 1) (2 ^ 24 - 1) }

/-- SLMSG's message arrives at its slice (R345, R349): queued, or answered at once with 0xFF bytes. -/
def State.sendMsg (s : State) (l : Loc) (m : Cmd) (sl reply : Nat) (bs : List Byte) : State :=
  let c := s.coreAt l
  let t := c.tenantNo
  let q := s.sliceAt sl
  let back := some (c.owner, m.id, reply)
  match q.handler t .msg with
  | none => s.slReply back (List.replicate 64 0xFF)
  | some h =>
    if (s.dieAt (sl / 16)).drained then s.slReply back (List.replicate 64 0xFF)
    else if 16 ≤ q.trigs.length || q.passing then (s.modSlice sl fun q => q.skip t .msg).slReply back (List.replicate 64 0xFF)
    else
      let who := if c.place.any (fun p => p.launch == h.launch) then some (s.coreIndex c) else none
      let g : Trig := { tenant := t, kind := .msg, line := 0, off := 0, reqId := none, requester := who, msg := bs, from_ := back }
      s.modSlice sl fun q => { q with trigs := q.trigs ++ [g] }

/-- A write of a one-sided command at its target (R336): the target's local memory, outside its stash regions, or the back half of its
window. -/
def Core.remoteWrite (t : Core) (win : Option Nat) (a : Nat) (bs : List Byte) : Except EngHeld Core :=
  match win with
  | none => if t.inStash a bs.length then .error (.stop 0x09 a) else .ok { t with lmem := t.lmem.writeN a bs }
  | some w =>
    let v := t.wins[w]?.getD Window.start
    if !v.init || v.half < a + bs.length then .error (.stop 0x09 a) else .ok (t.writeBack w a bs)

/-- A log entry of a KEYG is appended (R343, R344), unless a command that was stopped and reissued had appended it before (R330): with a
credit of its core for the slice, or one of a block of 64 that the unit then obtains (R281). DEDUCED (log 52). -/
def State.appendEntry (s : State) (l : Loc) (e : LogEntry) : Except EngHeld State :=
  if (s.sliceAt e.slice).log.any fun g => g.launch = e.launch && g.core = e.core && g.seq = e.seq then .ok s
  else
    let have_ := tabGet 0 (s.coreAt l).credits e.slice
    match (if 0 < have_ then some s else s.grantBlock e.tenant e.slice) with
    | none => .error (.stop 0x18 e.va)
    | some s1 =>
      let left := (if 0 < have_ then have_ else 64) - 1
      .ok (((s1.spendCredit e.tenant e.slice).modCore l fun c => { c with credits := tabSet c.credits e.slice left }).modSlice e.slice
        fun q => { q with log := q.log ++ [e] })

/-- Apply one write of an engine queue (R263, R336, R389): done, or what it meets. -/
def State.applyWrite (s : State) (l : Loc) (w : EqWrite) : Except EngHeld State :=
  let c := s.coreAt l
  match w with
  | .lmem a bs => .ok (s.setCore { c with lmem := c.lmem.writeN a bs })
  | .window win off bs =>
    let v := c.wins[win]?.getD Window.start
    if !v.init || v.half < off + bs.length then .error (.stop 0x09 off) else .ok (s.setCore (c.writeBack win off bs))
  | .remote core win a bs =>
    match s.targetOf c core with
    | .away => .error .away
    | .gone => .error (.stop 0x20 0)
    | .core t => if s.pathHeld l.die t.loc.die then .error .wait else match t.remoteWrite win a bs with
      | .ok t' => .ok (s.setCore t')
      | .error e => .error e
  | .global va bs =>
    match s.writeAddrs c va bs.length with
    | .error e => .error e
    | .ok pas =>
      if pas.any fun a => (s.dieAt l.die).db.any fun b => overlaps b.pa b.data.length a.1 1 then .error .wait
      else .ok (s.placeEngine c pas bs)
  | .logAdd e va =>
    match s.writeAddrs c va 4 with
    | .error e => .error e
    | .ok [] => .error .wait
    | .ok ((pa, pte) :: _) => if isHost pa then .error (.stop 0x09 va) else s.appendEntry l { e with pa := pa, slice := homeSlice pte pa }

/-- The index XINFO1 names for a command stopped by the oldest write of its queue: what that write came from. A KEYG stops at an entry for
want of log credits, and at a rank for a row's translation (R358). DEDUCED (log 52). -/
def Cmd.writeIndex (m : Cmd) (w : EqWrite) (cause addr : Nat) : Nat :=
  match w, m.kind with
  | .logAdd e _, .keyg p seq =>
    let n := (e.seq - seq).toNat
    let v := if p.vgrad = 0 then 0 else p.topk * p.rl
    if cause = 0x18 then n else if n < v then n / p.rl else (n - v) / p.dh % p.topk
  | .global _ _, .xcopy dst _ _ _ df _ _ _ => (addr - dst) * 8 / fmtBits df.toNat
  | _, .placex _ _ _ _ _ as_ => (as_.getD (m.idx - m.eq.length) (0, 0)).1
  | _, _ => 0

/-- The global bytes that a write of an engine queue translates. -/
def EqWrite.range : EqWrite → Nat × Nat
  | .global va bs => (va, bs.length)
  | .logAdd _ va => (va, 4)
  | _ => (0, 0)

/-- The walks of an engine's access to `n` global bytes (R244). -/
def State.engineWalk (s : State) (c : Core) (va n : Nat) : State := if n = 0 then s else s.agentWalk c.loc c.tlb c.tenantNo va n

/-- The requests that the oldest write of a queue sends before it is made (R232): those of a global write, once; with their numbers. -/
def State.sendWrite (s : State) (c : Core) (m : Cmd) (w : EqWrite) : State × List Nat :=
  match w with
  | .global va bs =>
    if !m.wreq.isEmpty then (s, m.wreq)
    else match s.writeAddrs c va bs.length with
      | .ok pas => let t := s.writeReqs c m.hint pas bs; (t, s.sentAll t)
      | .error _ => (s, [])
  | _ => (s, [])

/-- The unit of a KEYQ or KEYG, by its die. -/
def State.unitDie (s : State) (c : Core) (p : KeyParams) : Nat := ((s.tenantAt c.tenantNo).physDie p.unit).getD 0

/-- A retraining link holds a key unit's write on its way (R389): its results to the issuing core, its entries to their slices. -/
def State.unitHeld (s : State) (c : Core) (m : Cmd) (w : EqWrite) : Bool :=
  let from_ := fun (p : KeyParams) => match w with
    | .window _ _ _ => s.pathHeld (s.unitDie c p) c.loc.die
    | .logAdd _ va => (match s.writeAddrs c va 4 with
      | .ok ((pa, pte) :: _) => s.pathHeld (s.unitDie c p) (homeDie pte pa)
      | _ => false)
    | _ => false
  match m.kind with
  | .keyq p => from_ p
  | .keyg p _ => from_ p
  | _ => false

/-- ENGINE_APPLY (R263, R329): a global write waits until nothing keeps its requests back (R236, R349). -/
def execEngineApply (l : Loc) (id : Nat) (s : State) : Host.Outcome State Fault Refusal :=
  let c := s.coreAt l
  match c.cmds.find? fun m => m.id = id with
  | some m => match m.eq with
    | [] => event s
    | w :: r =>
      let (t, ids) := (s.engineWalk c w.range.1 w.range.2).sendWrite c m w
      let put := fun (t : State) (m : Cmd) => event (t.modCore l fun c => c.setCmd m)
      match (if ids.any t.reqBack || t.unitHeld c m w then .error .wait else t.applyWrite l w) with
      | .ok t1 => put t1 { m with eq := r, wreq := [], paused := false }
      | .error .locked | .error .away => put t { m with wreq := ids, paused := true }
      | .error .wait => put t { m with wreq := ids, paused := false }
      | .error (.stop cause addr) => event (t.stopCmd l m cause (m.writeIndex w cause addr) addr)
  | none => event s

/-- ENGINE_COUNT (R263, R326): every write applied, the command completes and its counter counts. -/
def execEngineCount (l : Loc) (id : Nat) (s : State) : Host.Outcome State Fault Refusal :=
  let c := s.coreAt l
  match c.cmds.find? fun m => m.id = id with
  | some m =>
    if m.started && m.done && m.eq.isEmpty && m.buf.isNone then
      let t := c.ctrs[m.ctr]?.getD Counter.start
      event (s.setCore { c.dropCmd id with ctrs := c.ctrs.setIfInBounds m.ctr { t with count := t.count + 1 } })
    else event s
  | none => event s

/-! ## Channels (R338, R391 to R394) -/

/-- The channel behind a ring number, at one end: usage faults where it is absent or broken (R338, R394). -/
def chanUse (s : State) (h : BitVec 3) (producer : Bool) (f : Ring → Nat × Nat → Res) : Res :=
  let r := s.core.rings[h.toNat]
  match s.chanPeer s.core h.toNat producer with
  | none => usage s
  | some p => if r.broken then usage s else f r p

/-- CHAN.SEND (R326, R338, R392): an engine command until its slot has landed, so that it stalls while 32 are in flight. -/
def execChanSend (h : BitVec 3) (a : XReg) (c : Ctl) (s : State) : Host.Outcome State Fault Refusal :=
  run c s fun s => chanUse s h false fun r p =>
    let src := s.x a
    if src.toNat % 64 ≠ 0 then misalign src
    else if !localOk s.core src.toNat r.slot then protect src
    else if 32 ≤ s.inFlight s.core then .hold s
    else if !s.released s.core .dev then .hold s
    else match s.coreOfIndex p.1 p.2 with
      | none => .hold s
      | some t =>
        if r.n ≤ (r.prodT + 2 * r.n - r.prodH) % (2 * r.n) || s.pathHeld s.core.loc.die t.loc.die then .hold s
        else
          let m : Msg := .chanData p.1 p.2 h.toNat (s.coreIndex s.core) r.prodT (s.core.readLmem src.toNat r.slot) s.core.loc.die
          .ok (({ s with msgs := s.msgs ++ [m] }.onCore fun c =>
            { c with rings := c.rings.set h.toNat { r with prodT := (r.prodT + 1) % (2 * r.n) } }).noteBad src.toNat r.slot)

/-- CHAN.RECV. -/
def execChanRecv (h : BitVec 3) (a : XReg) (c : Ctl) (s : State) : Host.Outcome State Fault Refusal :=
  run c s fun s => chanUse s h true fun r _ => if 1 ≤ r.filled && !s.core.acquiring then .ok (s.setX a (w64 (r.slotAt r.h))) else .hold s

/-- CHAN_ELEMENTS_LAND (R230, R392): the oldest slot on its way lands, its bytes before the consumer's T; a retraining link holds it, and
with it every later one of the channel (R389, R393). -/
def execChanElementsLand (l : Loc) (h : Nat) (s : State) : Host.Outcome State Fault Refusal :=
  let c := s.coreAt l
  match c.place with
  | none => event s
  | some p =>
    match s.msgs.find? fun m => match m with
      | .chanData lid i k _ _ _ _ => lid == p.launch && i == s.coreIndex c && k == h
      | _ => false with
    | some m => match m with
      | .chanData _ _ _ _ slot bs d =>
        let r := c.rings[h]?.getD Ring.start
        if s.pathHeld d l.die then event s
        else event ({ s with msgs := s.msgs.erase m }.setCore { c with
          lmem := c.lmem.writeN (r.slotAt slot) bs
          rings := c.rings.setIfInBounds h { r with t := (slot + 1) % (2 * r.n) } })
      | _ => event s
    | none => event s

end Sys2Proof.Machine
end

