-- ==== Sys2Proof/Machine/System.lean ====
section
/-! DEFINITION. Sys2Proof/Machine/System.lean: system registers, ERET, TLBINV and WFI (R377 to R384), and the events a thread's
operations and traps wait for (R84, R244, R253 to R266, R362). -/

namespace Sys2Proof.Machine

/-! ## System registers (R377 to R379) -/

/-- STATUS (R378). -/
def Core.status (c : Core) : W64 :=
  w64 ((if c.loc.kind = .control then 192 else 0) + (if c.sys.demoted then 2 else 0) + (if c.sys.intrap then 1 else 0))

/-- The field of HDRFLD that HDRSEL selects (R194). -/
def Core.hdrIdx (c : Core) : Nat := bitsOf c.sys.hdrsel 6 0

/-- The value SYS.RD reads. -/
def State.readSys (s : State) (r : SysReg) : W64 :=
  let y := s.core.sys
  match r with
  | .xpc => y.xpc
  | .xcause => y.xcause
  | .xinfo i => y.xinfo[i.toNat]
  | .tvec => y.tvec
  | .lpc => y.lpc
  | .status => s.core.status
  | .cycle => s.cycle
  | .seed => y.seed
  | .tenant => y.tenant.setWidth 64
  | .repstate => y.repstate
  | .reppc => y.reppc
  | .repmpc => y.repmpc
  | .hdrsel => y.hdrsel
  | .hdrfld => (y.hdrfld[s.core.hdrIdx]?.getD 0).setWidth 64
  | .cecnt => y.cecnt.setWidth 64
  | .bankfmt b => s.core.bankfmt[b]

/-- The writable bits of REPSTATE (R203) and of HDRFLD (R194). -/
def repMask : W64 := 0x801FFFCFFFFFFFFF#64
def hdrMask : W32 := 0xC1FF1F0F#32

/-- A field layout that R194 rejects: valid, and reaching beyond bit 511. -/
def hdrBad (f : W32) : Bool := f.getLsbD 31 && 512 < (f.extractLsb' 16 9).toNat + (f.extractLsb' 8 5).toNat + 1

/-- The looked-at core with other system registers. -/
def State.sys (s : State) (f : SysRegs → SysRegs) : State := s.onCore fun c => { c with sys := f c.sys }

/-- What SYS.WR does (R380). -/
def writeSys (s : State) (r : SysReg) (v : W64) : Res :=
  match r with
  | .xpc => .ok (s.sys fun y => { y with xpc := v })
  | .xcause => if bitsOf v 63 8 ≠ 0 then usage s else .ok (s.sys fun y => { y with xcause := v })
  | .xinfo i => .ok (s.sys fun y => { y with xinfo := y.xinfo.set i.toNat v })
  | .tvec => .ok (s.sys fun y => { y with tvec := v })
  | .lpc => .ok (s.sys fun y => { y with lpc := v &&& ~~~1 })
  | .status => .ok (s.sys fun y => { y with demoted := y.demoted && v.getLsbD 1, intrap := v.getLsbD 0 })
  | .cycle => .ok s
  | .seed => .ok (s.sys fun y => { y with seed := if v.setWidth 32 = (0 : W32) then 1 else zextTo64 32 v })
  | .tenant => if s.core.loc.kind = .control then .ok (s.sys fun y => { y with tenant := v.setWidth 6 }) else priv s
  | .repstate => .ok (s.sys fun y => { y with repstate := v &&& repMask })
  | .reppc => .ok (s.sys fun y => { y with reppc := v })
  | .repmpc => .ok (s.sys fun y => { y with repmpc := v })
  | .hdrsel => .ok (s.sys fun y => { y with hdrsel := v &&& 0x7F })
  | .hdrfld =>
    let f : W32 := v.setWidth 32 &&& hdrMask
    if hdrBad f then usage s
    else .ok (s.sys fun y => { y with hdrfld := y.hdrfld.setIfInBounds s.core.hdrIdx f })
  | .cecnt => .ok s
  | .bankfmt b => writeBankfmt s b v

/-- SYS.RD (R380). -/
def execSysRd (d : XReg) (r : SysReg) (c : Ctl) (s : State) : Host.Outcome State Fault Refusal := writeX c d (fun s => s.readSys r) s

/-- SYS.WR (R380): a write of TENANT below machine level traps PRIV, before the guard (R57, R64). -/
def execSysWr (a : XReg) (r : SysReg) (c : Ctl) (s : State) : Host.Outcome State Fault Refusal :=
  if r = .tenant then runMachine c s fun s => writeSys s r (s.x a) else run c s fun s => writeSys s r (s.x a)

/-- ERET (R381), a transfer to XPC (R22, R126, R291). -/
def execEret (c : Ctl) (s : State) : Host.Outcome State Fault Refusal :=
  runTransfer c s fun s => if !s.core.sys.intrap then usage s else transfer s s.core.sys.xpc State.returnFromTrap

/-! ## TLBINV (R268, R382, R224, R247, R266) -/

/-- An entry of a tenant that maps an address, or any of its entries without one, or any entry of any tenant. -/
def TlbEntry.matches (e : TlbEntry) (t : Option Nat) (va : Option Nat) : Bool :=
  match t, va with
  | none, _ => true
  | some t, none => e.tenant == t
  | some t, some a => e.covers t a

/-- A TLBINV under way: the tenant and address of its form, and the leaves that map the address, as removed and as the table now stands. -/
structure Inval where
  tenant : Option Nat
  va : Option Nat
  leaves : List TlbEntry
deriving DecidableEq, Repr

/-- A TLBINV covers an address of a tenant. DEDUCED (log 31). -/
def Inval.covers (v : Inval) (t a : Nat) : Bool :=
  v.tenant.all fun u => u == t && v.va.all fun w => w / 4096 == a / 4096 || v.leaves.any fun e => e.covers u w && e.covers u a

/-- The leaves a table walk of this TLBINV finds: of its page, of its tenant, of every tenant. -/
def State.walkedLeaves (s : State) (d : Nat) (t va : Option Nat) : List TlbEntry :=
  match t, va with
  | some t, some a => (match s.walkTable d t a with
    | .ok e => [e]
    | .error _ => [])
  | some t, none => s.leaves d t
  | none, _ => s.tenants.flatMap fun e => s.leaves d e.1

/-- A physical line of the pages of a list of leaves. -/
def inPages (es : List TlbEntry) (line : Nat) : Bool := es.any fun e => ptePfn e.pte ≤ line && line < ptePfn e.pte + e.size

/-- The entries a TLBINV covers leave every TLB, and every stash, which writes them back; a monitor on a covered line is triggered (R224,
R266, R268). -/
def State.removeEntries (s : State) (v : Inval) : State :=
  let hit := fun (c : Core) (r : Stash) (e : StashEntry) => v.covers c.tenantNo (r.gbase + 128 * e.idx)
  let gone := s.allCores.flatMap fun c => c.stashes.toList.flatMap fun o => o.elim [] fun r => r.entries.filter (hit c r)
  let s1 := s.backAll gone
  let s2 := s1.mapCores fun c => { c with
    tlb := c.tlb.filter fun e => !e.matches v.tenant v.va
    stashes := c.stashes.map fun (o : Option Stash) => o.map fun r => { r with entries := r.entries.filter fun e => !hit c r e }
    trig := c.trig || c.mon.any fun m => v.covers c.tenantNo m.2 }
  { s2 with dies := s2.dies.map fun (d : Die) => { d with tlb := d.tlb.filter fun e => !e.matches v.tenant v.va } }

/-- The directory locks follow the leaves as the table now stands (R247): a lock recalls every owned copy, and writes back every dirty line, of
its page. DEDUCED (log 70). -/
def State.setLocks (s : State) (v : Inval) (locked : List TlbEntry) : State :=
  let stays := fun (a : Nat) (o : Loc) => (s.coreAt o).entries.any fun e => e.line == a
  let line := fun (l : SliceLine) => if inPages locked l.line then SliceLine.demote { l with dirty := false } (stays l.line) else l
  let s1 : State := { s with
    locks := (s.locks.filter fun e => !e.matches v.tenant v.va) ++ locked
    slices := s.slices.map fun (q : Nat × Slice) => (q.1, { q.2 with lines := q.2.lines.map line }) }
  s1.mapCores fun c => { c with
    linebuf := c.linebuf.filter fun a => !inPages locked a
    stashes := c.stashes.map fun (o : Option Stash) => o.map fun r =>
      { r with entries := r.entries.map fun x => if inPages locked x.line then { x with dirty := false, owned := false } else x } }

/-- The writes of a thread that a TLBINV covers and that have been held so far, and what an earlier translation has barred, translate again;
`old` is the state before it. -/
def State.heldAgain (s old : State) (v : Inval) (c : Core) : Core :=
  s.retranslate c fun pos va pa write => v.covers c.tenantNo va && (c.isBarred pos || (write && old.withheld c.tenantNo va pa true))

/-- A TLBINV changes the leaves of a range: it covers an address of it, or a leaf it removed or found maps one (R348). -/
def Inval.meets (v : Inval) (t lo hi : Nat) : Bool :=
  v.tenant.all (fun u => u == t) &&
    ((v.va.all fun a => lo / 4096 * 4096 ≤ a && a < hi) || v.leaves.any fun e => e.tenant == t && e.va < hi && lo < e.va + e.size)

/-- The handler ranges that a TLBINV covers are translated again (R348). -/
def State.rangeAgain (s : State) (d : Nat) (v : Inval) (r : SliceReg) : SliceReg :=
  if v.meets r.tenant r.lo r.hi || (v.va.any fun a => v.tenant.all (fun t => t == r.tenant) && r.pages.any fun p => p.1 ≤ a && a < p.1 + p.2.2) then
    { r with pages := s.rangePages d r.tenant r.lo r.hi } else r

/-- The loads, atomics and stores of a thread that a TLBINV covers, by position. -/
def Core.covered (c : Core) (v : Inval) : List Nat :=
  ((c.pq.filter fun o => o.kind.isLoad && v.covers c.tenantNo o.va).map Op.pos) ++ (c.sb.filter fun t => v.covers c.tenantNo t.va).map PStore.pos

/-- A TLBINV made on a die takes effect (R268), with what its completion includes (R382); and what it then waits for: the accesses that
removed entries have translated, and the pages it locks. -/
def State.invalidate (s : State) (d : Nat) (t va : Option Nat) : State × List (Loc × Nat) × List (Nat × Nat) :=
  let held := match va with
    | some _ => (s.allCores.flatMap Core.tlb ++ s.dies.toList.flatMap Die.tlb).filter fun e => e.matches t va
    | none => []
  let v : Inval := { tenant := t, va := va, leaves := held ++ s.walkedLeaves d t va }
  let locked := (s.walkedLeaves d t va).filter fun e => pteLock e.pte
  let s1 := (s.removeEntries v).setLocks v locked
  let s2 := s1.mapCores (s1.heldAgain s v)
  let s3 := { s2 with slices := s2.slices.map fun (q : Nat × Slice) => (q.1, { q.2 with regs := q.2.regs.map (s2.rangeAgain d v) }) }
  (s3, s.allCores.flatMap fun c => (c.covered v).map fun p => (c.loc, p), locked.map fun e => (ptePfn e.pte, e.size))

/-- An access of a thread is neither performed nor held. -/
def State.stillDue (s : State) (c : Core) (pos : Nat) : Bool :=
  !c.isBarred pos && ((c.pq.any fun o => o.pos == pos && !s.withheld c.tenantNo o.va o.pa o.kind.isAtomic) ||
    c.sb.any fun t => t.pos == pos && (t.log.isSome || !s.withheld c.tenantNo t.va t.pa true))

/-- What a TLBINV still waits for: the accesses, and the die buffers' stores to the pages it locks. -/
def State.tlbinvWaits (s : State) (ops : List (Loc × Nat)) (pages : List (Nat × Nat)) : Bool :=
  (ops.any fun o => s.stillDue (s.coreAt o.1) o.2) ||
    s.dies.toList.any fun d => d.db.any fun b => pages.any fun p => overlaps b.pa b.data.length p.1 p.2

/-- TLBINV: first the thread's earlier acquires are satisfied (R257), and its earlier stores performed at `.dev` (R268). -/
def tlbinvOp (s : State) (t va : Option Nat) : Res :=
  match s.core.prog with
  | some (.tlbinv ops pages) => if s.tlbinvWaits ops pages then .hold s else .ok s
  | _ =>
    if !s.core.acquiring && s.storesDone s.core s.core.pos .dev then
      let (s1, ops, pages) := s.invalidate s.core.loc.die t va
      if s1.tlbinvWaits ops pages then .hold (s1.onCore fun c => { c with prog := some (.tlbinv ops pages) }) else .ok s1
    else .hold s

/-- TLBINV.page. -/
def execTlbinvPage (a : XReg) (c : Ctl) (s : State) : Host.Outcome State Fault Refusal :=
  run c s fun s => if 2 ^ 48 ≤ (s.x a).toNat then usage s else tlbinvOp s (some s.core.tenantNo) (some (s.x a).toNat)
/-- TLBINV.tenant. -/
def execTlbinvTenant (c : Ctl) (s : State) : Host.Outcome State Fault Refusal :=
  run c s fun s => tlbinvOp s (some s.core.tenantNo) none
/-- TLBINV.all: at machine level only. -/
def execTlbinvAll (c : Ctl) (s : State) : Host.Outcome State Fault Refusal := runMachine c s fun s => tlbinvOp s none none

/-! ## WFI (R384) -/

def execWfi (c : Ctl) (s : State) : Host.Outcome State Fault Refusal :=
  runMachine c s fun s => if s.mgmt.machineIrq then .ok s else .hold s

/-! ## Events of a thread -/

/-- FP6_ASSIST (R84): firmware has served the assist of a held instruction. -/
def execFp6Assist (l : Loc) (s : State) : Host.Outcome State Fault Refusal :=
  event (s.modCore l fun c => match c.prog with
    | some (.assist false) => if c.held then { c with prog := some (.assist true) } else c
    | _ => c)

/-- PAGE_WALK_COMPLETE (R242 to R245): a walk, one of the die's 32, fills the TLBs of the threads that wait for its page; a thread stalls on
a refusal. It waits for a table in a granule under scrub (R408), and latches UNCORRECTED where a table's line is poisoned (R369).
DESIGN CHOICE (log 19). -/
def execPageWalkComplete (l : Loc) (va : Nat) (acc : Access) (s : State) : Host.Outcome State Fault Refusal :=
  let c := s.coreAt l
  if c.walk = some (va, acc) && ((s.walks l.die).take 32).contains (c.tenantNo, va / 4096) && !s.walkHeld l.die c.tenantNo va then
    let s0 := s.walkRequests l c.tenantNo va
    let s1 := if (s.tablesOf l.die c.tenantNo va).any s.isPoisoned then s0.modCore l fun c => c.latchUncorrected 3 (w64 va) 0 else s0
    match s.walkTable l.die c.tenantNo va with
    | .ok e =>
      let same := fun (k : Core) => k.loc.die == l.die && k.walk.any fun w => e.covers k.tenantNo w.1
      event ((s.allCores.filter same).foldl (fun (s : State) (k : Core) => (s.fillTlb k.loc e).modCore k.loc fun k => { k with walk := none }) s1)
    | .error (code, level) => event (s1.takeStall l code level acc va)
  else event s

/-- The latched trap a thread takes next (R362): its information, and the thread without the latch. -/
def Core.nextAsync (c : Core) : Option (TrapInfo × Core) :=
  match c.uncorrected, c.linkstall, c.chanbroken with
  | some (src, addr, i3), _, _ => some ({ code := 0x15, i0 := w64 src, i1 := 0, i2 := addr, i3 := i3 }, { c with uncorrected := none })
  | none, (d, id) :: r, _ => some ({ code := 0x11, i0 := w64 d, i1 := 0, i2 := 0, i3 := id.setWidth 64 }, { c with linkstall := r })
  | none, [], h :: r => some ({ code := 0x14, i0 := w64 h, i1 := 0, i2 := 0, i3 := 0 }, { c with chanbroken := r })
  | none, [], [] => none

/-- An LDRED's answer that waits unread in an interrupted thread is kept for its next execution (R362, R402). DEDUCED (log 71). -/
def State.keepAnswer (s : State) (c : Core) : State :=
  match c.place, c.prog with
  | some p, some (.ldredGot ms e r) => { s with msgs := s.msgs ++ [Msg.redRes p.launch (s.coreIndex c) ms e r c.loc.die] }
  | _, _ => s

/-- A member's request is withdrawn; its window stays open (R400, R402). -/
def State.withdrawRed (s : State) (launch core : Nat) : State :=
  { s with
    msgs := s.msgs.filter fun m => match m with
      | .redReq l i _ _ _ _ _ _ _ _ => !(l == launch && i == core)
      | _ => true
    redWins := s.redWins.map fun (w : RedWin) =>
      if w.launch = launch && w.closed.isNone then { w with reqs := w.reqs.filter fun r => r.core ≠ core } else w }

/-- What a thread held in LDRED leaves of it when it is interrupted: an answer is kept, an unanswered request withdrawn (R362, R402). -/
def State.leaveRed (s : State) (c : Core) : State :=
  match c.place, c.prog with
  | some p, some (.ldredSent _ _) => s.withdrawRed p.launch (s.coreIndex c)
  | _, _ => s.keepAnswer c

/-- Take a thread's next latched trap at its instruction boundary (R362). -/
def State.takeAsync (s : State) (l : Loc) : Option State :=
  match (s.coreAt l).nextAsync with
  | some (t, c) =>
    let k := s.synced c
    some (((s.leaveRed c).setCore k).takeTrapAt l k.pc t)
  | none => none

/-- ASYNC_TRAP_TAKE (R362); not in a plot that is being saved, whose latched causes go into its image (R376). -/
def execAsyncTrapTake (l : Loc) (s : State) : Host.Outcome State Fault Refusal :=
  let c := s.coreAt l
  event (if c.run = .running && (c.place.all fun p => s.placeRuns p) then (s.takeAsync l).getD s else s)

/-! ## Moves of the ordering machine (R253 to R259, R266) -/

def Core.opAt (c : Core) (pos : Nat) : Option Op := c.pq.find? fun o => o.pos = pos

def OpKind.isPlainLoad : OpKind → Bool
  | .load _ => true
  | _ => false
def OpKind.isArm : OpKind → Bool
  | .monarm => true
  | _ => false

/-- The move of one kind of operation, when it may be taken. -/
def State.takeOp (s : State) (l : Loc) (pos : Nat) (kind : OpKind → Bool) : State :=
  let c := s.coreAt l
  match (c.opAt pos).bind fun o => if kind o.kind then s.opReady c o else none with
  | some o => (s.perform l o).dropFences l
  | none => s

/-- LOAD_SATISFY (R253). -/
def execLoadSatisfy (l : Loc) (pos : Nat) (s : State) : Host.Outcome State Fault Refusal := event (s.takeOp l pos OpKind.isPlainLoad)
/-- ATOMIC_PERFORM (R259). -/
def execAtomicPerform (l : Loc) (pos : Nat) (s : State) : Host.Outcome State Fault Refusal := event (s.takeOp l pos OpKind.isAtomic)
/-- MONARM_SATISFY (R266). -/
def execMonarmSatisfy (l : Loc) (pos : Nat) (s : State) : Host.Outcome State Fault Refusal := event (s.takeOp l pos OpKind.isArm)

/-- STORE_LEAVE (R254, R265). -/
def execStoreLeave (l : Loc) (pos : Nat) (s : State) : Host.Outcome State Fault Refusal :=
  let c := s.coreAt l
  match c.sb.find? fun t => t.pos = pos with
  | some t => event (match s.leaving c t with
    | some t' => (s.leave l t.slice t').dropFences l
    | none => s)
  | none => event s

/-- DIE_BUFFER_DRAIN (R255): the k-th store of a die buffer, with no older store to an overlapping byte. -/
def execDieBufferDrain (die k : Nat) (s : State) : Host.Outcome State Fault Refusal :=
  let db := (s.dieAt die).db
  match db[k]? with
  | some b =>
    if (db.take k).all fun o => !overlaps o.pa o.data.length b.pa b.data.length then
      event ((s.modDie die fun d => { d with db := d.db.eraseIdx k }).placeM (s.ownerLoc b.owner) b.key b.pa b.data (some (b.owner, b.pos)) (some (die, b.at_)))
    else event s
  | none => event s

end Sys2Proof.Machine
end

