-- ==== Sys2Proof/Machine/Image.lean ====
section
/-! DEFINITION. Sys2Proof/Machine/Image.lean: plot images and thread images (R373, R374), as bytes. Where R373 names a field without
its place, the place is this file's (see the assumption log). -/

namespace Sys2Proof.Machine

def Launch.area (l : Launch) : Nat := l.cmd.w * l.cmd.h
/-- The size of a thread image, and of a plot image (R371, R373). -/
def Launch.threadSize (l : Launch) : Nat := 40960 + l.cmd.localUse
def Launch.imageSize (l : Launch) : Nat := 4096 + l.area * l.threadSize

def dword (w : W64) : List Byte := natBytes 8 w.toNat
def dnat (n : Nat) : List Byte := natBytes 8 n
/-- Exactly `n` bytes, zero-filled. -/
def fit (n : Nat) (bs : List Byte) : List Byte := sliceBytes bs 0 n
def flag (b : Bool) : Nat := if b then 1 else 0

/-! ## Writing -/

/-- The flags dword of the header (R374). -/
def Core.flags (c : Core) : Nat :=
  (match c.run with
    | .halted code => 4 + code.toNat * 2 ^ 8
    | .stalled => 2
    | .stopped => 1
    | _ => 0) +
  8 * flag c.diverted + 16 * flag c.uncorrected.isSome + 32 * flag (!c.linkstall.isEmpty) + 64 * flag (!c.chanbroken.isEmpty)

def imgHeader (l : Launch) (c : Core) : List Byte :=
  let p := c.placeOr
  fit 64 (dnat (l.number.toNat + (p.plot * l.area + p.py * l.cmd.w + p.px) * 2 ^ 32) ++ dword c.pc ++ dnat c.flags ++
    dnat l.cmd.localUse)

/-- The trap and system registers, and the guards (0x0140). -/
def imgSys (c : Core) : List Byte :=
  let y := c.sys
  fit 128 (dword y.xpc ++ dword y.xcause ++ y.xinfo.toList.flatMap dword ++ dword y.tvec ++ dword y.lpc ++ dword c.status ++
    dword y.seed ++ dword y.repstate ++ dword y.reppc ++ dword y.repmpc ++ dword y.hdrsel ++ dnat (c.g ||| 1).toNat)

def imgCounters (c : Core) : List Byte :=
  (List.finRange 8).flatMap fun k =>
    let t := c.ctrs[k]
    dnat (t.count.toNat + c.outOf k.val * 2 ^ 32 + flag t.fault * 2 ^ 40 + t.fcount.toNat * 2 ^ 48)

/-- Staged loop and step state (0x02A0). DESIGN CHOICE (log 48). -/
def imgStage (g : Stage) : List Byte :=
  dword (match g.cur with | some i => w64 i | none => BitVec.allOnes 64) ++
    dnat (g.ctr.toNat + flag g.exhausted * 2 ^ 8 + flag g.stepEnded * 2 ^ 9) ++ dnat g.taken ++ dnat g.stepNo

/-- Port states (0x02C0), with the number of words in the receiving FIFO. DESIGN CHOICE (log 48). -/
def imgPorts (c : Core) : List Byte :=
  dirs.flatMap fun d =>
    let p := c.port d
    dnat ((c.fifoOf d).length + flag p.divert.isSome * 2 ^ 8 + p.reason.toNat * 2 ^ 32 + p.result.toNat * 2 ^ 40 +
      p.id.toNat * 2 ^ 48) ++
    dword (match p.divert with | some (_, r) => r | none => 0)

/-- A stream descriptor in its 32 bytes (R197). -/
def imgDesc (d : StreamDesc) : List Byte :=
  fit 8 (natBytes 4 d.base) ++ fit 8 (d.counts.flatMap fun n => natBytes 2 (n - 1)) ++
    fit 16 (d.strides.flatMap fun t => natBytes 4 (BitVec.ofInt 32 t).toNat)

def imgStreams (c : Core) : List Byte :=
  c.streams.toList.flatMap fun q =>
    fit 64 (imgDesc q.desc ++ dnat (match q.mode with | .idle => 0 | .load => 1 | .store => 2) ++ dnat q.n)

def ringSrc (k : RingKind) : Nat :=
  match k with
  | .plotChan dx dy => (BitVec.ofInt 6 dx).toNat + (BitVec.ofInt 6 dy).toNat * 2 ^ 8
  | .launchChan d => (BitVec.ofInt 32 d).toNat
  | _ => 0
def ringKindNo (k : RingKind) : Nat :=
  match k with
  | .none => 0 | .ring => 1 | .plotChan _ _ => 2 | .launchChan _ => 3

/-- DESIGN CHOICE (log 48). -/
def imgRings (c : Core) : List Byte :=
  c.rings.toList.flatMap fun r =>
    dnat (r.base / 64 + r.slot / 64 * 2 ^ 12 + r.n * 2 ^ 19 + ringKindNo r.kind * 2 ^ 28 + flag r.broken * 2 ^ 30 + r.t * 2 ^ 31 +
      r.h * 2 ^ 40 + r.prodT * 2 ^ 49) ++
    dnat (r.prodH + ringSrc r.kind * 2 ^ 32)

/-- DESIGN CHOICE (log 48). -/
def imgWins (c : Core) : List Byte :=
  c.wins.toList.flatMap fun w => dnat (w.base + w.half * 2 ^ 20 + flag w.side * 2 ^ 40 + flag w.init * 2 ^ 41) ++ dnat 0

def imgFifos (c : Core) : List Byte := dirs.flatMap fun d => fit 512 ((c.fifoOf d).flatMap fun w => natBytes 64 w.data.toNat)

def imgQueue (w : Window) : List Byte :=
  fit 1024 (natBytes 4 w.queue.length ++ w.queue.flatMap fun r => natBytes 4 (r.id.toNat + r.result.toNat * 2 ^ 16))

/-- The arrivals for a barrier that a core counts as home, under every binding. -/
def Core.homeCount (c : Core) (b : Nat) : Nat := ((c.homes.filter fun h => h.id = b).map fun h => h.arrived.length).sum

/-- A barrier's dword: the binding word's fields, the observed firing, the arrivals counted as home. DESIGN CHOICE (log 48). -/
def imgBinding (c : Core) (b : Nat) : Nat :=
  let k := c.binding b
  let n := c.homeCount b
  k.desc.toNat + k.evname.toNat * 2 ^ 16 + flag k.even * 2 ^ 32 + (k.observed % 2 ^ 15) * 2 ^ 33 + (n % 2 ^ 10) * 2 ^ 48

def imgBarriers (c : Core) : List Byte := (List.range 2048).flatMap fun b => dnat (imgBinding c b)

/-- A thread image (R373). -/
def threadImage (l : Launch) (c : Core) : List Byte :=
  imgHeader l c ++ fit 256 ((0 :: c.x.toList.tail).flatMap dword) ++ imgSys c ++ fit 64 (c.m.toList.flatMap dword) ++
    fit 96 (c.bankfmt.toList.flatMap dword) ++ imgCounters c ++ imgStage c.stage ++ imgPorts c ++ fit 256 (imgStreams c) ++
    fit 128 (imgRings c) ++ fit 256 (imgWins c) ++ fit 64 (natBytes 4 c.logSeq.toNat) ++
    fit 512 (c.sys.hdrfld.toList.flatMap fun f => natBytes 4 f.toNat) ++ fit 64 [] ++ fit 2048 (c.v.toList.flatMap fun w => natBytes 64 w.toNat) ++
    imgFifos c ++ c.wins.toList.flatMap imgQueue ++ imgBarriers c ++ fit 2048 [] ++ c.lmem.readN 0 l.cmd.localUse

/-- The plot record, 4 KiB (R373), of a plot that is pinned or not; plot 0's holds the step arrivals of the whole launch. DESIGN CHOICE
(log 48). -/
def plotRecord (l : Launch) (i : Nat) (p : Plot) (pin : Bool) : List Byte :=
  let (d, ox, oy) := p.home.getD (0, 0, 0)
  fit 4096 (dnat (l.number.toNat + i * 2 ^ 32) ++ dnat (d + ox * 2 ^ 8 + oy * 2 ^ 16 + l.cmd.w * 2 ^ 24 + l.cmd.h * 2 ^ 32) ++
    dnat (flag pin) ++ dnat (l.id * 2 ^ 8 + l.tenant) ++ dnat ((p.threads.map fun c => c.stage.begun).foldl Nat.max 0) ++
    dnat (if i = 0 then (((l.plots.set i p).flatMap Plot.threads).filter fun c => c.stage.stepEnded).length else 0))

/-- A plot image (R373). -/
def plotImage (l : Launch) (i : Nat) (p : Plot) (pin : Bool) : List Byte := plotRecord l i p pin ++ p.threads.flatMap (threadImage l)

/-! ## Reading: an image's fields over the thread they were written from -/

def dAt (bs : List Byte) (off : Nat) : W64 := w64 (fieldNat bs off 8)

def readDescAt (bs : List Byte) (off : Nat) : StreamDesc := (parseDesc ((bs.drop off).take 32)).1

def readStream (bs : List Byte) (off : Nat) : Stream :=
  let m := fieldNat bs (off + 32) 8
  if m = 0 then { Stream.start with n := fieldNat bs (off + 40) 8 }
  else { mode := if m = 1 then .load else .store, desc := readDescAt bs off, n := fieldNat bs (off + 40) 8 }

def readRingKind (k src : Nat) : RingKind :=
  match k with
  | 0 => .none
  | 1 => .ring
  | 2 => .plotChan (intDec 6 true (src % 64)) (intDec 6 true (src / 256 % 64))
  | _ => .launchChan (intDec 32 true src)

def readRing (bs : List Byte) (off : Nat) : Ring :=
  let a := dAt bs off
  let b := dAt bs (off + 8)
  { kind := readRingKind (bitsOf a 29 28) (bitsOf b 63 32), base := 64 * bitsOf a 11 0, slot := 64 * bitsOf a 18 12, n := bitsOf a 27 19,
    t := bitsOf a 39 31, h := bitsOf a 48 40, prodT := bitsOf a 57 49, prodH := bitsOf b 8 0, broken := a.getLsbD 30 }

/-- A window, its queue's records taken from the image; what a record's trap reports stays where its id and result do. -/
def readWindow (bs : List Byte) (off qoff : Nat) (old : Window) : Window :=
  let a := dAt bs off
  let n := Nat.min (fieldNat bs qoff 4) 255
  let recs := (List.range n).map fun i =>
    let r := fieldNat bs (qoff + 4 + 4 * i) 4
    let id := BitVec.ofNat 16 r
    let res := BitVec.ofNat 4 (r / 2 ^ 16)
    match old.queue[i]? with
    | some d => if d.id = id && d.result = res then d else { id := id, result := res, row := 0, col := 0, refx := 0, refy := 0 }
    | none => { id := id, result := res, row := 0, col := 0, refx := 0, refy := 0 }
  { init := a.getLsbD 41, base := bitsOf a 17 0, half := bitsOf a 36 20, side := a.getLsbD 40, queue := recs }

def readPort (bs : List Byte) (off : Nat) (p : Port) : Port :=
  let a := dAt bs off
  { p with
    id := a.extractLsb' 48 16
    result := a.extractLsb' 40 4
    reason := a.extractLsb' 32 8
    divert := if a.getLsbD 8 then some (a.extractLsb' 32 8, dAt bs (off + 8)) else none }

def readFifo (bs : List Byte) (n off : Nat) (old : List FifoWord) : List FifoWord :=
  (List.range (Nat.min n 8)).map fun i =>
    { data := toV512 ((bs.drop (off + 64 * i)).take 64), landed := true, pusher := (old[i]?).bind FifoWord.pusher }

/-- The arrivals that an edited count leaves at a home for a barrier under the home's own binding: what is over those under other bindings is
taken from the latest, or filled up with the members of the sub-rectangle in row-major order. DESIGN CHOICE (log 123). -/
def Core.setArrivals (c : Core) (b : Nat) (desc : BitVec 16) (n : Nat) : Core :=
  let p := c.placeOr
  let h := c.homeRec b desc
  let m := n - (c.homeCount b - h.arrived.length)
  let more := (members desc p.px p.py).filter fun q => !h.arrived.contains q
  c.setHome { h with arrived := (more.take (m - h.arrived.length)).reverse ++ h.arrived.drop (h.arrived.length - m) }

/-- Bindings whose dword was edited, with the arrivals counted as home. -/
def readBindings (bs : List Byte) (c : Core) : Core :=
  (List.range 2048).foldl (fun c b =>
    let w := dAt bs (0x5800 + 8 * b)
    if w.toNat % 2 ^ 58 = imgBinding c b then c
    else
      let k := c.binding b
      let o := bitsOf w 47 33
      let c1 := c.setBinding { k with desc := w.setWidth 16, evname := w.extractLsb' 16 16, even := w.getLsbD 32, observed := o,
                                      reached := Nat.max o k.reached }
      if bitsOf w 57 48 = c.homeCount b % 2 ^ 10 then c1 else c1.setArrivals b (w.setWidth 16) (bitsOf w 57 48)) c

/-- The run state an image's flags give a thread that has not halted. -/
def readRun (flags : W64) (old : Run) : Run :=
  match old with
  | .halted code => .halted code
  | _ => if flags.getLsbD 0 then .stopped else if flags.getLsbD 1 then .stalled else .running

/-- Entry `i` of an image's HDRFLD table. -/
def hdrAt (bs : List Byte) (i : Nat) : W32 := BitVec.ofNat 32 (fieldNat bs (0x5C0 + 4 * i) 4) &&& hdrMask

/-- SEED of an image; a STATE of 0, which no SEED can have, is not taken (R78): it is only the first instruction's usage fault. -/
def readSeed (bs : List Byte) (old : W64) : W64 :=
  let v := bitsOf (dAt bs 0x188) 31 0
  if v = 0 then old else w64 v

/-- The system registers of an image; the bits their maps show as "—" are ignored (R8). -/
def readSysRegs (bs : List Byte) (y : SysRegs) : SysRegs :=
  { y with
    xpc := dAt bs 0x140, xcause := dAt bs 0x148, xinfo := Vector.ofFn fun (i : Fin 4) => dAt bs (0x150 + 8 * i.val), tvec := dAt bs 0x170,
    lpc := dAt bs 0x178 &&& ~~~1, demoted := (dAt bs 0x180).getLsbD 1, intrap := (dAt bs 0x180).getLsbD 0, seed := readSeed bs y.seed,
    repstate := dAt bs 0x190 &&& repMask, reppc := dAt bs 0x198, repmpc := dAt bs 0x1A0, hdrsel := dAt bs 0x1A8 &&& 0x7F,
    hdrfld := Vector.ofFn fun (i : Fin 128) => hdrAt bs i.val }

/-- The counters of an image. -/
def readCounter (bs : List Byte) (k : Nat) (t : Counter) : Counter :=
  let a := dAt bs (0x260 + 8 * k)
  { t with count := a.setWidth 32, fault := a.getLsbD 40, fcount := a.extractLsb' 48 8 }

def readStage (bs : List Byte) (g : Stage) : Stage :=
  let a := dAt bs 0x2A0
  let b := dAt bs 0x2A8
  { g with
    cur := if a = BitVec.allOnes 64 then none else some a.toNat
    ctr := b.setWidth 8
    exhausted := b.getLsbD 8
    stepEnded := b.getLsbD 9
    taken := fieldNat bs 0x2B0 8
    stepNo := fieldNat bs 0x2B8 8 }

/-- `n` bytes of an image that must be zero are not. -/
def notZero (bs : List Byte) (off n : Nat) : Bool := ((bs.drop off).take n).any (· != 0)

/-- The header, or one of the trap and system registers, holds what no instruction could have left (R374, R377, R78, R194, R203). Bits shown
as "—" are not looked at (R8). -/
def sysBad (l : Launch) (bs : List Byte) : Bool :=
  let fl := dAt bs 0x10
  let rep := dAt bs 0x190
  bitsOf fl 63 16 != 0 || fl.getLsbD 7 || fieldNat bs 0x18 8 != l.cmd.localUse || notZero bs 0x20 32 ||
    bitsOf (dAt bs 0x148) 63 8 != 0 || bitsOf (dAt bs 0x188) 31 0 == 0 ||
    (rep.getLsbD 63 && (bitsOf rep 52 48 == 0 || 16 < bitsOf rep 52 48 || bitsOf rep 52 48 ≤ bitsOf rep 35 32 || bitsOf rep 31 0 == 0)) ||
    notZero bs 0x1B8 8 || (List.range 128).any fun i => hdrBad (hdrAt bs i)

/-- A stream generator's words are no descriptor, no mode or no element of it (R197, R198). -/
def streamBad (bs : List Byte) (q : Nat) : Bool :=
  let off := 0x300 + 64 * q
  let d := parseDesc ((bs.drop off).take 32)
  2 < fieldNat bs (off + 32) 8 || notZero bs (off + 48) 16 || (fieldNat bs (off + 32) 8 != 0 && (!d.2 || d.1.total < fieldNat bs (off + 40) 8))

/-- A pair of counters T and H that a ring of `n` slots cannot hold: one is 2n or more, or T − H is above n (R228). -/
def countsBad (n t h : Nat) : Bool := 2 * n ≤ t || 2 * n ≤ h || n < (t + 2 * n - h) % (2 * n)

/-- A ring breaks R228, or a channel's counters as its producer do (R392). -/
def ringBad (bs : List Byte) (h : Nat) : Bool :=
  let r := readRing bs (0x400 + 16 * h)
  r.kind != .none && (r.slot = 0 || 4096 < r.slot || r.n < 2 || 256 < r.n || 0x30000 < r.base + r.n * r.slot || countsBad r.n r.t r.h ||
    countsBad r.n r.prodT r.prodH)

/-- A window breaks R226, or its delivery queue R311, whose records hold results 1 to 4 (R310). -/
def winBad (bs : List Byte) (w : Nat) : Bool :=
  let v := readWindow bs (0x480 + 16 * w) 0x1800 Window.start
  255 < fieldNat bs (0x1800 + 1024 * w) 4 ||
    ((List.range (fieldNat bs (0x1800 + 1024 * w) 4)).any fun i =>
      let r := fieldNat bs (0x1804 + 1024 * w + 4 * i) 4 / 2 ^ 16
      r < 1 || 4 < r) ||
    (v.init && (v.base % 64 != 0 || v.half % 64 != 0 || v.half < 64 || 65536 < v.half || 0x30000 < v.base + 2 * v.half))

/-- The regions of local memory that an image's rings and windows take, and those of a thread's stashes. -/
def regionsOf (c : Core) (bs : List Byte) : List (Nat × Nat) :=
  (((List.range 8).map fun h => readRing bs (0x400 + 16 * h)).filter fun r => r.kind != .none).map (fun r => (r.base, r.n * r.slot)) ++
  (((List.range 16).map fun w => readWindow bs (0x480 + 16 * w) 0x1800 Window.start).filter Window.init).map (fun w => (w.base, 2 * w.half)) ++
  c.stashes.toList.filterMap fun o => o.map fun r => (r.lbase, 4096 * r.pages)

/-- The most arrivals a thread's core can have counted as home for a barrier, when its own binding is `desc`: those under other bindings, and
one for each member of the sub-rectangle whose home it is (R133). -/
def Core.mostArrivals (c : Core) (b : Nat) (desc : BitVec 16) : Nat :=
  let p := c.placeOr
  c.homeCount b - (c.homeRec b desc).arrived.length +
    if shapeOrigin desc p.px p.py = (p.px, p.py) then descW desc * descH desc else 0

/-- A barrier's word names no shape of the plot, or counts arrivals that cannot have been made (R121, R133, R209). -/
def barrierBad (l : Launch) (c : Core) (bs : List Byte) (b : Nat) : Bool :=
  let w := dAt bs (0x5800 + 8 * b)
  !descValid (w.setWidth 16) l.cmd.w l.cmd.h ||
    (bitsOf w 57 48 != c.homeCount b % 2 ^ 10 && c.mostArrivals b (w.setWidth 16) < bitsOf w 57 48)

/-- A field of an image that no instruction could have left (R366): what the thread's first instruction then takes a usage fault for. Rings,
windows and stash regions must not overlap (R226). DEDUCED (log 50). -/
def imageBad (c : Core) (l : Launch) (bs : List Byte) : Bool :=
  sysBad l bs || !disjoint (regionsOf c bs) ||
    ((List.range 12).any fun b => !bankfmtOk (dAt bs (0x200 + 8 * b))) ||
    ((List.range 4).any fun d => 8 < fieldNat bs (0x2C0 + 16 * d) 1) ||
    (List.range 4).any (streamBad bs) || (List.range 8).any (ringBad bs) || (List.range 16).any (winBad bs) ||
    notZero bs 0x584 60 || notZero bs 0x7C0 64 || notZero bs 0x9800 2048 || (List.range 2048).any (barrierBad l c bs)

/-- A thread as its image now has it; a broken channel stays broken (R394). DEDUCED, DESIGN CHOICE (log 49, 50, 51). -/
def Core.overlay (c : Core) (l : Launch) (bs : List Byte) : Core :=
  let fl := dAt bs 0x10
  let fifo : Vector (List FifoWord) 4 :=
    Vector.ofFn fun (i : Fin 4) => readFifo bs (fieldNat bs (0x2C0 + 16 * i.val) 1) (0x1000 + 512 * i.val) c.fifo[i]
  let rings : Vector Ring 8 := Vector.ofFn fun (i : Fin 8) =>
    let r := readRing bs (0x400 + 16 * i.val)
    { r with broken := r.broken || c.rings[i].broken }
  let k : Core := { c with
    run := readRun fl c.run
    pc := dAt bs 8
    x := Vector.ofFn fun (i : Fin 32) => dAt bs (0x40 + 8 * i.val)
    g := (dAt bs 0x1B0).setWidth 8 ||| 1
    v := Vector.ofFn fun (i : Fin 32) => toV512 ((bs.drop (0x800 + 64 * i.val)).take 64)
    m := Vector.ofFn fun (i : Fin 8) => dAt bs (0x1C0 + 8 * i.val)
    bankfmt := Vector.ofFn fun (i : Fin 12) => dAt bs (0x200 + 8 * i.val)
    sys := readSysRegs bs c.sys
    stage := readStage bs c.stage
    streams := Vector.ofFn fun (i : Fin 4) => readStream bs (0x300 + 64 * i.val)
    rings := rings
    fifo := fifo
    logSeq := BitVec.ofNat 32 (fieldNat bs 0x580 4)
    lmem := ({ cells := [] } : Memory).writeN 0 (sliceBytes (bs.drop 0xA000) 0 l.cmd.localUse)
    uncorrected := if fl.getLsbD 4 then some (c.uncorrected.getD (0, 0, 0)) else none
    linkstall := if fl.getLsbD 5 then (if c.linkstall.isEmpty then [(0, 0)] else c.linkstall) else []
    chanbroken := if fl.getLsbD 6 then (if c.chanbroken.isEmpty then [0] else c.chanbroken) else []
    prog := if imageBad c l bs then some .badImage else c.prog.filter (· != .badImage)
    inRep := if dAt bs 0x190 = c.sys.repstate && (dAt bs 0x180).getLsbD 0 = c.sys.intrap then c.inRep
      else (dAt bs 0x190).getLsbD 63 && !(dAt bs 0x180).getLsbD 0 }
  let k1 : Core := { k with
    wins := Vector.ofFn fun (i : Fin 16) => readWindow bs (0x480 + 16 * i.val) (0x1800 + 1024 * i.val) (c.wins[i])
    ctrs := Vector.ofFn fun (i : Fin 8) => readCounter bs i.val (c.ctrs[i])
    ports := Vector.ofFn fun (i : Fin 4) => readPort bs (0x2C0 + 16 * i.val) (c.ports[i]) }
  readBindings bs k1

/-- The image of thread `k` of a plot image. -/
def threadBytes (l : Launch) (img : List Byte) (k : Nat) : List Byte := (img.drop (4096 + k * l.threadSize)).take l.threadSize

/-- The bytes of an image as it is read back: those that differ from what the image held when it was saved are taken as edited; the others
stand for what the thread has now, since what an engine or a link has told its ports and rings meanwhile is kept (R385, R394).
DEDUCED (log 51). -/
def edited : List Byte → List Byte → List Byte → List Byte
  | b :: bs, o :: os, n :: ns => (if b = o then n else b) :: edited bs os ns
  | bs, _, _ => bs

/-- Thread `k`'s image: the bytes that an image of the plot has been given by its editor over what the thread now has. -/
def Plot.editsOf (p : Plot) (l : Launch) (img : List Byte) (k : Nat) (c : Core) : List Byte :=
  edited (threadBytes l img k) (threadImage l (p.snap[k]?.getD c)) (threadImage l c)

/-- A plot's threads as an image now has them. -/
def Plot.overlay (p : Plot) (l : Launch) (img : List Byte) : Plot :=
  { p with threads := p.threads.mapIdx fun k c => c.overlay l (p.editsOf l img k c) }

/-- A plot image that keeps what an earlier image of the plot has been given by its editor. -/
def Plot.imageOver (p : Plot) (l : Launch) (i : Nat) (pin : Bool) (img : List Byte) : List Byte :=
  plotRecord l i p pin ++ (p.threads.mapIdx fun k c => p.editsOf l img k c).flatten

end Sys2Proof.Machine
end

