-- ==== Sys2Proof/Machine/SliceUnit.lean ====
section
/-! DEFINITION. Sys2Proof/Machine/SliceUnit.lean: the L2 slices' request queues, tokens, combining, way masks, contention predictor,
directory and scrub (R232 to R239, R293, R368, R369), and the slice triggers (R349). No value is held in a slice: R261. -/

namespace Sys2Proof.Machine

/-- The way mask of a tenant in a slice (R233): all ones until the host sets it. -/
def State.wayMask (s : State) (t sl : Nat) : BitVec 16 := tabGet 0xFFFF (s.tenantAt t).waymask sl

/-- The set of a line: PA[21:11]. -/
def setOf (line : Nat) : Nat := line / 2048 % 2048

/-! ## Replacement (R233, R234) -/

/-- Walk the 15-bit tree from its root toward the victim, never into a half without an allowed way. DESIGN CHOICE (log 44). -/
def plruPick (tree : BitVec 15) (ok : Nat → Bool) : Nat → Nat → Nat → Nat
  | 0, _, base => base
  | d + 1, node, base =>
    let half := 2 ^ d
    let left := (List.range half).any fun i => ok (base + i)
    let right := (List.range half).any fun i => ok (base + half + i)
    if right && (tree.getLsbD node || !left) then plruPick tree ok d (2 * node + 2) (base + half)
    else plruPick tree ok d (2 * node + 1) base

/-- Point the tree away from a way, or toward it when `next` (HINT 3). -/
def plruTouch (way : Nat) (next : Bool) : Nat → Nat → Nat → BitVec 15 → BitVec 15
  | 0, _, _, t => t
  | d + 1, node, base, t =>
    let half := 2 ^ d
    let inRight := base + half ≤ way
    let bit : BitVec 15 := 1#15 <<< node
    let t' := if inRight == next then t ||| bit else t &&& ~~~bit
    plruTouch way next d (if inRight then 2 * node + 2 else 2 * node + 1) (if inRight then base + half else base) t'

/-- The way a miss allocates, among the ways of a mask. -/
def Slice.victim (q : Slice) (set : Nat) (mask : BitVec 16) : Option Nat :=
  let here := q.lines.filter fun l => setOf l.line = set
  let allowed := fun (w : Nat) => mask.getLsbD w
  match (List.range 16).find? fun w => allowed w && here.all fun l => l.way ≠ w with
  | some w => some w
  | none =>
    if mask = 0 then none
    else
      let kept := fun (w : Nat) => here.any fun l => l.way = w && l.keep
      let tree := tabGet 0 q.plru set
      if (List.range 16).any fun w => allowed w && !kept w then some (plruPick tree (fun w => allowed w && !kept w) 4 0 0)
      else some (plruPick tree allowed 4 0 0)

/-- A line's marks and its set's order after an access with a hint (R234). -/
def Slice.touch (q : Slice) (line hint : Nat) : Slice :=
  match q.lines.find? fun l => l.line = line with
  | none => q
  | some l =>
    let set := setOf line
    let keep := if hint = 2 then true else if hint = 3 then false else l.keep
    let tree := if hint = 1 then tabGet 0 q.plru set else plruTouch l.way (hint = 3) 4 0 0 (tabGet 0 q.plru set)
    { q with lines := q.lines.map fun k => if k.line = line then { k with keep := keep } else k, plru := tabSet q.plru set tree }

/-- The line that a miss in a set would displace. -/
def Slice.displaced (q : Slice) (mask : BitVec 16) (line : Nat) : Option SliceLine :=
  (q.victim (setOf line) mask).bind fun w => q.lines.find? fun l => setOf l.line = setOf line && l.way = w

/-- Allocate a way for a tenant's line; the victim leaves. -/
def Slice.allocate (q : Slice) (way : Option Nat) (line tenant : Nat) (copy : Bool) : Slice × Option SliceLine :=
  match way with
  | none => (q, none)
  | some w =>
    let old := q.lines.find? fun l => setOf l.line = setOf line && l.way = w
    let ln : SliceLine := { line := line, way := w, tenant := tenant, dirty := false, keep := false, copy := copy, sharers := [],
                            owner := none }
    ({ q with lines := ln :: q.lines.filter fun l => !(setOf l.line == setOf line && l.way == w) }, old)

/-! ## Triggers (R349) -/

/-- A trigger arises: queued, or skipped with its default action (which is to go on); on a drained die always so (R423). -/
def State.raise (s : State) (sl t line : Nat) (k : Trigger) (req : Option Req) : State :=
  match s.handlerFor sl t line k with
  | none => s
  | some (r, off) =>
    let q := s.sliceAt sl
    if (s.dieAt (sl / 16)).drained then s
    else if 16 ≤ q.trigs.length || q.passing then s.modSlice sl fun q => q.skip t k
    else
      let who := match req with
        | some q => (match (s.coreAt q.owner).place with
          | some p => if p.launch = r.launch && k != .evict then some (s.coreIndex (s.coreAt q.owner)) else none
          | none => none)
        | none => none
      let g : Trig := { tenant := t, kind := k, line := line, off := off, reqId := req.map Req.id, requester := who, msg := [], from_ := none }
      s.modSlice sl fun q => { q with trigs := q.trigs ++ [g] }

/-! ## Requests -/

def State.reqAt (s : State) (id : Nat) : Option Req := s.reqs.find? fun r => r.id = id
def State.setReq (s : State) (r : Req) : State := { s with reqs := s.reqs.map fun q => if q.id = r.id then r else q }
def State.dropReq (s : State) (id : Nat) : State := { s with reqs := s.reqs.filter fun q => q.id ≠ id }

/-- A queued or running trigger holds a request. -/
def State.triggerHolds (s : State) (sl id : Nat) : Bool :=
  let q := s.sliceAt sl
  (q.trigs.any fun g => g.reqId = some id) || q.inv.any fun v => v.trig.reqId = some id

/-- The data of a begun request is ready: no trigger holds it, and no other core still has the line in a way its access forbids (R224,
R349). -/
def State.dataReady (s : State) (r : Req) : Bool :=
  (match r.st with
    | .begun => true
    | .missed => r.quiet || ((s.handlerFor r.slice r.tenant r.line .miss).isNone && (s.handlerFor r.slice r.tenant r.line .fill).isNone)
    | .filling => (s.handlerFor r.slice r.tenant r.line .fill).isNone && !s.triggerHolds r.slice r.id
    | .filled => !s.triggerHolds r.slice r.id
    | _ => false) && s.allCores.all fun c => !r.recalls c

/-- The load that a request was sent for. -/
def State.loadOf (s : State) (r : Req) : Option Op :=
  if r.agent == .core then (s.coreAt r.owner).pq.find? fun o => o.req == some r.id && o.kind.isLoad && !o.kind.isAtomic else none

/-- A thread's combined read reaches the slice only once the order of its operations lets its load be satisfied, so that the load can take the
value of the window's reply (R236, R253). DESIGN CHOICE (log 89). -/
def State.outOfTurn (s : State) (r : Req) : Bool := r.cmb && r.kind == .read && (s.loadOf r).any fun o => !s.loadTurn (s.coreAt r.owner) o

/-- The combining window that a read joins on its arrival (R236): open for its line, not 32 cycles old, with fewer than 16 requesters, all
of them other agents. A read by an agent that is in the window already opens another. DESIGN CHOICE (log 89). -/
def State.joinable (s : State) (r : Req) (w : Combine) : Bool :=
  w.line = r.line && decide ((s.cycle - w.opened).toNat ≤ 32) && decide (w.joined.length < 16) &&
    w.joined.all fun id => (s.reqAt id).all fun q => !(q.owner == r.owner && q.agent == r.agent)

/-- The rank of a request at port 4 among those that have waited equally long (R292): requests from cores and engines by die, y and x, then the
slice core's, then the page walkers'. -/
def Req.rank (r : Req) : Nat :=
  match r.agent with
  | .core | .engine => (r.owner.die * 32 + r.owner.y) * 32 + r.owner.x
  | .slice => 8192
  | .walker => 8193

/-- A request of port 4 is granted an entry before another (R292). -/
def Req.before (q r : Req) : Bool :=
  match q.waits, r.waits with
  | some t, some u => t.ult u || (t == u && q.rank < r.rank)
  | some _, none => true
  | none, _ => false

/-- A request of port 4 waits in its sender while the queue is full, and lets those that R292 grants first go first. -/
def State.portWaits (s : State) (r : Req) : Bool :=
  decide (16 ≤ s.queueUse r.slice 4) || s.reqs.any fun q => q.id != r.id && q.slice = r.slice && q.st == .transit && q.before r

/-- SLICE_REQUEST_ARRIVE (R232, R236, R292, R389). A read that joins a window takes an entry too. DESIGN CHOICE (log 89). -/
def execSliceRequestArrive (sl id : Nat) (s : State) : Host.Outcome State Fault Refusal :=
  match s.reqAt id with
  | some r =>
    if r.slice ≠ sl || r.st ≠ .transit || s.pathHeld r.die (sl / 16) || s.outOfTurn r then event s
    else
      let port := reqPort r.agent r.owner sl
      let open_ := (s.sliceAt sl).combines.any fun w => w.line = r.line
      let reads := r.cmb && r.kind == .read
      if port = 4 && s.portWaits r then event (s.setReq { r with waits := r.waits.or (some s.cycle) })
      else match (s.sliceAt sl).combines.find? fun w => reads && s.joinable r w with
        | some w =>
          event ((s.setReq { r with st := .joined, at_ := s.cycle }).modSlice sl fun q =>
            { q with combines := q.combines.map fun v => if v = w then { v with joined := v.joined ++ [r.id] } else v })
        | none =>
          let s1 := s.setReq { r with st := .queued port, at_ := s.cycle, late := r.writes && open_ }
          event (if reads then s1.modSlice sl fun q => { q with combines := q.combines ++ [{ line := r.line, opened := s.cycle, joined := [r.id] }] }
            else s1)
  | none => event s

/-- The tokens of a request (R237). -/
def Req.cost (r : Req) : Nat :=
  match r.kind with
  | .read | .write | .own => 2
  | .partialWrite | .atomic | .log => 1

def Slice.bucket (q : Slice) (t port : Nat) : Bucket :=
  (q.buckets.find? fun b => b.tenant = t && b.port = port).getD { tenant := t, port := port, rate := 0, depth := 1, tokens := 0 }
def Slice.setBucket (q : Slice) (b : Bucket) : Slice :=
  { q with buckets := b :: q.buckets.filter fun c => !(c.tenant == b.tenant && c.port == b.port) }

/-- The tenants whose waiting requests on a port lack tokens. -/
def State.lacking (s : State) (sl port : Nat) : List Nat :=
  let q := s.sliceAt sl
  ((s.reqs.filter fun r => r.slice = sl && r.st = .queued port && (q.bucket r.tenant port).rate != 0 &&
    decide ((q.bucket r.tenant port).tokens < r.cost)).map Req.tenant).eraseDups

/-- The tenant next in the pool's order: the first at or above the last one served plus one, else the lowest. -/
def nextTenant (from_ : Nat) (ts : List Nat) : Option Nat :=
  let hi := ts.filter fun t => from_ ≤ t
  match hi with
  | [] => ts.foldl (fun m t => match m with | none => some t | some u => some (Nat.min u t)) none
  | _ => hi.foldl (fun m t => match m with | none => some t | some u => some (Nat.min u t)) none

/-- How an eligible request is paid for (R237, R238): nothing, its bucket, or the pool. -/
inductive Pay where
  | free | bucket | pool
deriving DecidableEq, Repr

/-- How a queued request may begin (R238). A write that found a window open when it arrived begins after every window of its line that is open
when it would begin, and after the reads that such a window has answered (R236). DESIGN CHOICE (log 89). -/
def State.eligible (s : State) (sl port : Nat) (r : Req) : Option Pay :=
  let q := s.sliceAt sl
  let b := q.bucket r.tenant port
  if r.late && s.windowed r.line then none
  else if b.rate = 0 then some .free
  else if r.cost ≤ b.tokens then some .bucket
  else if r.cost ≤ tabGet 0 q.pools port && nextTenant (tabGet 0 q.poolNext port) (s.lacking sl port) == some r.tenant then some .pool
  else none

/-- The request a slice begins: ports in turn after the last, the oldest eligible one of a port, which is the one sent first. DESIGN CHOICE
(log 89). -/
def State.pickReq (s : State) (sl : Nat) : Option (Req × Nat × Pay) :=
  (List.range 5).findSome? fun i =>
    let port := ((s.sliceAt sl).lastPort + 1 + i) % 5
    s.reqs.findSome? fun r =>
      if r.slice = sl && r.st = .queued port then (s.eligible sl port r).map fun p => (r, port, p) else none

/-- Pay for a request. -/
def Slice.pay (q : Slice) (r : Req) (port : Nat) (p : Pay) : Slice :=
  match p with
  | .free => q
  | .bucket => let b := q.bucket r.tenant port; q.setBucket { b with tokens := b.tokens - r.cost }
  | .pool => { q with pools := tabSet q.pools port (tabGet 0 q.pools port - r.cost), poolNext := tabSet q.poolNext port (r.tenant + 1) }

/-- The entry of the contention predictor that serves a line (R239). DEDUCED (log 45). -/
def predIndex (line : Nat) : Nat := (line / 128 % 256) ^^^ (line / 32768 % 256)

/-- The directory lock of a line is set (R247). -/
def State.lineLocked (s : State) (line : Nat) : Bool := s.locks.any fun e => ptePfn e.pte ≤ line && line < ptePfn e.pte + e.size

/-- The request's line lies in a mapped stash range of its core. -/
def State.reqStashed (s : State) (r : Req) : Bool := r.agent == .core && ((s.coreAt r.owner).stashOf r.va).isSome

/-- The request may fill a stash entry: not with HINT 1, unless the entry is there (R234). -/
def State.mayFill (s : State) (r : Req) : Bool := r.hint ≠ 1 || ((s.coreAt r.owner).stashEntry r.va).isSome

/-- The home slice grants a request the line with ownership (R224, R239): a prefetch for ownership, a store to a stash range, an atomic
whose predictor counted below 2; never while the line's directory lock is set. -/
def State.grants (s : State) (r : Req) : Bool :=
  !s.lineLocked r.line && r.agent == .core && match r.kind with
    | .own => s.mayFill r
    | .atomic => decide (r.cnt < 2) && (!s.reqStashed r || s.mayFill r)
    | .write | .partialWrite => s.reqStashed r && s.mayFill r
    | .read | .log => false

/-- The slice on its die that keeps a requester-side copy for a core's read (R235, R388): not with HINT 1 or an empty mask, and not where an
EVICT handler watches the line that it would displace. DESIGN CHOICE (log 89). -/
def State.copySlice (s : State) (r : Req) : Option Nat :=
  let sl := 16 * r.owner.die + r.slice % 16
  let q := s.sliceAt sl
  let old := if q.lines.any fun l => l.line = r.line then none else q.displaced (s.wayMask r.tenant sl) r.line
  let watched := old.any fun v => !v.copy && (s.handlerFor sl v.tenant v.line .evict).isSome
  if r.agent == .core && r.kind == .read && r.owner.kind = .compute && r.owner.die ≠ r.slice / 16 && r.hint ≠ 1 && s.wayMask r.tenant sl ≠ 0 &&
      !watched then some sl else none

def sliceLoc (sl : Nat) : Loc := { kind := .slice, die := sl / 16, x := sl % 16, y := 0 }

/-- The home line's directory after a request (R224, R235, R239): a read makes another core that owned the line a sharer, where its stash
entry stays. -/
def SliceLine.directory (l : SliceLine) (r : Req) (grant stashed : Bool) (copy : Option Nat) (stays : Loc → Bool) : SliceLine :=
  if r.writes then { l with dirty := l.dirty || r.kind != .own, sharers := [], owner := if grant then some r.owner else none }
  else
    let new := (if stashed then [r.owner] else []) ++ (copy.map sliceLoc).toList
    let k := if l.owner == some r.owner then l else l.demote stays
    { k with sharers := k.sharers ++ new.filter fun o => !k.sharers.contains o }

/-- An atomic's line granted to its core: in its stash entry where the line is mapped, else in its atomic line buffer (R239). -/
def Core.granted (c : Core) (r : Req) : Core := if (c.stashOf r.va).isSome then c.touchStash r.va r.line r.slice true true else c.useLine r.line

/-- A line leaves a slice (R235, R240, R369): an uncorrectable error that nothing had found is found; a dirty line goes to the stack, a
requester-side copy nowhere. -/
def State.evicted (s : State) (die : Nat) (v : SliceLine) : State :=
  let s1 := s.checkOut v.line
  if v.dirty && !v.copy then s1.stackFill die v.line true else s1

/-- A request's line takes a way of a slice, and its victim leaves (R233). -/
def State.takeWay (s : State) (sl : Nat) (way : Option Nat) (r : Req) (copy : Bool) : State :=
  let (q, old) := (s.sliceAt sl).allocate way r.line r.tenant copy
  let s1 := s.modSlice sl fun _ => q
  match old with
  | some v => s1.evicted (sl / 16) v
  | none => s1

/-- A slice keeps a requester-side copy of a line (R234, R235). -/
def State.keepCopy (s : State) (sl : Nat) (r : Req) : State :=
  let q := s.sliceAt sl
  let s1 := if q.lines.any fun l => l.line = r.line then s
    else s.takeWay sl (q.victim (setOf r.line) (s.wayMask r.tenant sl)) r true
  s1.modSlice sl fun q => q.touch r.line r.hint

/-- What a request with its line at hand does to the directory and to copies (R224, R234, R235, R239); the requester-side copies of a line
that is written go. A LOG's append touches no line. -/
def State.settleReq (s : State) (r : Req) : State :=
  if r.kind = .log then s else
  let grant := s.grants r
  let copy := s.copySlice r
  let stays := fun (o : Loc) => (s.coreAt o).entries.any fun e => e.line == r.line
  let s1 := s.modSlice r.slice fun q => Slice.touch { q with lines := q.lines.map fun l =>
    (if l.line = r.line && !l.copy then l.directory r grant (s.reqStashed r && s.mayFill r) copy stays else l) } r.line r.hint
  let s2 := if r.writes then s1.dropCopies r.line (if r.agent == .core then some r.owner else none) else match copy with
    | some k => s1.keepCopy k r
    | none => s1
  let s3 := s2.mapCores fun c => if r.ofThread c.loc then c else { c with linebuf := c.linebuf.filter fun a => a ≠ r.line }
  if r.kind = .atomic && grant then s3.modCore r.owner fun c => c.granted r else s3

/-- A missed line takes its way (R233, R234, R240): the victim goes, to the stack if it was dirty; the line comes from DRAM or the stack,
and enters the stack. With HINT 1 nothing is allocated. -/
def State.install (s : State) (r : Req) (way : Option Nat) : State :=
  if r.hint = 1 then s else (s.takeWay r.slice way r false).stackFill (r.slice / 16) r.line false

/-- A begun request whose line its home slice does not hold: where an EVICT handler watches the victim, its trigger holds the allocation;
otherwise the line is allocated (R233, R349). -/
def State.miss (s : State) (r : Req) : State :=
  let q := s.sliceAt r.slice
  let mask := s.wayMask r.tenant r.slice
  let old := if r.hint = 1 then none else q.displaced mask r.line
  match old.bind fun v => if v.copy || r.quiet then none else (s.handlerFor r.slice v.tenant v.line .evict).map fun _ => v with
  | some v => (s.setReq { r with st := .evicting v.line }).raise r.slice v.tenant v.line .evict (some r)
  | none => ((s.install r (q.victim (setOf r.line) mask)).settleReq r).setReq { r with st := .missed }

/-- A core other than a request's holds its line, in a stash entry or its atomic line buffer (R224, R239): one that the line's directory names,
or whose own request for the line is not still on its way. -/
def State.heldElsewhere (s : State) (r : Req) (ln : Option SliceLine) : Bool :=
  s.allCores.any fun c => c.loc != r.owner && (c.linebuf.contains r.line || c.entries.any fun e => e.line == r.line) &&
    ((ln.any fun l => l.sharers.contains c.loc || l.owner == some c.loc) ||
      !(s.reqs.any fun q => q.ofThread c.loc && q.line == r.line && (match q.st with | .transit | .queued _ => true | _ => false)))

/-- What a begun request does at its home slice (R232 to R236, R239): a hit or a miss. -/
def State.serve (s : State) (r : Req) : State :=
  let q := s.sliceAt r.slice
  let ln := q.lines.find? fun l => l.line = r.line && !l.copy
  let others := s.heldElsewhere r ln
  let k := predIndex r.line
  let cnt := tabGet 0 q.pred k
  let s1 := s.modSlice r.slice fun q => { q with pred := tabSet q.pred k (if others then (if cnt = 3 then 3 else cnt + 1) else (if cnt = 0 then 0 else cnt - 1)) }
  let r1 : Req := { r with st := .begun, at_ := s.cycle, cnt := cnt.toNat }
  if r.kind = .log then s1.setReq r1
  else if ln.isSome then (s1.settleReq r1).setReq r1
  else s1.miss r1

/-- A slice may begin a request: two cycles have passed since its previous begin (R293). -/
def State.mayBegin (s : State) (sl : Nat) : Bool := (s.sliceAt sl).began.all fun t => decide (2 ≤ (s.cycle - t).toNat)

/-- SLICE_REQUEST_BEGIN (R232, R238, R293). -/
def execSliceRequestBegin (sl : Nat) (s : State) : Host.Outcome State Fault Refusal :=
  match (if s.mayBegin sl then s.pickReq sl else none) with
  | some (r, port, p) => event ((s.modSlice sl fun q => { q.pay r port p with lastPort := port, began := some s.cycle }).serve r)
  | none => event s

/-- SLICE_TRIGGER (R349): a miss, a fill, or the end of an EVICT trigger, whose default action is then taken: the victim is written back if
dirty and dropped, and the allocation it held is made in its way; where it has left its slice meanwhile, the miss is taken anew. -/
def execSliceTrigger (sl t : Nat) (tr : Trigger) (line : Nat) (req : Option Nat) (s : State) : Host.Outcome State Fault Refusal :=
  match tr, req.bind s.reqAt with
  | .miss, some r =>
    event (if r.slice = sl && r.tenant = t && r.line = line && r.st = .missed && !r.quiet then
      (s.setReq { r with st := .filling }).raise sl t line .miss (some r) else s)
  | .fill, some r =>
    event (if r.slice = sl && r.tenant = t && r.line = line && r.st = .filling && !s.triggerHolds sl r.id then
      (s.setReq { r with st := .filled }).raise sl t line .fill (some r) else s)
  | .evict, some r =>
    event (if r.slice = sl && r.st = .evicting line && !s.triggerHolds sl r.id then
      (match (s.sliceAt sl).lines.find? fun l => l.line = line && !l.copy with
        | some v => ((s.install r (some v.way)).settleReq r).setReq { r with st := .missed }
        | none => s.miss r) else s)
  | .msg, _ | _, none => event s

/-- A command or a slice core has still to read what a request was sent for. -/
def State.awaited (s : State) (id : Nat) : Bool :=
  s.allCores.any fun c => c.prog == some (.shFetch id) || c.cmds.any fun m => m.req.contains id

/-- SLICE_DATA_RETURN (R232): a request that no combining window and no trigger holds returns to its requester, over a path that no
retraining link holds (R389); its queue entry has been free for its sender since the second cycle after it began (R292). One that a window has
answered is done once its reader has read, or is gone. -/
def execSliceDataReturn (sl id : Nat) (s : State) : Host.Outcome State Fault Refusal :=
  match s.reqAt id with
  | some r =>
    let back := s.dataReady r && 2 ≤ (s.cycle - r.at_).toNat && !s.pathHeld (sl / 16) r.die
    event (if r.slice = sl && (if r.st = .answered then !s.awaited id else !s.inWindow r && back) then s.dropReq id else s)
  | none => event s

/-- STASH_RECALL (R224, R225): a begun request of another agent recalls an entry; it is written back, and stays shared after a read; a write
drops it. -/
def execStashRecall (l : Loc) (r entry : Nat) (inval : Bool) (s : State) : Host.Outcome State Fault Refusal :=
  match ((s.coreAt l).stashes[r]?.join).bind fun t => (t.entries.find? fun e => e.idx = entry).map fun e => (t, e) with
  | some (t, e) =>
    let asks := fun (q : Req) => q.line == e.line && !q.ofThread l && q.kind != .log && q.writes == inval && (match q.st with
      | .transit | .queued _ | .answered => false
      | _ => true)
    if s.reqs.any fun q => asks q && (inval || e.owned) then
      let es := if inval then t.entries.filter fun f => f.idx ≠ entry
        else t.entries.map fun f => if f.idx = entry then { f with dirty := false, owned := false } else f
      event ((s.stashBack e).modCore l fun c => { c with stashes := c.stashes.setIfInBounds r (some { t with entries := es }) })
    else event s
  | none => event s

/-- TOKEN_REFILL (R237): every 256 cycles. -/
def Slice.refill (q : Slice) (b : Bucket) : Slice :=
  let have_ := b.tokens + b.rate
  let extra := have_ - b.depth
  { q.setBucket { b with tokens := Nat.min have_ b.depth } with pools := tabSet q.pools b.port (Nat.min (tabGet 0 q.pools b.port + extra) 4096) }

/-- DEDUCED (log 69). -/
def execTokenRefill (sl : Nat) (s : State) : Host.Outcome State Fault Refusal :=
  event (s.modSlice sl fun q => (q.buckets.filter fun b => b.rate ≠ 0).foldl Slice.refill q)

/-- The load that a request was sent for is satisfied, where its conditions hold. -/
def State.satisfyReq (s : State) (r : Req) : State :=
  match (s.loadOf r).bind (s.opReady (s.coreAt r.owner)) with
  | some o => (s.perform r.owner o).dropFences r.owner
  | none => s

/-- A window's reply has been sent: it is closed; the requests of its threads have returned, and those of commands and slice cores are answered. -/
def State.sendReply (s : State) (sl : Nat) (w : Combine) : State :=
  { s.modSlice sl fun q => { q with combines := q.combines.erase w } with
    reqs := s.reqs.filterMap fun r => if w.joined.contains r.id then (if r.agent == .core then none else some { r with st := .answered }) else some r }

/-- The reply of a window may be sent (R236): 32 cycles after it opened, once the data of the read that opened it is ready and 2 cycles have
passed since that one began (R232, R292), no requester's entry has still to be recalled, no retraining link holds the way to a requester
(R389), and every requester's load can take the value. -/
def State.replyReady (s : State) (sl : Nat) (w : Combine) : Bool :=
  let rs := w.joined.filterMap s.reqAt
  let t := s.sendReply sl w
  decide (32 ≤ (s.cycle - w.opened).toNat) &&
  (((w.joined.head?).bind s.reqAt).all fun r => s.dataReady r && decide (2 ≤ (s.cycle - r.at_).toNat)) &&
  rs.all fun r => (s.allCores.all fun c => !r.recalls c) && !s.pathHeld (sl / 16) r.die &&
    ((s.loadOf r).all fun o => (s.coreAt r.owner).isBarred o.pos || (t.opReady (t.coreAt r.owner) o).isSome)

/-- COMBINE_REPLY (R236): a window's requesters are answered at once, and their loads take the values from before the writes that wait for the
reply. DEDUCED (log 89). -/
def execCombineReply (sl line : Nat) (s : State) : Host.Outcome State Fault Refusal :=
  match (s.sliceAt sl).combines.find? fun w => w.line = line && s.replyReady sl w with
  | some w =>
    let rs := w.joined.filterMap s.reqAt
    let s1 := (rs.filter fun r => r.st = .joined).foldl State.settleReq s
    event (rs.foldl State.satisfyReq (s1.sendReply sl w))
  | none => event s

/-- WAYMASK_DRAIN (R233): dirty lines in ways a tenant's mask no longer holds are written back. DEDUCED (log 69). -/
def execWaymaskDrain (sl t : Nat) (s : State) : Host.Outcome State Fault Refusal :=
  event (s.modSlice sl fun q => { q with lines := q.lines.map fun l =>
    if l.tenant = t && !(s.wayMask t sl).getLsbD l.way then { l with dirty := false } else l })

/-- PATROL_SCRUB (R368, R369): a single-bit error is corrected and counted; an uncorrectable line is poisoned, and its tenant told.
DEDUCED, DESIGN CHOICE (log 37, 69). -/
def execPatrolScrub (line : Nat) (bad : Bool) (s : State) : Host.Outcome State Fault Refusal :=
  if !isDevice line then event s
  else if bad then event (s.poisonFound (lineOf line))
  else event ({ s with softLines := s.softLines.filter (· ≠ lineOf line) }.countFixed (s.lineUnit (lineOf line))
    (tabGet 0xFF s.owners (granuleOf line)).toNat 1)

end Sys2Proof.Machine
end

