-- ==== Sys2Proof/Machine/Float.lean ====
section
/-! DEFINITION. Sys2Proof/Machine/Float.lean: scalar floating point (R106 to R110) and the stochastic state (R78, R79). -/

namespace Sys2Proof.Machine

/-- The format of a scalar type: `true` is f32 (R106). -/
def sfmt (t : Bool) : FFmt := if t then fF32 else fF64

/-- A register's operand value: all of it, or its bits [31:0]. -/
def fval (t : Bool) (v : W64) : FVal := fdec (sfmt t) v.toNat

/-- A result rounded to nearest even, the higher bits zero. -/
def fres (t : Bool) (x : FVal) : W64 := w64 (fround (sfmt t) x)

def fbin (t : Bool) (f : FVal → FVal → FVal) (a b : W64) : W64 := fres t (f (fval t a) (fval t b))
def fun1 (t : Bool) (f : FVal → FVal) (a : W64) : W64 := fres t (f (fval t a))

def execFadd (t : Bool) (d b a : XReg) (c : Ctl) (s : State) : Host.Outcome State Fault Refusal :=
  writeX c d (fun s => fbin t FVal.add (s.x a) (s.x b)) s
def execFsub (t : Bool) (d b a : XReg) (c : Ctl) (s : State) : Host.Outcome State Fault Refusal :=
  writeX c d (fun s => fbin t FVal.sub (s.x a) (s.x b)) s
def execFmul (t : Bool) (d b a : XReg) (c : Ctl) (s : State) : Host.Outcome State Fault Refusal :=
  writeX c d (fun s => fbin t FVal.mul (s.x a) (s.x b)) s
def execFdiv (t : Bool) (d b a : XReg) (c : Ctl) (s : State) : Host.Outcome State Fault Refusal :=
  writeX c d (fun s => fbin t FVal.div (s.x a) (s.x b)) s
def execFsqrt (t : Bool) (d a : XReg) (c : Ctl) (s : State) : Host.Outcome State Fault Refusal :=
  writeX c d (fun s => fun1 t FVal.sqrt (s.x a)) s
def execFmin (t : Bool) (d b a : XReg) (c : Ctl) (s : State) : Host.Outcome State Fault Refusal :=
  writeX c d (fun s => fbin t FVal.fmin (s.x a) (s.x b)) s
def execFmax (t : Bool) (d b a : XReg) (c : Ctl) (s : State) : Host.Outcome State Fault Refusal :=
  writeX c d (fun s => fbin t FVal.fmax (s.x a) (s.x b)) s
def execFabs (t : Bool) (d a : XReg) (c : Ctl) (s : State) : Host.Outcome State Fault Refusal :=
  writeX c d (fun s => fun1 t FVal.abs (s.x a)) s
def execFneg (t : Bool) (d a : XReg) (c : Ctl) (s : State) : Host.Outcome State Fault Refusal :=
  writeX c d (fun s => fun1 t FVal.neg (s.x a)) s
def execFclass (t : Bool) (d a : XReg) (c : Ctl) (s : State) : Host.Outcome State Fault Refusal :=
  writeX c d (fun s => w64 (2 ^ fclassBit (sfmt t) ((s.x a).toNat % 2 ^ (sfmt t).width))) s

/-- ±(a · b) ± e, exact until one rounding (R108). -/
def fmaOf (t np na : Bool) (a b e : W64) : W64 :=
  let p := (fval t a).mul (fval t b)
  let q := fval t e
  fres t ((if np then p.neg else p).add (if na then q.neg else q))

def execFma (t : Bool) (d e b a : XReg) (c : Ctl) (s : State) : Host.Outcome State Fault Refusal :=
  writeX c d (fun s => fmaOf t false false (s.x a) (s.x b) (s.x e)) s
def execFms (t : Bool) (d e b a : XReg) (c : Ctl) (s : State) : Host.Outcome State Fault Refusal :=
  writeX c d (fun s => fmaOf t false true (s.x a) (s.x b) (s.x e)) s
def execFnma (t : Bool) (d e b a : XReg) (c : Ctl) (s : State) : Host.Outcome State Fault Refusal :=
  writeX c d (fun s => fmaOf t true false (s.x a) (s.x b) (s.x e)) s
def execFnms (t : Bool) (d e b a : XReg) (c : Ctl) (s : State) : Host.Outcome State Fault Refusal :=
  writeX c d (fun s => fmaOf t true true (s.x a) (s.x b) (s.x e)) s

/-- FCMP (R109). -/
def execFcmp (d : GReg) (t : Bool) (cc : FCond) (b a : XReg) (c : Ctl) (s : State) : Host.Outcome State Fault Refusal :=
  writeG c d (fun s => fcondHolds cc (fval t (s.x a)) (fval t (s.x b))) s

/-! ## Stochastic rounding and FCVT -/

/-- Draw's next state (R79). -/
def xorshift (st : W32) : W32 :=
  let a := st ^^^ (st <<< 13)
  let b := a ^^^ (a >>> 17)
  b ^^^ (b <<< 5)

/-- SEED after `n` draws, and the numbers drawn in order. -/
def draws : Nat → W32 → List Nat × W32
  | 0, st => ([], st)
  | n + 1, st =>
    let st' := xorshift st
    let r := draws n st'
    (st'.toNat :: r.1, r.2)

/-- The thread's draws: `n` of them under RS, none under another mode. -/
def State.draw (s : State) (rm : RM) (n : Nat) : List Nat × State :=
  match rm with
  | .rs =>
    let r := draws n (s.core.sys.seed.setWidth 32)
    (r.1, s.onCore fun c => { c with sys := { c.sys with seed := r.2.setWidth 64 } })
  | _ => ([], s)

/-- A scalar result of a conversion: sign- or zero-extended for an integer type, zero above for a float one (R80). -/
def extendAs (t : NType) (bits : Nat) : W64 :=
  match t with
  | .flt _ => w64 bits
  | .int w true => sextTo64 w (w64 bits)
  | .int w false => zextTo64 w (w64 bits)

/-- FCVT (R110). -/
def execFcvt (d a : XReg) (src dst : SType) (rm : RM) (sat : Bool) (c : Ctl) (s : State) : Host.Outcome State Fault Refusal :=
  run c s fun s =>
    let r := s.draw rm 1
    let v := convert (SType.ntype dst) rm sat (r.1.headD 0) ((SType.ntype src).dec (s.x a).toNat)
    .ok (r.2.setX d (extendAs (SType.ntype dst) v))

end Sys2Proof.Machine
end

