-- ==== Sys2Proof/Machine/Operands.lean ====
section
/-! DEFINITION. Sys2Proof/Machine/Operands.lean: vector operands: lanes (R167), registers, link ports, stream ports and null (R169,
R199), and the destination under a mask (R168). -/

namespace Sys2Proof.Machine

/-! ## Lanes -/

/-- Lane `i` of width `w` bits. -/
def laneOf (w : Nat) (v : V512) (i : Nat) : Nat := v.toNat / 2 ^ (w * i) % 2 ^ w

/-- The lanes of width `w` bits. -/
def lanesOf (w : Nat) (v : V512) : List Nat := (List.range (512 / w)).map (laneOf w v)

/-- A number made of lanes of `w` bits, the first the least significant. -/
def packLanes (w : Nat) : List Nat → Nat
  | [] => 0
  | a :: r => a % 2 ^ w + 2 ^ w * packLanes w r

def ofLanes (w : Nat) (ls : List Nat) : V512 := BitVec.ofNat 512 (packLanes w ls)

def VType.bits (t : VType) : Nat := (VType.ntype t).width
def VType.lanes (t : VType) : Nat := 512 / VType.bits t

/-- Apply a function to every lane of two, or three, operands. -/
def zipLanes (w : Nat) (f : Nat → Nat → Nat) (a b : V512) : V512 := ofLanes w (List.zipWith f (lanesOf w a) (lanesOf w b))
def mapLanes (w : Nat) (f : Nat → Nat) (a : V512) : V512 := ofLanes w ((lanesOf w a).map f)

/-- A lane's result computed on floats, rounded once to nearest even, or on integers, its low bits kept (R170). -/
def lane2 (t : NType) (ff : FVal → FVal → FVal) (fi : Int → Int → Int) (a b : Nat) : Nat :=
  match t with
  | .flt f => fround f (ff (fdec f a) (fdec f b))
  | .int w s => intBits w (fi (intDec w s a) (intDec w s b))

def lane1 (t : NType) (ff : FVal → FVal) (fi : Int → Int) (a : Nat) : Nat :=
  match t with
  | .flt f => fround f (ff (fdec f a))
  | .int w s => intBits w (fi (intDec w s a))

/-! ## The destination under a mask (R168) -/

/-- Lane by lane: the result where active, else zero or what was there. -/
def maskLanes (w : Nat) (mask : W64) (zero : Bool) (old res : V512) : V512 :=
  ofLanes w ((List.range (512 / w)).map fun i =>
    if mask.getLsbD i then laneOf w res i else if zero then 0 else laneOf w old i)

/-! ## Ports (R169, R199) -/

/-- What every named link port of a list of operands meets first, in the order of the list. DEDUCED (log 40). -/
def namePorts (s : State) : List VOp → Res → Res
  | [], k => k
  | .link d :: r, k => namePort s d (namePorts s r k)
  | _ :: r, k => namePorts s r k

/-- The address of a stream's next element, with the checks of R199. A push beyond element C − 1 is a usage fault as the pop is. DESIGN CHOICE
(log 127). -/
def streamElem (s : State) (q : BitVec 2) (mode : StreamMode) : Except Res Nat :=
  let p := s.core.streams[q.toNat]
  if p.mode ≠ mode || p.desc.total ≤ p.n then .error (usage s)
  else
    let a := p.desc.addr p.n
    if elemOk s.core a then .ok a.toNat
    else .error (.trap { code := 0x09, i0 := w64 (36 + q.toNat), i1 := 0, i2 := w64i a, i3 := 0 })

/-- A stream that has moved one element more. -/
def Core.bump (c : Core) (q : BitVec 2) : Core :=
  let p := c.streams[q.toNat]
  { c with streams := c.streams.set q.toNat { p with n := p.n + 1 } }

/-- Read a vector source: a register, a popped word, or zero for null (R60); none where the pop must stall. -/
def readV (s : State) (o : VOp) : Except Res (Option (V512 × State)) :=
  match o with
  | .reg r => .ok (some (s.core.getV r, s))
  | .null => .ok (some (0, s))
  | .link d => popLink s d
  | .stream q => match streamElem s q .load with
    | .error r => .error r
    | .ok a => .ok (some (toV512 (s.core.readLmem a 64), (s.onCore fun c => c.bump q).noteBad a 64))

/-- Write a vector destination: a register, a pushed word, or nothing for null. -/
def writeV (s : State) (o : VOp) (w : V512) : Except Res (Option State) :=
  match o with
  | .reg r => .ok (some (s.setV r w))
  | .null => .ok (some s)
  | .link d => pushLink s d w
  | .stream q => match streamElem s q .store with
    | .error r => .error r
    | .ok a => .ok (some (s.onCore fun c => { c.bump q with lmem := c.lmem.writeN a (natBytes 64 w.toNat) }))

/-- Read the sources in field order. -/
def readAll (s : State) : List VOp → Except Res (Option (List V512 × State))
  | [] => .ok (some ([], s))
  | o :: r => match readV s o with
    | .error e => .error e
    | .ok none => .ok none
    | .ok (some (v, s1)) => match readAll s1 r with
      | .error e => .error e
      | .ok none => .ok none
      | .ok (some (vs, s2)) => .ok (some (v :: vs, s2))

/-- Go on with what a pop or a push answered; a stall leaves everything undone. -/
def bindPort (s : State) (r : Except Res (Option α)) (k : α → Res) : Res :=
  match r with
  | .error e => e
  | .ok none => .hold s
  | .ok (some a) => k a

/-- What a destination held, for merging: zero for a port or null. -/
def oldV (s : State) (d : VOp) : V512 :=
  match d with
  | .reg r => s.core.getV r
  | _ => 0

/-- A vector instruction: its ports are named, those of the sources first and the destination's last, its sources read, its destination
written with a function of the sources and the old destination; then what else it does. DEDUCED (log 40). -/
def vectorOp (s : State) (srcs : List VOp) (d : VOp) (f : List V512 → V512 → V512) (after : List V512 → State → State) : Res :=
  namePorts s (srcs ++ [d])
    (bindPort s (readAll s srcs) fun r =>
      bindPort s (writeV r.2 d (f r.1 (oldV s d))) fun s2 => .ok (after r.1 s2))

/-- A vector instruction that writes no vector. -/
def vectorTo (s : State) (srcs : List VOp) (after : List V512 → State → State) : Res :=
  namePorts s srcs (bindPort s (readAll s srcs) fun r => .ok (after r.1 r.2))

/-- The first, second and third source. -/
def src0 (vs : List V512) : V512 := vs.headD 0
def src1 (vs : List V512) : V512 := (vs.drop 1).headD 0
def src2 (vs : List V512) : V512 := (vs.drop 2).headD 0

/-- A masked lane-by-lane instruction. -/
def maskedOp (c : Ctl) (srcs : List VOp) (d : VOp) (t : VType) (m : MaskOp) (f : List V512 → V512) (s : State) :
    Host.Outcome State Fault Refusal :=
  run c s fun s =>
    vectorOp s srcs d (fun vs old => maskLanes (VType.bits t) (s.core.getM m.m) m.z old (f vs)) fun _ s => s

end Sys2Proof.Machine
end

