-- ==== Sys2Proof/Machine/Vector.lean ====
section
/-! DEFINITION. Sys2Proof/Machine/Vector.lean: vector arithmetic, logic, conversion, reductions, moves, streams and the repetition
buffer (R166 to R183, R190 to R203). -/

namespace Sys2Proof.Machine

/-! ## R172 to R174 -/

/-- A two-operand lane function on whole registers. -/
def vec2 (t : VType) (ff : FVal → FVal → FVal) (fi : Int → Int → Int) (vs : List V512) : V512 :=
  zipLanes (VType.bits t) (lane2 (VType.ntype t) ff fi) (src0 vs) (src1 vs)

def vec1 (t : VType) (ff : FVal → FVal) (fi : Int → Int) (vs : List V512) : V512 :=
  mapLanes (VType.bits t) (lane1 (VType.ntype t) ff fi) (src0 vs)

/-- A result clamped to the type's range (VADDS, VSUBS). -/
def vecSat (t : VType) (fi : Int → Int → Int) (vs : List V512) : V512 :=
  match VType.ntype t with
  | .int w s => zipLanes w (fun a b => intBits w (clampInt (intLo w s) (intHi w s) (fi (intDec w s a) (intDec w s b)))) (src0 vs) (src1 vs)
  | .flt _ => src0 vs

/-- VADD (R172). -/
def execVadd (d b a : VOp) (t : VType) (m : MaskOp) (c : Ctl) (s : State) : Host.Outcome State Fault Refusal :=
  maskedOp c [a, b] d t m (vec2 t FVal.add (fun x y => x + y)) s
/-- VSUB (R172). -/
def execVsub (d b a : VOp) (t : VType) (m : MaskOp) (c : Ctl) (s : State) : Host.Outcome State Fault Refusal :=
  maskedOp c [a, b] d t m (vec2 t FVal.sub (fun x y => x - y)) s
/-- VMUL (R172). -/
def execVmul (d b a : VOp) (t : VType) (m : MaskOp) (c : Ctl) (s : State) : Host.Outcome State Fault Refusal :=
  maskedOp c [a, b] d t m (vec2 t FVal.mul (fun x y => x * y)) s
/-- VMIN (R172). -/
def execVmin (d b a : VOp) (t : VType) (m : MaskOp) (c : Ctl) (s : State) : Host.Outcome State Fault Refusal :=
  maskedOp c [a, b] d t m (vec2 t FVal.fmin (fun x y => if x < y then x else y)) s
/-- VMAX (R172). -/
def execVmax (d b a : VOp) (t : VType) (m : MaskOp) (c : Ctl) (s : State) : Host.Outcome State Fault Refusal :=
  maskedOp c [a, b] d t m (vec2 t FVal.fmax (fun x y => if x < y then y else x)) s
/-- VABS (R172). -/
def execVabs (d a : VOp) (t : VType) (m : MaskOp) (c : Ctl) (s : State) : Host.Outcome State Fault Refusal :=
  maskedOp c [a] d t m (vec1 t FVal.abs fun x => if x < 0 then -x else x) s
/-- VNEG (R172). -/
def execVneg (d a : VOp) (t : VType) (m : MaskOp) (c : Ctl) (s : State) : Host.Outcome State Fault Refusal :=
  maskedOp c [a] d t m (vec1 t FVal.neg fun x => -x) s
/-- VADDS (R172). -/
def execVadds (d b a : VOp) (t : VType) (m : MaskOp) (c : Ctl) (s : State) : Host.Outcome State Fault Refusal :=
  maskedOp c [a, b] d t m (vecSat t fun x y => x + y) s
/-- VSUBS (R172). -/
def execVsubs (d b a : VOp) (t : VType) (m : MaskOp) (c : Ctl) (s : State) : Host.Outcome State Fault Refusal :=
  maskedOp c [a, b] d t m (vecSat t fun x y => x - y) s

/-- ±(a · b) ± c on lanes, exact until one rounding; integers keep the low bits (R173). -/
def fmaLane (t : NType) (np na : Bool) (a b e : Nat) : Nat :=
  match t with
  | .flt f =>
    let p := (fdec f a).mul (fdec f b)
    let q := fdec f e
    fround f ((if np then p.neg else p).add (if na then q.neg else q))
  | .int w s =>
    let p := intDec w s a * intDec w s b
    let q := intDec w s e
    intBits w ((if np then -p else p) + (if na then -q else q))

def vec3 (w : Nat) (f : Nat → Nat → Nat → Nat) (vs : List V512) : V512 :=
  ofLanes w ((List.range (512 / w)).map fun i => f (laneOf w (src0 vs) i) (laneOf w (src1 vs) i) (laneOf w (src2 vs) i))

/-- VFMA (R173). -/
def execVfma (d e b a : VOp) (t : VType) (m : MaskOp) (c : Ctl) (s : State) : Host.Outcome State Fault Refusal :=
  maskedOp c [a, b, e] d t m (vec3 (VType.bits t) (fmaLane (VType.ntype t) false false)) s
/-- VFMS (R173). -/
def execVfms (d e b a : VOp) (t : VType) (m : MaskOp) (c : Ctl) (s : State) : Host.Outcome State Fault Refusal :=
  maskedOp c [a, b, e] d t m (vec3 (VType.bits t) (fmaLane (VType.ntype t) false true)) s
/-- VFNMA (R173). -/
def execVfnma (d e b a : VOp) (t : VType) (m : MaskOp) (c : Ctl) (s : State) : Host.Outcome State Fault Refusal :=
  maskedOp c [a, b, e] d t m (vec3 (VType.bits t) (fmaLane (VType.ntype t) true false)) s
/-- VAND (R174). -/
def execVand (d b a : VOp) (t : VType) (m : MaskOp) (c : Ctl) (s : State) : Host.Outcome State Fault Refusal :=
  maskedOp c [a, b] d t m (fun vs => src0 vs &&& src1 vs) s
/-- VOR (R174). -/
def execVor (d b a : VOp) (t : VType) (m : MaskOp) (c : Ctl) (s : State) : Host.Outcome State Fault Refusal :=
  maskedOp c [a, b] d t m (fun vs => src0 vs ||| src1 vs) s
/-- VXOR (R174). -/
def execVxor (d b a : VOp) (t : VType) (m : MaskOp) (c : Ctl) (s : State) : Host.Outcome State Fault Refusal :=
  maskedOp c [a, b] d t m (fun vs => src0 vs ^^^ src1 vs) s
/-- VANDN (R174). -/
def execVandn (d b a : VOp) (t : VType) (m : MaskOp) (c : Ctl) (s : State) : Host.Outcome State Fault Refusal :=
  maskedOp c [a, b] d t m (fun vs => src0 vs &&& ~~~(src1 vs)) s

/-- Each lane shifts by the low log2(8w) bits of its b lane (R174). -/
def vecShift (t : VType) (f : Nat → Nat → Nat → Nat) (vs : List V512) : V512 :=
  let w := VType.bits t
  zipLanes w (fun a b => f w a (b % w)) (src0 vs) (src1 vs)

/-- VSHL (R174). -/
def execVshl (d b a : VOp) (t : VType) (m : MaskOp) (c : Ctl) (s : State) : Host.Outcome State Fault Refusal :=
  maskedOp c [a, b] d t m (vecShift t fun w a n => a * 2 ^ n % 2 ^ w) s
/-- VSHR (R174). -/
def execVshr (d b a : VOp) (t : VType) (m : MaskOp) (c : Ctl) (s : State) : Host.Outcome State Fault Refusal :=
  maskedOp c [a, b] d t m (vecShift t fun _ a n => a / 2 ^ n) s
/-- VSAR (R174). -/
def execVsar (d b a : VOp) (t : VType) (m : MaskOp) (c : Ctl) (s : State) : Host.Outcome State Fault Refusal :=
  maskedOp c [a, b] d t m (vecShift t fun w a n => intBits w (intDec w true a / (2 ^ n : Int))) s

/-! ## R175 to R177 -/

/-- A mask register's new value: a condition bit per active lane, inactive lanes merged or zeroed, no bit above the lanes (R175). -/
def maskBits (lanes : Nat) (act : W64) (zero : Bool) (old : W64) (f : Nat → Bool) : W64 :=
  w64 ((List.range lanes).foldl (fun acc i =>
    acc + (if (if act.getLsbD i then f i else !zero && old.getLsbD i) then 2 ^ i else 0)) 0)

/-- VCMP (R175). -/
def execVcmp (d : BitVec 3) (cc : VCond) (b a : VOp) (t : VType) (m : MaskOp) (c : Ctl) (s : State) :
    Host.Outcome State Fault Refusal :=
  run c s fun s => vectorTo s [a, b] fun vs s1 =>
    let w := VType.bits t
    let n := VType.ntype t
    s1.setM d (maskBits (512 / w) (s.core.getM m.m) m.z (s.core.getM d) fun i =>
      vcondHolds cc (n.dec (laneOf w (src0 vs) i)) (n.dec (laneOf w (src1 vs) i)))

/-- VSEL (R176). -/
def execVsel (d b a : VOp) (k : BitVec 3) (t : VType) (m : MaskOp) (c : Ctl) (s : State) : Host.Outcome State Fault Refusal :=
  maskedOp c [a, b] d t m (fun vs => maskLanes (VType.bits t) (s.core.getM k) false (src1 vs) (src0 vs)) s

/-- A function of f32 lanes, correctly rounded (R177). -/
def vecFun (c : Ctl) (d a : VOp) (m : MaskOp) (f : FVal → FVal) (s : State) : Host.Outcome State Fault Refusal :=
  maskedOp c [a] d .f32 m (fun vs => mapLanes 32 (fun x => fround fF32 (f (fdec fF32 x))) (src0 vs)) s

/-- VEXP2 (R177). -/
def execVexp2 (d a : VOp) (m : MaskOp) (c : Ctl) (s : State) : Host.Outcome State Fault Refusal := vecFun c d a m FVal.exp2 s
/-- VLOG2 (R177). -/
def execVlog2 (d a : VOp) (m : MaskOp) (c : Ctl) (s : State) : Host.Outcome State Fault Refusal := vecFun c d a m FVal.log2 s
/-- VRCP (R177). -/
def execVrcp (d a : VOp) (m : MaskOp) (c : Ctl) (s : State) : Host.Outcome State Fault Refusal := vecFun c d a m FVal.rcp s
/-- VRSQ (R177). -/
def execVrsq (d a : VOp) (m : MaskOp) (c : Ctl) (s : State) : Host.Outcome State Fault Refusal := vecFun c d a m FVal.rsq s
/-- VSQRT (R177). -/
def execVsqrt (d a : VOp) (m : MaskOp) (c : Ctl) (s : State) : Host.Outcome State Fault Refusal := vecFun c d a m FVal.sqrt s

/-! ## VCVT (R178, R179) -/

/-- Sixteen elements from position 16·part on, of `w` bits. -/
def partOf (w : Nat) (v : V512) (part : BitVec 2) : List Nat := (List.range 16).map fun i => laneOf w v (16 * part.toNat + i)

/-- A register with sixteen elements of `w` bits from position 16·part on replaced. -/
def putPart (w : Nat) (v : V512) (part : BitVec 2) (es : List Nat) : V512 :=
  let lo := 16 * part.toNat * w
  let field := (2 ^ (16 * w) - 1) * 2 ^ lo
  BitVec.ofNat 512 (v.toNat - (v.toNat &&& field) + packLanes w es * 2 ^ lo)

def execVcvt (d a : VOp) (sp dp : BitVec 2) (src dst : CType) (rm : RM) (sat : Bool) (c : Ctl) (s : State) :
    Host.Outcome State Fault Refusal :=
  run c s fun s => withAssist s (CType.isFp6 src || CType.isFp6 dst) fun s =>
    let st := CType.ntype src
    let dt := CType.ntype dst
    let seeds := s.draw rm 16
    vectorOp s [a] d
      (fun vs old => putPart dt.width old dp ((List.range 16).map fun i =>
        convert dt rm sat (seeds.1.getD i 0) (st.dec (laneOf st.width (src0 vs) (16 * sp.toNat + i)))))
      fun _ s1 => s1.onCore fun k => { k with sys := { k.sys with seed := seeds.2.core.sys.seed } }

/-! ## Reductions and scans (R87, R180, R181) -/

/-- One level of the tree of R87: adjacent values, the lower lane on the left. -/
def pairUp (f : Nat → Nat → Nat) : List Nat → List Nat
  | a :: b :: r => f a b :: pairUp f r
  | r => r

/-- The tree of R87 over `2^levels` lanes. -/
def treeFold (f : Nat → Nat → Nat) : Nat → List Nat → Nat
  | 0, ls => ls.headD 0
  | n + 1, ls => treeFold f n (pairUp f ls)

/-- The lanes with the value an inactive lane contributes in place. -/
def activeLanes (w : Nat) (v : V512) (mask : W64) (fill : Nat) : List Nat :=
  (List.range (512 / w)).map fun i => if mask.getLsbD i then laneOf w v i else fill

/-- A sum of two lanes, rounded in a mode; integers wrap. -/
def addLane (t : NType) (rm : RM) (a b : Nat) : Nat :=
  match t with
  | .flt f => fenc f rm false 0 ((fdec f a).add (fdec f b))
  | .int w s => intBits w (intDec w s a + intDec w s b)

/-- A reduction into an x register. -/
def reduce (c : Ctl) (d : XReg) (a : VOp) (t : VType) (m : BitVec 3) (f : Nat → Nat → Nat) (fill : Nat) (s : State) :
    Host.Outcome State Fault Refusal :=
  run c s fun s => vectorTo s [a] fun vs s1 =>
    let w := VType.bits t
    s1.setX d (extendAs (VType.ntype t) (treeFold f (Nat.log2 (512 / w)) (activeLanes w (src0 vs) (s.core.getM m) fill)))

/-- What an inactive lane contributes to VREDMIN and VREDMAX (R180). -/
def fillMin (t : NType) : Nat :=
  match t with
  | .flt f => fround f (.inf false)
  | .int w s => intBits w (intHi w s)
def fillMax (t : NType) : Nat :=
  match t with
  | .flt f => fround f (.inf true)
  | .int w s => intBits w (intLo w s)

/-- VREDADD. -/
def execVredadd (d : XReg) (a : VOp) (rm : RM) (t : VType) (m : BitVec 3) (c : Ctl) (s : State) : Host.Outcome State Fault Refusal :=
  reduce c d a t m (addLane (VType.ntype t) rm) 0 s
/-- VREDMIN. -/
def execVredmin (d : XReg) (a : VOp) (t : VType) (m : BitVec 3) (c : Ctl) (s : State) : Host.Outcome State Fault Refusal :=
  reduce c d a t m (lane2 (VType.ntype t) FVal.fmin fun x y => if x < y then x else y) (fillMin (VType.ntype t)) s
/-- VREDMAX. -/
def execVredmax (d : XReg) (a : VOp) (t : VType) (m : BitVec 3) (c : Ctl) (s : State) : Host.Outcome State Fault Refusal :=
  reduce c d a t m (lane2 (VType.ntype t) FVal.fmax fun x y => if x < y then y else x) (fillMax (VType.ntype t)) s

/-- The running sums of a list (R181). -/
def scanFrom (f : Nat → Nat → Nat) : Nat → List Nat → List Nat
  | _, [] => []
  | acc, a :: r => let v := f acc a; v :: scanFrom f v r

/-- VSCANADD (R181). -/
def execVscanadd (d a : VOp) (b : XReg) (rm : RM) (t : VType) (m : MaskOp) (c : Ctl) (s : State) : Host.Outcome State Fault Refusal :=
  maskedOp c [a] d t m (fun vs =>
    let w := VType.bits t
    ofLanes w (scanFrom (addLane (VType.ntype t) rm) ((s.x b).toNat % 2 ^ w) (activeLanes w (src0 vs) (s.core.getM m.m) 0))) s

/-! ## R182, R183 -/

/-- VBCAST. -/
def execVbcast (d : VOp) (t : VType) (a : XReg) (c : Ctl) (s : State) : Host.Outcome State Fault Refusal :=
  run c s fun s => vectorOp s [] d (fun _ _ =>
    let w := VType.bits t
    ofLanes w (List.replicate (512 / w) (s.x a).toNat)) fun _ s => s

/-- The types by their codes (R167). -/
def typeOfCode (n : Nat) : Option VType :=
  [VType.f32, .f16, .bf16, .i32, .i16, .i8, .n32, .n16, .n8][n]?

/-- A lane descriptor's type and lane (R183). -/
def laneDesc (v : W64) : Option (VType × Nat) :=
  match typeOfCode (bitsOf v 11 8) with
  | some t => if bitsOf v 6 0 < VType.lanes t then some (t, bitsOf v 6 0) else none
  | none => none

/-- VEXTR. -/
def execVextr (d : XReg) (b : XReg) (a : VOp) (c : Ctl) (s : State) : Host.Outcome State Fault Refusal :=
  run c s fun s => namePorts s [a] (match laneDesc (s.x b) with
    | none => usage s
    | some (t, i) => vectorTo s [a] fun vs s1 =>
        s1.setX d (extendAs (VType.ntype t) (laneOf (VType.bits t) (src0 vs) i)))

/-- One lane replaced. -/
def setLane (w : Nat) (v : V512) (i x : Nat) : V512 := ofLanes w ((lanesOf w v).set i x)

/-- VINS. -/
def execVins (d : BitVec 5) (b a : XReg) (c : Ctl) (s : State) : Host.Outcome State Fault Refusal :=
  run c s fun s => match laneDesc (s.x b) with
    | none => usage s
    | some (t, i) => .ok (s.setV d (setLane (VType.bits t) (s.core.getV d) i (s.x a).toNat))

/-! ## R190 to R193 -/

/-- VPERM (R190). -/
def execVperm (d e b a : VOp) (t : VType) (m : MaskOp) (c : Ctl) (s : State) : Host.Outcome State Fault Refusal :=
  maskedOp c [a, b, e] d t m (fun vs =>
    let w := VType.bits t
    let n := 512 / w
    mapLanes w (fun i => let k := i % (2 * n); if k < n then laneOf w (src0 vs) k else laneOf w (src1 vs) (k - n)) (src2 vs)) s

/-- The four byte products of a 32-bit lane added to it (R191). -/
def dot4 (signed : Bool) (a b e : Nat) : Nat :=
  intBits 32 ((List.range 4).foldl (fun acc j =>
    acc + intDec 8 signed (a / 2 ^ (8 * j)) * intDec 8 signed (b / 2 ^ (8 * j))) (e : Int))

/-- VDOT4. -/
def execVdot4 (d e b a : VOp) (m : MaskOp) (c : Ctl) (s : State) : Host.Outcome State Fault Refusal :=
  maskedOp c [a, b, e] d .i32 m (vec3 32 (dot4 true)) s
/-- VDOT4N. -/
def execVdot4n (d e b a : VOp) (m : MaskOp) (c : Ctl) (s : State) : Host.Outcome State Fault Refusal :=
  maskedOp c [a, b, e] d .n32 m (vec3 32 (dot4 false)) s

/-- The number of one bits of a bitmap below bit `b`. -/
def popBelow (v : W64) (b : Nat) : Nat := ((List.range b).filter fun i => v.getLsbD i).length

/-- The packed offset pairs of VISECT (R192), in ascending order. -/
def isectLanes (x y : W64) (offA offB : Nat) : List Nat :=
  (List.range 16).filterMap fun b =>
    if x.getLsbD b && y.getLsbD b then
      some ((offB + popBelow y b) % 2 ^ 16 * 2 ^ 16 + (offA + popBelow x b) % 2 ^ 16)
    else none

/-- VISECT (R192). -/
def execVisect (d : VOp) (e b a : XReg) (k : BitVec 3) (c : Ctl) (s : State) : Host.Outcome State Fault Refusal :=
  run c s fun s =>
    let offA := bitsOf (s.x e) 31 0
    let offB := bitsOf (s.x e) 63 32
    let ls := isectLanes (s.x a) (s.x b) offA offB
    vectorOp s [] d (fun _ _ => ofLanes 32 ls) fun _ s1 =>
      (s1.setM k (w64 (2 ^ ls.length - 1))).setX e
        (w64 ((offB + popBelow (s.x b) 16) % 2 ^ 32 * 2 ^ 32 + (offA + popBelow (s.x a) 16) % 2 ^ 32))

/-- VCPRS (R193). -/
def execVcprs (d a : VOp) (b : XReg) (t : VType) (k : BitVec 3) (c : Ctl) (s : State) : Host.Outcome State Fault Refusal :=
  run c s fun s =>
    let w := VType.bits t
    let act := (List.range (512 / w)).filter fun i => (s.core.getM k).getLsbD i
    vectorOp s [a] d (fun vs _ => ofLanes w (act.map fun i => laneOf w (src0 vs) i)) fun _ s1 => s1.setX b (w64 act.length)

/-! ## Header fields (R194, R195) -/

/-- The register bit of a field's bit `j`, bit 0 the least significant. -/
def hdrBit (f : W32) (j : Nat) : Nat :=
  let off := (f.extractLsb' 16 9).toNat
  let width := (f.extractLsb' 8 5).toNat + 1
  if f.getLsbD 30 then
    let p := off + width - 1 - j
    8 * (p / 8) + 7 - p % 8
  else off + j

def hdrWidth (f : W32) : Nat := (f.extractLsb' 8 5).toNat + 1
def hdrLane (f : W32) : Nat := (f.extractLsb' 0 4).toNat

/-- The value of a header field. -/
def hdrGet (v : V512) (f : W32) : Nat :=
  (List.range (hdrWidth f)).foldl (fun acc j => acc + (if v.getLsbD (hdrBit f j) then 2 ^ j else 0)) 0

/-- A register with a header field replaced by the low bits of a number. -/
def hdrPut (v : V512) (f : W32) (x : Nat) : V512 :=
  (List.range (hdrWidth f)).foldl (fun v j =>
    let bit : V512 := 1#512 <<< (hdrBit f j)
    if bitOf x j then v ||| bit else v &&& ~~~bit) v

/-- The valid fields of a layout, in ascending order. -/
def Core.hdrFields (c : Core) (layout : Nat) : List W32 :=
  ((List.range 8).map fun i => c.sys.hdrfld[8 * layout + i]?.getD 0).filter fun f => f.getLsbD 31

/-- VHDR.P (R195). -/
def execVhdrP (d a : VOp) (b : XReg) (c : Ctl) (s : State) : Host.Outcome State Fault Refusal :=
  run c s fun s => vectorOp s [a] d (fun vs _ =>
    (s.core.hdrFields (bitsOf (s.x b) 3 0)).foldl (fun v f => setLane 32 v (hdrLane f) (hdrGet (src0 vs) f)) 0) fun _ s => s

/-- VHDR.A (R195). -/
def execVhdrA (d e a : VOp) (b : XReg) (c : Ctl) (s : State) : Host.Outcome State Fault Refusal :=
  run c s fun s => vectorOp s [a, e] d (fun vs _ =>
    (s.core.hdrFields (bitsOf (s.x b) 3 0)).foldl (fun v f => hdrPut v f (laneOf 32 (src0 vs) (hdrLane f))) (src1 vs)) fun _ s => s

/-! ## Moves (R196) -/

/-- VMOV. -/
def execVmov (d a : VOp) (c : Ctl) (s : State) : Host.Outcome State Fault Refusal :=
  run c s fun s => vectorOp s [a] d (fun vs _ => src0 vs) fun _ s => s

/-- VFWD. -/
def execVfwd (d a : Dir) (b : Option (BitVec 5)) (c : Ctl) (s : State) : Host.Outcome State Fault Refusal :=
  run c s fun s => vectorOp s [.link a] (.link d) (fun vs _ => src0 vs) fun vs s1 =>
    match b with
    | some r => s1.setV r (src0 vs)
    | none => s1

/-! ## Streams (R197, R198) -/

/-- Configure a stream port. -/
def configure (c : Ctl) (q : BitVec 2) (a : XReg) (mode : StreamMode) (s : State) : Host.Outcome State Fault Refusal :=
  run c s fun s => withDesc s (s.x a) fun s d =>
    .ok (s.onCore fun k => { k with streams := k.streams.set q.toNat { mode := mode, desc := d, n := 0 } })

/-- SCFG.read. -/
def execScfgRead (q : BitVec 2) (a : XReg) (c : Ctl) (s : State) : Host.Outcome State Fault Refusal := configure c q a .load s
/-- SCFG.write. -/
def execScfgWrite (q : BitVec 2) (a : XReg) (c : Ctl) (s : State) : Host.Outcome State Fault Refusal := configure c q a .store s
/-- SCFG.stop. -/
def execScfgStop (q : BitVec 2) (b : XReg) (c : Ctl) (s : State) : Host.Outcome State Fault Refusal :=
  run c s fun s =>
    let p := s.core.streams[q.toNat]
    .ok ((s.onCore fun k => { k with streams := k.streams.set q.toNat Stream.start }).setX b
      (if p.mode = .idle then 0 else w64 p.n))

/-! ## The repetition buffer (R200 to R203, R354) -/

/-- The opcodes a repetition block may capture. -/
def captured (k : CoreKind) (op : Nat) : Bool :=
  if k = .slice then op == 0xB1 || (2 ≤ op && op ≤ 0xF) || (0x14 ≤ op && op ≤ 0x19) else 0x40 ≤ op && op ≤ 0x53

/-- The walk of a REP over the instructions that follow (R200): the instructions captured and the address after them, or what stops it. The
walk comes first: a fetch trap that it meets is taken before the usage fault of an earlier opcode. DESIGN CHOICE (log 105). A poisoned line
latches UNCORRECTED, which the thread takes at the REP (R362, R369). DEDUCED (log 36). -/
def captureWalk (s : State) : Nat → W64 → Except Res (List Capture × W64)
  | 0, pc => .ok ([], pc)
  | n + 1, pc =>
    let c := s.core
    let base := lineBase pc
    if !c.inCode base then .error (.trap (lineTrap 0x04 base))
    else if s.codePoisoned c base then .error (.hold (s.onCore fun c => c.latchUncorrected 3 base 0))
    else match s.codeLine c base with
      | .refuse code level => .error (.stall code level Access.code base.toNat)
      | .miss => .error (.walk Access.code base.toNat)
      | .wait => .error (.hold s)
      | .halves hs => match headCheck pc hs base base with
        | some t => .error (.trap t)
        | none => match captureWalk s n (nextSeq hs pc) with
          | .error r => .error r
          | .ok (r, after) =>
            let k := headIdx pc
            let h := hs.getD k 0
            .ok ({ pc := pc, head := h, tail := (hs.drop (tailStart hs k)).take (headTL h), line := base, next := nextSeq hs pc } :: r, after)

/-- REP: the count, the walk, whose lines it reads (R368), the opcodes of the block; a count of zero goes past it, otherwise its first run begins. A count above 2^32 - 1
faults before the walk. DESIGN CHOICE (log 105). -/
def execRep (a : XReg) (n stag : BitVec 5) (c : Ctl) (s : State) : Host.Outcome State Fault Refusal :=
  run c s fun s =>
    let count := s.x a
    if 2 ^ 32 ≤ count.toNat then usage s
    else match captureWalk s n.toNat s.core.npc with
      | .error r => r
      | .ok (blk, after) => match blk.find? fun i => !captured s.core.loc.kind (headOP i.head).toNat with
        | some i => .trap { illegal s.core 9 with i2 := i.pc }
        | none =>
          let s := s.readLines s.core (blk.map Capture.line)
          if count = 0 then .goto s after
          else .goto (s.onCore fun k => { k with
            inRep := true
            captures := blk
            sys := { k.sys with repstate := mkRep true n.toNat stag.toNat 0 0 count.toNat, reppc := k.npc, repmpc := after } }) s.core.npc

end Sys2Proof.Machine
end

