-- ==== Sys2Proof/Machine/SliceCore.lean ====
section
/-! DEFINITION. Sys2Proof/Machine/SliceCore.lean: the slice cores: invocations (R346, R350, R351), SH and SFMA (R352 to R355). A trap
condition stops the slice core, and SLICE_BUDGET_OVERRUN then ends the invocation. -/

namespace Sys2Proof.Machine

/-- The slice a slice core stands at: 16 · die + index. -/
def sliceNo (l : Loc) : Nat := 16 * l.die + l.x

/-- A trap condition (R351): the code only stops the invocation. -/
def trapCondition : Res := trapAt 0x09 0

/-- What an instruction of a running invocation does with it. -/
def withInv (s : State) (f : Invocation → Res) : Res :=
  match (s.sliceAt (sliceNo s.core.loc)).inv with
  | some v => f v
  | none => trapCondition

def State.setInv (s : State) (sl : Nat) (v : Option Invocation) : State := s.modSlice sl fun q => { q with inv := v }

/-! ## Starting and ending an invocation -/

/-- A queued trigger takes its default action (R349): a message is answered with 0xFF bytes, over a path that no retraining link holds (R389);
any other lets go what it holds. -/
def State.byDefault (s : State) (sl : Nat) (g : Trig) (rest : List Trig) : State :=
  if s.replyHeld sl g.from_ then s else (s.modSlice sl fun q => { q with trigs := rest }).slReply g.from_ (List.replicate 64 0xFF)

/-- SLICE_INVOCATION_START (R350): not in a merge pass (R356), nor on a die that is drained, whose queued triggers take their default action
(R423). x6 names the die as its tenant numbers it (R406). SEED starts each invocation at 0x2545F491. DESIGN CHOICE (log 97). -/
def execSliceInvocationStart (sl : Nat) (s : State) : Host.Outcome State Fault Refusal :=
  let q := s.sliceAt sl
  match (if q.pass.isSome then none else some q.inv), q.trigs with
  | some none, g :: r =>
    match (if (s.dieAt (sl / 16)).drained then none else q.handler g.tenant g.kind) with
    | none => event (s.byDefault sl g r)
    | some h =>
      let msg := g.kind == .msg
      let v : Invocation := { trig := g, reg := h, start := none, replied := false, f0 := none, f1 := none, f2 := 0 }
      let old := s.coreAt (sliceLoc sl)
      let kind := match g.kind with | .miss => 0 | .fill => 1 | .evict => 2 | .msg => 3
      let xs : Vector W64 32 := Vector.replicate 32 0
      let xs := xs.set 1 (if msg then 0 else w64 g.off)
      let xs := xs.set 2 (w64 kind)
      let xs := xs.set 3 (match g.requester with | some i => w64 i | none => BitVec.allOnes 64)
      let xs := xs.set 4 (if msg then 0x7FC0 else 0)
      let xs := xs.set 5 (w64 h.dataAt)
      let xs := xs.set 6 (w64 (s.viewSlice g.tenant sl))
      let c : Core := { Core.start (sliceLoc sl) (BitVec.ofNat 6 g.tenant) with
        run := .running
        codeBase := w64 h.codeAt
        codeLimit := w64 (h.codeAt + h.code.length)
        pc := w64 (h.codeAt + 2)
        x := xs
        lmem := (if msg then old.lmem.writeN 0x7FC0 (sliceBytes g.msg 0 64) else old.lmem)
        badLocal := old.badLocal
        soft := old.soft }
      event ((State.setInv (s.modSlice sl fun q => { q with trigs := r }) sl (some v)).setCore c)
  | _, _ => event s

/-- An invocation ends: a message without a reply is answered with 0xFF bytes, the core is idle. -/
def State.endInv (s : State) (sl : Nat) (v : Invocation) : State :=
  let s1 := if v.trig.kind == .msg && !v.replied then s.slReply v.trig.from_ (List.replicate 64 0xFF) else s
  (s1.setInv sl none).modCore (sliceLoc sl) fun c => { c with run := .idle, held := false, prog := none }

/-- Cycles in 1 ms at 1.2 GHz (R2). -/
def cyclesPerMs : Nat := 1200000

/-- A registration with one overrun more within the last 1 ms (R351). -/
def SliceReg.overrun (r : SliceReg) (now : BitVec 64) : SliceReg :=
  { r with recent := now :: r.recent.filter fun c => (now - c).toNat < cyclesPerMs }

/-- Count an overrun of a registration; the sixteenth within 1 ms disables its trigger there for the tenant (R351), and the record names the
slice as the tenant numbers it (R364, R406). -/
def State.countOverrun (s : State) (sl : Nat) (v : Invocation) : State :=
  let t := v.trig.tenant
  let k := v.trig.kind
  let same := fun (r : SliceReg) => r.tenant == t && r.kind == k
  let s1 := s.modSlice sl fun q => { q with regs := q.regs.map fun (r : SliceReg) => if same r then r.overrun s.cycle else r }
  let was := (s.sliceAt sl).stat t k
  let many := (s1.sliceAt sl).regs.any fun r => same r && decide (16 ≤ r.recent.length)
  let s2 := s1.modSlice sl fun q =>
    q.setStat { was with overruns := Nat.min (was.overruns + 1) (2 ^ 24 - 1), disabled := was.disabled || many }
  if many && !was.disabled then
    let kind := match k with | .miss => 0 | .fill => 1 | .evict => 2 | .msg => 3
    s2.post t { kind := 5, code := 0, queue := 0, slot := 0,
                launch := (match s.launchAt v.reg.launch with | some l => l.number | none => 0),
                core := BitVec.ofNat 32 (s.viewSlice t sl + kind * 256), plot := 0, xpc := 0, xinfo := #v[0, 0, 0, 0] }
  else s2

/-- The cycles an invocation has used of its budget: from its first instruction, less those for which an SH.FWD has waited for a target
that is not resident (R351, R352). -/
def Invocation.used (v : Invocation) (c : Core) (now : BitVec 64) : Nat :=
  match v.start with
  | some t => ((match c.prog with
    | some (.shAway since) => since
    | _ => now) - t).toNat
  | none => 0

/-- The budget is spent. -/
def Invocation.spent (v : Invocation) (c : Core) (now : BitVec 64) : Bool := decide (v.reg.budget ≤ v.used c now)

/-- The end of an invocation would answer its message over a path that a retraining link holds (R389). -/
def State.endHeld (s : State) (sl : Nat) (v : Invocation) : Bool := v.trig.kind == .msg && !v.replied && s.replyHeld sl v.trig.from_

/-- SLICE_BUDGET_OVERRUN (R351): the budget is spent, or the invocation met a trap condition. -/
def execSliceBudgetOverrun (sl : Nat) (s : State) : Host.Outcome State Fault Refusal :=
  match (s.sliceAt sl).inv with
  | some v =>
    let c := s.coreAt (sliceLoc sl)
    event (if (v.spent c s.cycle || c.run == .stopped) && !s.endHeld sl v then (s.countOverrun sl v).endInv sl v else s)
  | none => event s

/-! ## SH (R352) -/

/-- The line an offset names, through the tenant's table (R348): a refused translation or an uncorrectable error is a trap condition. A
line that its home slice does not hold is fetched, as a read of the tenant would be, with the HINT of the control word (R58), and waited for;
one that it holds is touched (R234); in MISS, the triggering line's fetch is the fill. What another core owns is recalled (R224), and a
single-bit error corrected (R368). -/
def shLine (s : State) (v : Invocation) (off : W64) (hint : Nat) (k : State → Nat → W64 → Res) : Res :=
  let va := (v.reg.lo + off.toNat) / 128 * 128
  if v.reg.hi - v.reg.lo ≤ off.toNat then trapCondition
  else
    let s := s.agentWalk s.core.loc [] v.trig.tenant va 1
    match s.dieTr s.core.loc.die v.trig.tenant va Access.read with
    | .hit pa pte =>
      let got := (s.checkLine pa).shareLine (lineOf pa) (some s.core.loc)
      if s.isPoisoned pa then .trapIn (s.findBad (lineOf pa)) { code := 0x09, i0 := 0, i1 := 0, i2 := 0, i3 := 0 }
      else match s.core.prog with
        | some (.shFetch id) => if (s.reqAt id).any fun r => r.st != .answered then .hold s else k got pa pte
        | _ =>
          if isHost pa || (v.trig.kind == .miss && v.trig.line == pa) then k got pa pte
          else if s.inSlice pa then k (got.modSlice (homeSlice pte pa) fun q => q.touch pa hint) pa pte
          else
          let s1 := s.request .slice s.core.loc v.trig.tenant va pa pte .read hint true
          .hold (s1.onCore fun c => { c with prog := some (.shFetch s.reqNo) })
    | .wait | .miss => .hold s
    | .refuse _ _ => trapCondition

/-- SH.LINE into an x register. -/
def execShLineX (d b a : XReg) (c : Ctl) (s : State) : Host.Outcome State Fault Refusal :=
  run c s fun s => withInv s fun v => shLine s v (s.x a) (hintOf c) fun s pa pte =>
    .ok (s.setX d (w64 (leNat (s.dieN s.core.loc.die (pteKey pte) (pa + 8 * ((s.x b).toNat % 16)) 8))))

/-- SH.LINE into `f0` or `f1`. -/
def execShLineF (n : Bool) (a : XReg) (c : Ctl) (s : State) : Host.Outcome State Fault Refusal :=
  run c s fun s => withInv s fun v => shLine s v (s.x a) (hintOf c) fun s pa pte =>
    let bound := some (s.dieN s.core.loc.die (pteKey pte) pa 128, 0)
    .ok (s.setInv (sliceNo s.core.loc) (some (if n then { v with f1 := bound } else { v with f0 := bound })))

/-- SH.PREF: never faults; an unmapped line is dropped. An offset beyond the range is a trap condition. Its control word's HINT goes with the
request, or touches the line where its home slice holds it (R58, R234). -/
def execShPref (a : XReg) (c : Ctl) (s : State) : Host.Outcome State Fault Refusal :=
  run c s fun s => withInv s fun v =>
    if v.reg.hi - v.reg.lo ≤ (s.x a).toNat then trapCondition
    else
      let va := (v.reg.lo + (s.x a).toNat) / 128 * 128
      let s := s.agentWalk s.core.loc [] v.trig.tenant va 1
      match s.dieTr s.core.loc.die v.trig.tenant va Access.read with
      | .hit pa pte => .ok (if s.inSlice pa then s.modSlice (homeSlice pte pa) fun q => q.touch pa (hintOf c)
        else s.request .slice s.core.loc v.trig.tenant va pa pte .read (hintOf c) true)
      | .wait | .miss | .refuse _ _ => .ok s

/-- Handler memory as an instruction of the slice core reads it: errors are corrected and counted, or latched (R368, R369). -/
def withMem (s : State) (at_ : Nat) (k : State → List Byte → Res) : Res := k (s.noteBad at_ 64) (s.core.readLmem at_ 64)

/-- SH.REPLY: MSG only, at most once; held while a retraining link holds the way to the sender (R389). -/
def execShReply (a : XReg) (c : Ctl) (s : State) : Host.Outcome State Fault Refusal :=
  run c s fun s => withInv s fun v =>
    let at_ := (s.x a).toNat
    if v.trig.kind != .msg || v.replied || at_ % 64 ≠ 0 || 0x8000 < at_ + 64 then trapCondition
    else if s.replyHeld (sliceNo s.core.loc) v.trig.from_ then .hold s
    else withMem s at_ fun s bs => .ok ((s.slReply v.trig.from_ bs).setInv (sliceNo s.core.loc) (some { v with replied := true }))

/-- The time an SH.FWD has waited for its target is not charged to the budget (R352). -/
def State.uncharge (s : State) : State :=
  match s.core.prog with
  | some (.shAway since) => (s.modSlice (sliceNo s.core.loc) fun q =>
      { q with inv := q.inv.map fun v => { v with start := v.start.map fun t => t + (s.cycle - since) } }).onCore fun c => { c with prog := none }
  | _ => s

/-- An instruction of the slice core waits from now on, and the wait is not charged. -/
def State.shWait (s : State) : State := s.onCore fun c => match c.prog with
  | some (.shAway _) => c
  | _ => { c with prog := some (.shAway s.cycle) }

/-- SH.FWD's one-sided write (R352): held, without charge, while the target is not resident, and while a retraining link holds the way to it
(R389). -/
def shForward (s : State) (v : Invocation) (sel : W64) (bs : List Byte) : Res :=
  let away := s.shWait
  let s := s.uncharge
  let idx := bitsOf sel 31 0
  let win := bitsOf sel 35 32
  let off := 64 * bitsOf sel 47 36
  let ctr := bitsOf sel 50 48
  match s.launchAt v.reg.launch with
  | none => trapCondition
  | some l =>
    if bitsOf sel 63 51 ≠ 0 || l.count * l.cmd.w * l.cmd.h ≤ idx then trapCondition
    else match s.coreOfIndex l.id idx with
      | some t =>
        let w := t.wins[win]?.getD Window.start
        if t.run.isHalted then .ok s
        else if s.pathHeld s.core.loc.die t.loc.die then .hold away
        else if !w.init || w.half < off + 64 then
          .ok (s.setCore (t.recordFault ctr #v[0x09, w64 (0xB0 * 65536 + ctr * 2 ^ 24), w64 off, s.core.pc]))
        else
          let t1 := t.writeBack win off bs
          let k := t1.ctrs[ctr]?.getD Counter.start
          .ok (s.setCore { t1 with ctrs := t1.ctrs.setIfInBounds ctr { k with count := k.count + 1 } })
      | none =>
        match l.plots[idx / (l.cmd.w * l.cmd.h)]? with
        | some p => if p.st = .done then .ok s else .hold away
        | none => .ok s

/-- SH.FWD from handler memory, of the 64 bytes at any address that leaves them within it. -/
def execShFwdMem (b a : XReg) (c : Ctl) (s : State) : Host.Outcome State Fault Refusal :=
  run c s fun s => withInv s fun v =>
    let at_ := (s.x a).toNat
    if 0x8000 < at_ + 64 then trapCondition
    else withMem s at_ fun s bs => shForward s v (s.x b) bs

/-- SH.FWD from `f2`. -/
def execShFwdAcc (b : XReg) (c : Ctl) (s : State) : Host.Outcome State Fault Refusal :=
  run c s fun s => withInv s fun v => shForward s v (s.x b) (natBytes 64 v.f2.toNat)

/-- SH.DONE: the invocation ends, and the default action follows; once the budget is spent it comes too late (R351). Issued in time, it waits
without charge for a retraining link on the way of a message's default reply (R389). -/
def execShDone (c : Ctl) (s : State) : Host.Outcome State Fault Refusal :=
  run c s fun s => withInv s fun v =>
    if v.spent s.core s.cycle then trapCondition
    else if s.endHeld (sliceNo s.core.loc) v then .hold s.shWait
    else .ok (s.endInv (sliceNo s.core.loc) v)

/-! ## SFMA (R353) -/

def lineLane (bs : List Byte) (pos i : Nat) : FVal := fdec fF32 (fieldNat bs (pos + 4 * i) 4)

def execSfma (c : Ctl) (s : State) : Host.Outcome State Fault Refusal :=
  run c s fun s => withInv s fun v =>
    match v.f0, v.f1 with
    | some (b0, p0), some (b1, p1) =>
      if 128 ≤ p0 || 128 ≤ p1 then trapCondition
      else
        let ls := (List.range 16).map fun i =>
          fround fF32 ((fdec fF32 (laneOf 32 v.f2 i)).add ((lineLane b0 p0 i).mul (lineLane b1 p1 i)))
        .ok (s.setInv (sliceNo s.core.loc) (some { v with f2 := ofLanes 32 ls, f0 := some (b0, p0 + 64), f1 := some (b1, p1 + 64) }))
    | _, _ => trapCondition

end Sys2Proof.Machine
end

