-- ==== Sys2Proof/Machine/Queue.lean ====
section
/-! DEFINITION. Sys2Proof/Machine/Queue.lean: interrupts (R411), fault records (R364, R365), launch queues, the checks at the queue head
and the dequeue (R152 to R159, R347, R348, R390, R413). -/

namespace Sys2Proof.Machine

/-! ## Interrupts (R411) -/

/-- The mask bit of a vector in an MSI-X table, kept as dwords by their number. PRESUMED (log 14). -/
def msixMasked (t : Tab W32) (v : Nat) : Bool := (tabGet 1 t (4 * v + 3)).getLsbD 0

/-- A cause of vector `v` of a virtual function. -/
def Tenant.irq (t : Tenant) (v : Nat) : Tenant :=
  if !t.irqen.getLsbD v || t.irqpend.getLsbD v then t
  else if msixMasked t.msix v then { t with irqpend := t.irqpend ||| (1 <<< v), pba := t.pba ||| (1 <<< v) }
  else { t with irqpend := t.irqpend ||| (1 <<< v), msgs := t.msgs + 1 }

/-- A cause of vector `v` of the physical function. -/
def Mgmt.irq (m : Mgmt) (v : Nat) : Mgmt :=
  if !m.irqen.getLsbD v || m.irqpend.getLsbD v then m
  else if msixMasked m.msix v then { m with irqpend := m.irqpend ||| (1 <<< v), pba := m.pba ||| (1 <<< v) }
  else { m with irqpend := m.irqpend ||| (1 <<< v), msgs := m.msgs + 1 }

def State.irqVf (s : State) (t v : Nat) : State := s.modTenant t fun n => n.irq v
def State.irqPf (s : State) (v : Nat) : State := { s with mgmt := s.mgmt.irq v }

/-! ## The device's own reads and writes of a tenant's memory (R153, R157) -/

/-- The granted die of lowest number: where the device walks for a tenant's queues. -/
def State.homeDieOf (s : State) (t : Nat) : Nat := ((s.tenantAt t).physDie 0).getD 0

/-- Who walks for the device's own accesses of a tenant (R244). -/
def State.devLoc (s : State) (t : Nat) : Loc := { kind := .control, die := s.homeDieOf t, x := 0, y := 0 }

/-- A byte outside every core's and die's buffers, through a page of key slot `k`; a poisoned line reads zero (R369). -/
def State.outerByte (s : State) (k pa : Nat) : Byte :=
  if isHost pa then s.host.read pa else if s.isPoisoned pa then 0 else s.memByte k pa

/-- What a device access answers: done, refused (the trap code, the level and the address), or held. -/
inductive DevRead (α : Type) where
  | ok (v : α)
  | fault (code level va : Nat)
  | wait
deriving DecidableEq, Repr

def DevRead.bind (r : DevRead α) (f : α → DevRead β) : DevRead β :=
  match r with
  | .ok v => f v
  | .fault c l a => .fault c l a
  | .wait => .wait

/-- One byte address at a tenant's home die, as translated, with its page's key slot. -/
def State.devAddr (s : State) (t va : Nat) (acc : Access) : DevRead (Nat × Nat) :=
  match s.dieTr (s.homeDieOf t) t va acc with
  | .hit pa pte => .ok (pa, pteKey pte)
  | .refuse code level => .fault code level va
  | .miss | .wait => .wait

/-- The physical addresses of `n` bytes, with their key slots. -/
def State.devAddrs (s : State) (t va : Nat) (acc : Access) : Nat → DevRead (List (Nat × Nat))
  | 0 => .ok []
  | n + 1 => (s.devAddr t va acc).bind fun a => (State.devAddrs s t (va + 1) acc n).bind fun r => .ok (a :: r)

/-- The walks of a device access (R244). -/
def State.devWalk (s : State) (t va n : Nat) : State := if n = 0 then s else s.agentWalk (s.devLoc t) [] t va n

/-- The lines of an access, from its byte addresses. -/
def linesOf : List (Nat × Nat) → List Nat
  | [] => []
  | a :: r => lineOf a.1 :: (r.filter fun b => b.1 % 128 = 0).map Prod.fst

/-- Read `n` bytes of a tenant's memory (R153): what another core owns is recalled (R224), errors are corrected or found (R368, R369). -/
def State.devRead (s : State) (t va n : Nat) : State × DevRead (List Byte) :=
  let s1 := s.devWalk t va n
  match s1.devAddrs t va Access.read n with
  | .ok as =>
    ((linesOf as).foldl (fun (s : State) (l : Nat) => if isHost l then s else (s.checkLine l).shareLine l none) s1,
     .ok (as.map fun a => s1.outerByte a.2 a.1))
  | .fault code level a => (s1, .fault code level a)
  | .wait => (s1, .wait)

/-- Bytes of a device write reach their addresses (R254, R256). -/
def State.devPlace (s : State) : List (Nat × Nat) → List Byte → State
  | (pa, k) :: r, b :: bs =>
    State.devPlace (if isHost pa then { s with host := s.host.write pa b } else s.placeM none k pa [b]) r bs
  | _, _ => s

/-- A device write of a tenant; it waits for a combining window of a line that it writes (R236). -/
def State.devWrite (s : State) (t va : Nat) (bs : List Byte) : DevRead State :=
  let s1 := s.devWalk t va bs.length
  (s1.devAddrs t va Access.store bs.length).bind fun pas =>
    if (linesOf pas).any s1.windowed then .wait else .ok (s1.devPlace pas bs)

/-- The reads made for a command, in order (R157, R159): the state with what they have done, the values that the reads still to come have
returned before, and the values so far. -/
structure Reads where
  s : State
  left : List (List Byte)
  got : List (List Byte)

/-- Reads of a command, with what they answer. -/
abbrev DevM (α : Type) := Reads → Reads × DevRead α

def DevM.ret (v : α) : DevM α := fun r => (r, .ok v)

def DevM.bind (m : DevM α) (f : α → DevM β) : DevM β := fun r =>
  match m r with
  | (r1, .ok v) => f v r1
  | (r1, .fault c l a) => (r1, .fault c l a)
  | (r1, .wait) => (r1, .wait)

/-- One read of a command: made now, unless it has been made before. -/
def devGet (t va n : Nat) : DevM (List Byte) := fun r =>
  match r.left with
  | bs :: rest => ({ r with left := rest, got := r.got ++ [bs] }, .ok bs)
  | [] => match r.s.devRead t va n with
    | (s1, .ok bs) => ({ r with s := s1, got := r.got ++ [bs] }, .ok bs)
    | (s1, a) => ({ r with s := s1 }, a)

/-! ## Fault records (R364, R365) -/

/-- A record's 64 bytes. -/
def Record.bytes (r : Record) (seq : W32) : List Byte :=
  natBytes 8 (r.kind.toNat + r.code.toNat * 2 ^ 8 + r.queue.toNat * 2 ^ 16 + r.slot.toNat * 2 ^ 20 + r.launch.toNat * 2 ^ 32) ++
  natBytes 8 (r.core.toNat + r.plot.toNat * 2 ^ 32) ++ natBytes 8 r.xpc.toNat ++ r.xinfo.toList.flatMap (fun w => natBytes 8 w.toNat) ++
  natBytes 8 seq.toNat

/-- A record that names no thread. -/
def Record.plain (kind code : Nat) : Record :=
  { kind := BitVec.ofNat 8 kind, code := BitVec.ofNat 8 code, queue := 0, slot := 0, launch := 0, core := 0, plot := 0, xpc := 0,
    xinfo := Vector.replicate 4 0 }

def Tenant.queue (t : Tenant) (q : Nat) : LQueue := tabGet LQueue.start t.queues q
def State.modQueue (s : State) (t q : Nat) (f : LQueue → LQueue) : State :=
  s.modTenant t fun n => { n with queues := tabSet n.queues q (f (n.queue q)) }

/-- The queue moves past its head command (R152, R411 vector 1). -/
def State.queueNext (s : State) (t q : Nat) : State :=
  (s.modQueue t q fun k => { k with head := k.head + 1, cur := none, blocked := none, reads := [] }).irqVf t 1

/-- A launch error's command still stands at the head of its queue (R152): no revocation has discarded it. -/
def LQueue.standsAt (k : LQueue) (slot : BitVec 12) : Bool := k.head != k.tail && k.head.toNat % 2 ^ k.k == slot.toNat

/-- FAULT_RECORD_POST (R365): the oldest record is written when the queue has room; a launch error's queue then advances. -/
def execFaultRecordPost (t : Nat) (s : State) : Host.Outcome State Fault Refusal :=
  let n := s.tenantAt t
  match n.records with
  | [] => event s
  | r :: rest =>
    if 2 ^ n.fqK ≤ (n.fqTail - n.fqHead).toNat then event s
    else match s.devWrite t (n.fqBase.toNat + 64 * (n.fqTail.toNat % 2 ^ n.fqK)) (r.bytes n.fqTail) with
      | .ok s1 =>
        let s2 := (s1.modTenant t fun n => { n with records := rest, fqTail := n.fqTail + 1 }).irqVf t 0
        event (if r.kind = 3 && (n.queue r.queue.toNat).standsAt r.slot then s2.queueNext t r.queue.toNat else s2)
      | .fault _ _ _ | .wait => event s

/-! ## The command (R154, R155) -/

def parseCommand (bs : List Byte) : Command :=
  let d := fun (off : Nat) => w64 (fieldNat bs off 8)
  let h := d 0
  let nwait := bitsOf h 59 57
  let ty := bitsOf h 29 28
  let sig := d 0x60
  { nbound := bitsOf h 63 60, nwait := nwait, sigen := h.getLsbD 56, prio := bitsOf h 55 53, chain := bitsOf h 52 51, indcnt := h.getLsbD 50,
    cores := h.getLsbD 49, throttle := bitsOf h 48 40, h := bitsOf h 39 35, w := bitsOf h 34 30, ty := ty, count := bitsOf h 15 0,
    codeBase := d 0x08, codeLimit := d 0x10, entry := d 0x18, localSrc := d 0x20, localUse := bitsOf (d 0x28) 63 32,
    localLen := bitsOf (d 0x28) 31 0, arg := d 0x30, countAddr := d 0x38,
    waits := (List.range (Nat.min nwait 4)).map fun i => ((d (0x40 + 8 * i)).extractLsb' 32 16, (d (0x40 + 8 * i)).setWidth 32),
    sname := sig.extractLsb' 32 16, samt := sig.setWidth 32, sliceDesc := d 0x68, boundTab := d 0x70, exitAddr := d 0x78,
    mbz := bitsOf h 27 16 == 0 && ((List.range (Nat.min nwait 4)).all fun i => bitsOf (d (0x40 + 8 * i)) 63 48 == 0) &&
      (!(h.getLsbD 56 || ty == 1) || bitsOf sig 63 48 == 0) }

def parseBound (bs : List Byte) : BoundEntry :=
  let w := w64 (fieldNat bs 8 8)
  { addr := w64 (fieldNat bs 0 8), mbz := bitsOf w 63 3 == 0, tied := w.getLsbD 2, idx := bitsOf w 1 0 }

/-- The aligned origins of a shape, in row-major order (R162). -/
def origins (w h : Nat) : List (Nat × Nat) :=
  (List.range (18 / h)).flatMap fun j => (List.range (18 / w)).map fun i => (i * w, j * h)

/-- The cores of a rectangle. -/
def rectCores (d ox oy w h : Nat) : List Loc :=
  (List.range h).flatMap fun j => (List.range w).map fun i => { kind := .compute, die := d, x := ox + i, y := oy + j }

/-- A rectangle lies on a usable die (R421) and holds no fenced core (R118). -/
def State.rectClean (s : State) (d ox oy w h : Nat) : Bool :=
  s.mgmt.diesOk.getLsbD d && s.mgmt.fenced.all fun l => !inRect d ox oy w h l

def Tenant.dieList (t : Tenant) : List Nat := (List.range 4).filter fun d => t.dies.getLsbD d

/-- Code 7: unplaceable. -/
def State.unplaceable (s : State) (t : Nat) (c : Command) : Bool :=
  let ds := (s.tenantAt t).dieList.filter fun d => s.mgmt.diesOk.getLsbD d
  let spot := ds.any fun d => (origins c.w c.h).any fun o => s.rectClean d o.1 o.2 c.w c.h
  let cores := 324 * ds.length - (s.mgmt.fenced.filter fun l => l.kind = .compute && ds.contains l.die).length
  !spot || (c.cores && decide (cores < c.count * c.w * c.h))

/-- The checks of R157, codes 1 to 7; a signal-only command is checked for codes 1 and 2 as R156 states. 0 where none fails. Where several
conditions hold, the lowest code is reported. DEDUCED, DESIGN CHOICE (log 99, 110). -/
def State.headCode (s : State) (t : Nat) (c : Command) (bs : List BoundEntry) : Nat :=
  if 2 ≤ c.ty || !c.mbz then 1
  else if 4 < c.nwait then 2
  else if c.ty = 1 then 0
  else if c.w = 0 || 18 < c.w || c.h = 0 || 18 < c.h || c.count = 0 || 8 < c.nbound then 2
  else if c.w * c.h < c.throttle || c.chain = 3 then 3
  else if c.codeBase.toNat % 64 ≠ 0 || c.codeLimit.toNat % 64 ≠ 0 || c.codeLimit.toNat ≤ c.codeBase.toNat then 4
  else if c.localSrc.toNat % 64 ≠ 0 || c.localLen % 64 ≠ 0 || 0x30000 < c.localLen || c.localUse % 4096 ≠ 0 || 0x30000 < c.localUse ||
      c.localUse < c.localLen then 5
  else if (c.indcnt && c.countAddr.toNat % 4 != 0) || c.boundTab.toNat % 16 != 0 ||
      bs.any fun b => b.addr.toNat % 8 != 0 || !b.mbz || (b.tied && c.nwait ≤ b.idx) then 6
  else if s.unplaceable t c then 7
  else 0

/-- A launch error: the record, whose posting advances the queue (R157, R365). -/
def State.launchError (s : State) (t q code : Nat) : State :=
  let k := (s.tenantAt t).queue q
  let r : Record := { Record.plain 3 code with queue := BitVec.ofNat 4 q, slot := BitVec.ofNat 12 (k.head.toNat % 2 ^ k.k) }
  (s.modQueue t q fun k => { k with cur := none, blocked := none, reads := [] }).post t r

/-- A read of the command or of its dequeue was refused: the queue is held and one record posted for that read (R157). DEDUCED (log 61). -/
def State.holdQueue (s : State) (t q code level va : Nat) : State :=
  let r : Record := { Record.plain 2 code with xinfo := #v[Access.read.word, 0, w64 va, w64 level] }
  if ((s.tenantAt t).queue q).blocked = some (code, level, va) then s
  else (s.modQueue t q fun k => { k with blocked := some (code, level, va) }).post t r

/-- The tenant runs (R407, R409, R416). -/
def Tenant.active (t : Tenant) : Bool := t.en && t.tstat == 1

/-- The device dequeues: in A0 (R419), the tenant active. -/
def State.queueOpen (s : State) (t : Nat) : Bool := (s.tenantAt t).active && s.mgmt.power == .at 0

/-- A launch error of the queue is not posted yet. -/
def Tenant.errorWaits (t : Tenant) (q : Nat) : Bool := t.records.any fun r => r.kind = 3 && r.queue.toNat = q

/-- The command at a queue head, and its bound entries, read once (R157). -/
def readHead (t : Nat) (k : LQueue) : DevM (Command × List BoundEntry) :=
  (devGet t (k.base.toNat + 128 * (k.head.toNat % 2 ^ k.k)) 128).bind fun bs =>
    let c := parseCommand bs
    if c.ty ≠ 0 || c.nbound = 0 || 8 < c.nbound || c.boundTab.toNat % 16 ≠ 0 then .ret (c, [])
    else (devGet t c.boundTab.toNat (16 * c.nbound)).bind fun es =>
      .ret (c, (List.range c.nbound).map fun i => parseBound ((es.drop (16 * i)).take 16))

/-- The reads of a queue's command from where they stand. -/
def State.reads (s : State) (t q : Nat) : Reads := { s := s, left := ((s.tenantAt t).queue q).reads, got := [] }

/-- A command that waits keeps what its reads have returned. -/
def Reads.keep (r : Reads) (t q : Nat) : State := r.s.modQueue t q fun k => { k with reads := r.got }

/-- Whether wait `w` is met now (R158). -/
def Tenant.waitMet (t : Tenant) (w : BitVec 16 × W32) : Bool := evReady (tabGet 0 t.events w.1.toNat) w.2

/-- A command that has been read at the head: checked, and then held for its waits, or discarded. -/
def State.checkHead (s : State) (t q : Nat) (c : Command) (bs : List BoundEntry) : State :=
  let code := s.headCode t c bs
  if code ≠ 0 then s.launchError t q code
  else
    let h : HeadCmd := { cmd := c, bounds := bs, satisfied := c.waits.map fun w => (s.tenantAt t).waitMet w }
    c.waits.foldl (fun s w => s.enrol t w.1.toNat) (s.modQueue t q fun k => { k with cur := some h, blocked := none, reads := [] })

/-- A command reaches the head: read and checked, or held. -/
def State.takeHead (s : State) (t q : Nat) : State :=
  match readHead t ((s.tenantAt t).queue q) (s.reads t q) with
  | (r, .wait) => r.keep t q
  | (r, .fault code level va) => (r.keep t q).holdQueue t q code level va
  | (r, .ok (c, bs)) => r.s.checkHead t q c bs

/-- LAUNCH_QUEUE_HEAD (R157). -/
def execLaunchQueueHead (t q : Nat) (s : State) : Host.Outcome State Fault Refusal :=
  let n := s.tenantAt t
  let k := n.queue q
  event (if q < 16 && s.queueOpen t && k.cur.isNone && k.head != k.tail && k.blocked.isNone && !n.errorWaits q then s.takeHead t q else s)

/-! ## The resource table (R390) -/

/-- A ring entry, or none where it breaks the layout or the limits of R47 and R228. -/
def parseRing (bs : List Byte) : Option Ring :=
  let a := w64 (fieldNat bs 0 8)
  let b := w64 (fieldNat bs 8 8)
  let kind := bitsOf a 41 40
  let n := bitsOf a 39 31
  let sz := bitsOf a 30 18
  let base := bitsOf a 17 0
  let src := bitsOf b 31 0
  let dx := intDec 6 true (src % 64)
  let dy := intDec 6 true (src / 256 % 64)
  if bitsOf a 63 42 ≠ 0 || bitsOf b 63 32 ≠ 0 then none
  else if kind = 0 then (if a = 0 && b = 0 then some Ring.start else none)
  else if n < 2 || 256 < n || sz = 0 || sz % 64 ≠ 0 || 4096 < sz || base % 64 ≠ 0 || 0x30000 < base + n * sz then none
  else
    let mk := fun (k : RingKind) => some { Ring.start with kind := k, base := base, slot := sz, n := n }
    if kind = 1 then (if src = 0 then mk .ring else none)
    else if kind = 2 then
      (if src = src % 64 + src / 256 % 64 * 256 && dx.natAbs ≤ 17 && dy.natAbs ≤ 17 then mk (.plotChan dx dy) else none)
    else mk (.launchChan (intDec 32 true src))

/-- A group entry: its members. DEDUCED (log 83). -/
def parseGroup (bs : List Byte) : Option (List Nat) :=
  let n := fieldNat bs 0 8
  let ms := (List.range 8).map fun i => fieldNat bs (8 + 4 * i) 4
  if 8 < n || (ms.drop n).any (· != 0) || fieldNat bs 40 8 ≠ 0 then none else some (ms.take n)

/-- A window entry. -/
def parseWin (bs : List Byte) : Option Window :=
  let a := w64 (fieldNat bs 0 8)
  let half := 64 * (bitsOf a 27 18 + 1)
  let base := bitsOf a 17 0
  if bitsOf a 63 29 ≠ 0 then none
  else if !a.getLsbD 28 then (if a = 0 then some Window.start else none)
  else if base % 64 ≠ 0 || 0x30000 < base + 2 * half then none
  else some { Window.start with init := true, base := base, half := half }

/-- All entries, or none where one is missing. -/
def allSome : List (Option α) → Option (List α)
  | [] => some []
  | none :: _ => none
  | some a :: r => (allSome r).map (a :: ·)

/-- The 640-byte resource table. -/
def parseTable (bs : List Byte) : Option ResTable :=
  let at_ := fun (off n : Nat) => (bs.drop off).take n
  match allSome ((List.range 8).map fun h => parseRing (at_ (16 * h) 16)), allSome ((List.range 8).map fun k => parseGroup (at_ (0x80 + 48 * k) 48)),
      allSome ((List.range 16).map fun w => parseWin (at_ (0x200 + 8 * w) 8)) with
  | some rs, some gs, some ws =>
    let ranges := ((rs.filter fun r => r.kind != .none).map fun r => (r.base, r.n * r.slot)) ++
      ((ws.filter fun w => w.init).map fun w => (w.base, 2 * w.half))
    if disjoint ranges then some { rings := rs, groups := gs, wins := ws } else none
  | _, _, _ => none

/-! ## Slice handlers (R347, R348) -/

/-- A handler image as read: trigger, budget, code, data length. -/
structure Handler where
  kind : Trigger
  budget : Nat
  code : List Byte
  dlen : Nat
deriving DecidableEq, Repr

/-- A slice descriptor as read: its range and its images with their whole bytes. -/
structure SliceDesc where
  lo : Nat
  hi : Nat
  imgs : List (Handler × List Byte)
deriving DecidableEq, Repr

def triggers : List Trigger := [.miss, .fill, .evict, .msg]

/-- The image of a trigger: none without one; an error where it breaks R347. -/
def readHandler (t : Nat) (kind : Trigger) (img word : W64) : DevM (Option (Option (Handler × List Byte))) :=
  let b := bitsOf word 12 0
  if bitsOf word 63 13 ≠ 0 || (b ≠ 0 && (b < 64 || 4096 < b)) then .ret none
  else if img = 0 then .ret (some none)
  else if img.toNat % 64 ≠ 0 then .ret none
  else (devGet t img.toNat 64).bind fun h =>
    let nl := fieldNat h 0 2
    let dl := fieldNat h 2 2
    if nl = 0 || 511 < nl || dl % 64 ≠ 0 || fieldNat h 4 60 ≠ 0 then .ret none
    else (devGet t (img.toNat + 64) (64 * nl)).bind fun code =>
      .ret (some (some ({ kind := kind, budget := if b = 0 then 512 else b, code := code, dlen := dl }, h ++ code)))

/-- The descriptor with its images; none is launch error 8. DEDUCED (log 62). -/
def readSliceDesc (t : Nat) (a : W64) : DevM (Option SliceDesc) :=
  if a.toNat % 64 ≠ 0 then .ret none
  else (devGet t a.toNat 128).bind fun d =>
    let lo := fieldNat d 0 8
    let hi := fieldNat d 8 8
    if lo % 4096 ≠ 0 || hi % 4096 ≠ 0 || hi ≤ lo || lo + 2 ^ 36 < hi || fieldNat d 16 48 ≠ 0 then .ret none
    else
      let go := fun (i : Nat) (k : Trigger) => readHandler t k (w64 (fieldNat d (64 + 16 * i) 8)) (w64 (fieldNat d (72 + 16 * i) 8))
      (go 0 .miss).bind fun a => (go 1 .fill).bind fun b => (go 2 .evict).bind fun c => (go 3 .msg).bind fun e =>
        match a, b, c, e with
        | some a, some b, some c, some e => .ret (some { lo := lo, hi := hi, imgs := [a, b, c, e].filterMap id })
        | _, _, _, _ => .ret none

/-- The slices of a tenant's granted dies. -/
def Tenant.sliceList (t : Tenant) : List Nat := t.dieList.flatMap fun d => (List.range 16).map fun i => 16 * d + i

/-- The parts of a slice core's handler memory in use; a message buffer counts with its handler. DESIGN CHOICE (log 41). -/
def Slice.memUse (q : Slice) : List (Nat × Nat) :=
  q.regs.flatMap fun r => [(r.codeAt, r.code.length), (r.dataAt, r.dlen)] ++ (if r.kind = .msg then [(0x7FC0, 64)] else [])

/-- The first 64-byte-aligned place of handler memory that is free for an image. DESIGN CHOICE (log 42). -/
def Slice.findRoom (q : Slice) (n : Nat) (msg : Bool) : Option Nat :=
  let used := (if msg then [(0x7FC0, 64)] else []) ++ q.memUse
  ((List.range 512).map fun i => 64 * i).find? fun a => decide (a + n ≤ 0x8000) && used.all fun r => !overlaps a n r.1 r.2

/-- Register a handler at a slice, or none where handler memory has no room. -/
def Slice.register (q : Slice) (t launch lo hi : Nat) (pages : List (Nat × Nat × Nat)) (h : Handler) : Option (Slice × SliceReg) :=
  match q.findRoom (h.code.length + h.dlen) (h.kind == .msg) with
  | none => none
  | some a =>
    let r : SliceReg :=
      { tenant := t, launch := launch, kind := h.kind, lo := lo, hi := hi, pages := pages, budget := h.budget, code := h.code, codeAt := a,
        dataAt := a + h.code.length, dlen := h.dlen, recent := [] }
    some ({ q with regs := q.regs ++ [r] }, r)

/-- Load one image into one slice core: its code, and its data area zero. -/
def State.loadHandler (s : State) (t launch sl : Nat) (d : SliceDesc) (pages : List (Nat × Nat × Nat)) (h : Handler) : Option State :=
  match (s.sliceAt sl).register t launch d.lo d.hi pages h with
  | none => none
  | some (q, r) =>
    let s1 := s.modSlice sl fun _ => q
    some (s1.modCore (sliceLoc sl) fun c => { c with lmem := (c.lmem.clear r.dataAt (r.dataAt + r.dlen)).writeN r.codeAt r.code })

/-- Load every image into every slice core of the granted dies, the range made physical (R348). -/
def State.loadHandlers (s : State) (t launch : Nat) (d : SliceDesc) : Option State :=
  let pages := s.rangePages (s.homeDieOf t) t d.lo d.hi
  (s.tenantAt t).sliceList.foldl (fun (o : Option State) (sl : Nat) =>
    d.imgs.foldl (fun (o : Option State) (i : Handler × List Byte) => o.bind fun s => s.loadHandler t launch sl d pages i.1) o) (some s)

/-- A trigger of the descriptor is registered by another incomplete launch of the tenant. -/
def State.registered (s : State) (t : Nat) (d : SliceDesc) : Bool :=
  (s.tenantAt t).sliceList.any fun sl => (s.sliceAt sl).regs.any fun r => r.tenant = t && d.imgs.any fun i => i.1.kind = r.kind

/-! ## Measurement (R413) -/

/-- One step of a measurement chain. -/
def extend (m : BitVec 384) (e : List Byte) : BitVec 384 := Config.sha384 (natBytes 48 m.toNat ++ natBytes 48 (Config.sha384 e).toNat)

/-- The code region as measured: a byte that cannot be read counts as zero. DESIGN CHOICE (log 60). -/
def State.codeBytes (s : State) (t : Nat) (c : Command) : List Byte :=
  (List.range (c.codeLimit.toNat - c.codeBase.toNat)).map fun i => match s.devAddr t (c.codeBase.toNat + i) Access.read with
    | .ok a => s.outerByte a.2 a.1
    | _ => 0

/-! ## The dequeue (R156, R159) -/

/-- What a dequeue reads: the table's bytes and the table, the local image, the bound words, the effective count. -/
structure Pulled where
  tableBytes : List Byte
  table : ResTable
  image : List Byte
  bound : List W64
  count : Nat
deriving DecidableEq, Repr

def boundWords (t : Nat) : List BoundEntry → DevM (List W64)
  | [] => .ret []
  | b :: r => (devGet t b.addr.toNat 8).bind fun bs => (boundWords t r).bind fun ws => .ret (w64 (leNat bs) :: ws)

/-- The reads of R159 after the slice descriptor's; none is launch error 9. DEDUCED (log 62). -/
def pull (t : Nat) (h : HeadCmd) : DevM (Option Pulled) :=
  let c := h.cmd
  (devGet t (c.localSrc.toNat + c.localLen) 640).bind fun tb =>
    match parseTable tb with
    | none => .ret none
    | some tab => (devGet t c.localSrc.toNat c.localLen).bind fun img => (boundWords t h.bounds).bind fun ws =>
        if c.indcnt then (devGet t c.countAddr.toNat 4).bind fun bs =>
          .ret (some { tableBytes := tb, table := tab, image := img, bound := ws, count := Nat.min (leNat bs) c.count })
        else .ret (some { tableBytes := tb, table := tab, image := img, bound := ws, count := c.count })

def Plot.start (age : BitVec 64) : Plot :=
  { st := .pending, home := none, pinned := false, hold := false, age := age, sliceStart := 0, threads := [], snap := [] }

/-- The launch becomes pending (R159 step 3). -/
def State.addLaunch (s : State) (t q : Nat) (h : HeadCmd) (p : Pulled) (d : Option SliceDesc) : State :=
  let s := s.devWalk t h.cmd.codeBase.toNat (h.cmd.codeLimit.toNat - h.cmd.codeBase.toNat)
  let n := s.tenantAt t
  let k := n.queue q
  let l : Launch :=
    { id := s.launchNo, tenant := t, number := BitVec.ofNat 32 n.launches, queue := q, slot := k.head.toNat % 2 ^ k.k, cmd := h.cmd,
      count := p.count, bound := p.bound, image := p.image, table := p.table, age := s.cycle,
      plots := List.replicate p.count (Plot.start s.cycle), exits := [], ending := false, credits := [] }
  let elements := [s.codeBytes t h.cmd, p.image, p.tableBytes] ++ (match d with | some d => d.imgs.map Prod.snd | none => [])
  let s1 := s.modTenant t fun n =>
    { n with launches := n.launches + 1, dequeues := n.dequeues + 1, chain := elements.foldl extend n.chain }
  State.queueNext { s1 with launchNo := s1.launchNo + 1, launches := s1.launches ++ [l] } t q

/-- The slice descriptor of a command, if it names one. -/
def readDescriptor (t : Nat) (h : HeadCmd) : DevM (Option (Option SliceDesc)) :=
  if h.cmd.sliceDesc = 0 then .ret (some none) else (readSliceDesc t h.cmd.sliceDesc).bind fun o => .ret (o.map some)

/-- The handlers of a descriptor, if there is one, in the slice cores. -/
def State.withHandlers (s : State) (t : Nat) (d : Option SliceDesc) : Option State :=
  match d with
  | some d => s.loadHandlers t s.launchNo d
  | none => some s

/-- Dequeue a launch command (R159): code 8, code 9, the other reads, then the launch. One that waits, for a read or for the launch that has
registered its trigger (R348), keeps what it has read. -/
def State.dequeue (s : State) (t q : Nat) (h : HeadCmd) : State :=
  match readDescriptor t h (s.reads t q) with
  | (r, .wait) => r.keep t q
  | (r, .fault code level va) => (r.keep t q).holdQueue t q code level va
  | (r, .ok none) => r.s.launchError t q 8
  | (r, .ok (some d)) =>
    if d.any fun d => r.s.registered t d then r.keep t q
    else if (r.s.withHandlers t d).isNone then r.s.launchError t q 8
    else match pull t h r with
      | (r, .wait) => r.keep t q
      | (r, .fault code level va) => (r.keep t q).holdQueue t q code level va
      | (r, .ok none) => r.s.launchError t q 9
      | (r, .ok (some p)) => ((r.s.withHandlers t d).getD r.s).addLaunch t q h p d

/-- A queue's command may be dequeued: every wait satisfied once (R158). -/
def LQueue.ready (k : LQueue) : Bool := k.cur.any fun h => h.satisfied.all id

/-- LAUNCH_READ_RETRY (R157): a held read is tried again, and it alone; the queue goes on if it is granted now. DEDUCED (log 61). -/
def execLaunchReadRetry (t q : Nat) (s : State) : Host.Outcome State Fault Refusal :=
  let k := (s.tenantAt t).queue q
  if k.blocked.isSome && s.queueOpen t && !(s.tenantAt t).errorWaits q then
    match k.cur with
    | none => event (s.takeHead t q)
    | some h => event (s.dequeue t q h)
  else event s

/-- A wake-up starts an exit to A0 (R419). -/
def State.wakePower (s : State) : State :=
  let p : Power := match s.mgmt.power with
    | .at a => if a = 0 then .at 0 else .exiting 0
    | .exiting _ => .exiting 0
  { s with mgmt := { s.mgmt with power := p } }

/-! ## The host's writes in their order (R153, R246, R256, R409) -/

/-- Whose a host write is. -/
def HostWrite.tenant : HostWrite → Nat
  | .data t _ _ | .evsig t _ _ | .tail t _ _ => t

/-- Host writes of a tenant wait. -/
def State.hostHeld (s : State) (t : Nat) : Bool := s.hostWrites.any fun w => w.tenant == t

/-- A host write at its turn (R153, R246, R256, R409): performed, or dropped where it faults; none while it is held. -/
def State.hostWrite (s : State) : HostWrite → Option State
  | .data t off bs => match s.devWrite t off bs with
    | .ok u => some u
    | .fault _ _ _ => some s
    | .wait => none
  | .evsig t name amt => some (s.addEvent t name amt)
  | .tail t q v => some (s.modQueue t q fun k => { k with tail := v })

/-- Host writes in their order: one that is held keeps back those of its tenant behind it. -/
def State.hostTurns (s : State) : List HostWrite → State
  | [] => s
  | w :: r => match (if s.hostHeld w.tenant then none else s.hostWrite w) with
    | some u => State.hostTurns u r
    | none => State.hostTurns { s with hostWrites := s.hostWrites ++ [w] } r

/-- The host writes that wait are tried again. -/
def State.flushWrites (s : State) : State := State.hostTurns { s with hostWrites := [] } s.hostWrites

/-- A host write arrives. -/
def State.hostArrive (s : State) (w : HostWrite) : State := State.hostTurns s [w]

/-- LAUNCH_DEQUEUE (R156, R159): the signal of a command of TYPE 1 is a release at the tenant scope, so that it waits for the tenant's BAR2 writes
that have arrived. -/
def execLaunchDequeue (t q : Nat) (s : State) : Host.Outcome State Fault Refusal :=
  let k := (s.tenantAt t).queue q
  match k.cur with
  | some h =>
    if s.queueOpen t && k.blocked.isNone && k.ready then
      (if h.cmd.ty = 1 then event (if s.hostHeld t then s else (s.queueNext t q).addEvent t h.cmd.sname.toNat h.cmd.samt) else event (s.dequeue t q h))
    else event s
  | none => event s

/-- LQTAIL_WRITE (R153, R409): the write publishes commands, once the tenant's BAR2 writes before it are performed, and starts an exit from a low-power state (R419). -/
def execLqtailWrite (t q : Nat) (v : BitVec 32) (s : State) : Host.Outcome State Fault Refusal :=
  if q < 16 && (s.tenantAt t).tstat != 3 then
    event (s.hostArrive (.tail t q v)).wakePower
  else event s

end Sys2Proof.Machine
end

