-- ==== Sys2Proof/Machine/Merge.lean ====
section
/-! DEFINITION. Sys2Proof/Machine/Merge.lean: the merge of deferred updates (R265, R280, R281, R356) and supersteps (R141 to R143,
R214). -/

namespace Sys2Proof.Machine

/-! ## The threads of a launch -/

/-- The cores a launch's threads stand on. -/
def State.coresOf (s : State) (lid : Nat) : List Core :=
  s.allCores.filter fun c => match c.place with
    | some p => p.launch == lid
    | none => false

/-- An engine is writing a tile of a launch's contract (R307): its elements are engine writes. -/
def LinkEngine.draining (e : LinkEngine) (lid : Nat) : Bool :=
  (e.run.any fun r => r.phase ≠ .stepping && r.west.launch == lid) || e.pending.any fun r => r.west.launch == lid

/-- The oldest contracts of an engine, as long as both parties have closed them (R250, R305), include one of a launch: its tile is still to come,
and its elements are engine writes of commands that were issued. -/
def LinkEngine.owes (e : LinkEngine) (lid : Nat) : Bool :=
  ((e.w.zip e.e).takeWhile fun o => o.1.closePos.isSome && o.2.closePos.isSome).any fun o => o.1.party.launch == lid

/-- Every store, engine write, counter update and channel send of the launch's threads, the ended ones among them, is performed at `.dev`
(R142, R265). -/
def State.launchQuiet (s : State) (lid : Nat) : Bool :=
  ((s.coresOf lid).all fun c => c.loadsDone c.pos && s.storesDone c c.pos .dev && c.sb.isEmpty && c.cmds.isEmpty) &&
  (s.dies.toList.all fun d => d.db.all fun b => !b.owner.ofLaunch lid) &&
  (s.engines.all fun e => !e.draining lid && !e.owes lid) &&
  s.msgs.all fun m => match m with
    | .chanData l _ _ _ _ _ _ => l != lid
    | _ => true

/-- The log entries of a launch, in every slice. -/
def State.logOf (s : State) (lid : Nat) : List LogEntry := s.slices.flatMap fun q => q.2.log.filter fun e => e.launch = lid

/-! ## The merge -/

/-- The order of R265: per home slice by physical address, core index and sequence number. -/
def LogEntry.before (a b : LogEntry) : Bool :=
  if a.slice ≠ b.slice then a.slice < b.slice
  else if a.pa ≠ b.pa then a.pa < b.pa
  else if a.core ≠ b.core then a.core < b.core
  else a.seq.toNat < b.seq.toNat

def insertEntry (e : LogEntry) : List LogEntry → List LogEntry
  | [] => [e]
  | f :: r => if e.before f then e :: f :: r else f :: insertEntry e r

def sortEntries : List LogEntry → List LogEntry
  | [] => []
  | e :: r => insertEntry e (sortEntries r)

/-- The type of a log entry's operation (R280). -/
def LogTy.ntype : LogTy → NType
  | .f32 => .flt fF32 | .f64 => .flt fF64
  | .i32 => .int 32 true | .i64 => .int 64 true
  | .n32 => .int 32 false | .n64 => .int 64 false

/-- A value in memory after an entry's operation (R280). -/
def logNew (op : LogOp) (t : NType) (old v : Nat) : Nat :=
  match t with
  | .flt f =>
    let a := fdec f old
    let b := fdec f v
    fround f (match op with | .add => a.add b | .min => a.fmin b | .max => a.fmax b)
  | .int w s =>
    let a := intDec w s old
    let b := intDec w s v
    intBits w (match op with
      | .add => a + b
      | .min => if b < a then b else a
      | .max => if a < b then b else a)

/-- An entry's address as its tenant's table now translates it, on its home die: a leaf with LOCK holds it (R246, R265). -/
def State.entryTr (s : State) (e : LogEntry) : Tr := s.dieTr (e.slice / 16) e.tenant e.va Access.store

/-- Where an entry's update goes (R246: under the entry that now translates it). DESIGN CHOICE (log 46): an update whose address is
no longer granted goes nowhere; the manual gives it no outcome. -/
def State.entryPa (s : State) (e : LogEntry) : Option Nat :=
  match s.entryTr e with
  | .hit pa _ => if isDevice pa then some pa else none
  | _ => none

/-- Apply one entry as a `.dev` atomic at its home slice; its read corrects a single-bit error (R368). -/
def State.applyEntry (s : State) (e : LogEntry) : State :=
  match s.entryPa e with
  | some pa =>
    let s := s.checkLine pa
    let n := LogTy.bytes e.ty
    let k := match s.entryTr e with
      | .hit _ pte => pteKey pte
      | _ => 0
    let old := leNat ((List.range n).map fun i => s.memByte k (pa + i))
    s.placeM none k pa (natBytes n (logNew e.op (LogTy.ntype e.ty) old e.operand.toNat))
  | none => s

/-- Credits of a tenant come back to a slice's log. -/
def State.ungrant (s : State) (t sl n : Nat) : State :=
  s.modSlice sl fun q => { q with granted := tabSet q.granted t (tabGet 0 q.granted t - n) }

/-- Give back the unused credits of a core (R281, R372). -/
def State.returnCredits (s : State) (l : Loc) : State :=
  let c := s.coreAt l
  let s1 := c.credits.foldl (fun s e => s.ungrant c.tenantNo e.1 e.2) s
  s1.modCore l fun c => { c with credits := [] }

/-- The merge of a launch: its entries in order, its log emptied, its cores' credits returned. -/
def State.merge (s : State) (lid : Nat) : State :=
  let s1 := (sortEntries (s.logOf lid)).foldl State.applyEntry s
  let s2 := { s1 with slices := s1.slices.map fun (q : Nat × Slice) => (q.1, { q.2 with log := q.2.log.filter fun e => e.launch ≠ lid }) }
  let s3 := (s2.coresOf lid).foldl (fun s c => s.returnCredits c.loc) s2
  let s4 := match s3.launchAt lid with
    | some l => l.credits.foldl (fun (s : State) (e : Nat × Nat) => s.ungrant l.tenant e.1 e.2) s3
    | none => s3
  s4.modLaunch lid fun l => { l with credits := [] }

/-- No entry is held by a LOCK leaf (R246) or a combining window of its line (R236), and no die buffer holds a store that overlaps one (R254).
DESIGN CHOICE (log 46). -/
def State.logClear (s : State) (lid : Nat) : Bool :=
  (s.logOf lid).all fun e => s.entryTr e != .wait && s.entryTr e != .miss && !(s.entryPa e).any s.windowed &&
    s.dies.toList.all fun d => d.db.all fun b => !overlaps b.pa b.data.length ((s.entryPa e).getD e.pa) (LogTy.bytes e.ty)

/-- A thread has ended its step, or has halted (R142, R143). -/
def Core.stepOver (c : Core) : Bool := c.run.isHalted || c.stage.stepEnded

/-- The merge point of a launch: a co-resident launch's threads have all ended a communication step; another launch's, or any
launch's last, is when all its threads have halted and its plots are done or resident with halted threads. -/
def State.mergePoint (s : State) (l : Launch) : Bool :=
  let cs := s.coresOf l.id
  let all := cs.all fun c => c.run.isHalted
  let done := l.plots.all fun p => match p.st with
    | .resident _ _ _ | .done => true
    | _ => false
  (all && done) ||
    (l.cmd.cores && cs.all Core.stepOver && cs.any fun c => !c.run.isHalted && c.stage.stepNo % 2 == 1)

/-- The slices whose logs hold entries of a launch. -/
def State.passSlices (s : State) (lid : Nat) : List Nat :=
  s.slices.filterMap fun q => if q.2.log.any fun e => e.launch = lid then some q.1 else none

/-- No other launch's pass stands at a slice that a launch needs: its own passes begin together, so that no two launches wait for each
other. -/
def State.passFree (s : State) (lid : Nat) : Bool := (s.passSlices lid).all fun sl => (s.sliceAt sl).pass.all (· == lid)

/-- The slice cores of a launch's logs are to run its pass once they have ended their invocations (R356). -/
def State.beginPass (s : State) (lid : Nat) : State :=
  (s.passSlices lid).foldl (fun (s : State) (sl : Nat) => s.modSlice sl fun q => { q with pass := some lid }) s

/-- The passes of a launch are over. -/
def State.endPass (s : State) (lid : Nat) : State :=
  { s with slices := s.slices.map fun (q : Nat × Slice) => (q.1, { q.2 with pass := q.2.pass.filter (· ≠ lid) }) }

/-- The walks for the entries of a launch's logs, on their home dies (R244). -/
def State.entryWalks (s : State) (lid : Nat) : State :=
  (s.logOf lid).foldl (fun (s : State) (e : LogEntry) =>
    s.agentWalk { kind := .slice, die := e.slice / 16, x := e.slice % 16, y := 0 } [] e.tenant e.va 1) s

/-- LOG_MERGE (R265, R356): at a merge point each slice core finishes its invocation and begins the pass, in which it skips the triggers
that arrive; once every slice core runs it, the entries are applied in their order, and the pass is over. DEDUCED (log 109). -/
def execLogMerge (lid : Nat) (s : State) : Host.Outcome State Fault Refusal :=
  match s.launchAt lid with
  | some l =>
    let s := if s.mergePoint l && s.launchQuiet lid then s.entryWalks lid else s
    if s.mergePoint l && s.launchQuiet lid && s.logClear lid && s.passFree lid then
      if (s.passSlices lid).all fun sl => (s.sliceAt sl).pass == some lid && (s.sliceAt sl).inv.isNone then event ((s.merge lid).endPass lid)
      else event (s.beginPass lid)
    else event s
  | none => event s

/-! ## Supersteps -/

/-- A thread enters the next step of its launch; an SSTEP that is held returns, one that was interrupted returns when it is executed
again (R143, R205). -/
def Core.nextStep (c : Core) (me : Bool) : Core :=
  let c1 := { c with stage := { c.stage with stepNo := c.stage.stepNo + 1, stepEnded := false } }
  let back : Core := { c1 with stage := { c1.stage with sstepAt := none } }
  if me then back else if c.held && c.prog == some .stepEnd then back.advance else c1

/-- The whole launch enters its next step, when every thread has ended this one and, after a communication step, everything R142 lists
has been performed and merged; `me` is the core whose SSTEP is being executed. -/
def State.superstep (s : State) (lid : Nat) (me : Option Loc) : Option State :=
  let cs := s.coresOf lid
  let comm := cs.any fun c => !c.run.isHalted && c.stage.stepNo % 2 == 1
  if cs.any (fun c => !c.run.isHalted) && cs.all Core.stepOver &&
      (!comm || (s.launchQuiet lid && (s.logOf lid).isEmpty && cs.all fun c => c.credits.isEmpty)) then
    some (s.mapCores fun c => match c.place with
      | some p => if p.launch = lid && !c.run.isHalted then c.nextStep (some c.loc == me) else c
      | none => c)
  else none

/-- SSTEP (R214): a release at `.dev` (R250, R257), the end of the step, once, and the wait of R142. -/
def execSstep (c : Ctl) (s : State) : Host.Outcome State Fault Refusal :=
  run c s fun s =>
    let l := s.launchOf s.core
    let g := s.core.stage
    if !l.cmd.cores then usage s
    else if !g.stepEnded && g.sstepAt = some s.core.pc then .ok (s.onCore fun c => { c with stage := { c.stage with sstepAt := none } })
    else if !g.stepEnded && !s.released s.core .dev then .hold s
    else
      let s1 := s.onCore fun c => { c with prog := some .stepEnd, stage := { c.stage with
        stepEnded := true, sstepAt := if g.stepEnded then g.sstepAt else some c.pc } }
      match s1.superstep l.id (some s.core.loc) with
      | some s2 => .ok s2
      | none => .hold s1

/-- SUPERSTEP_ADVANCE (R142): the held SSTEPs of a launch return. -/
def execSuperstepAdvance (lid : Nat) (s : State) : Host.Outcome State Fault Refusal := event ((s.superstep lid none).getD s)

end Sys2Proof.Machine
end

