-- ==== Sys2Proof/Machine/Reduce.lean ====
section
/-! DEFINITION. Sys2Proof/Machine/Reduce.lean: reduction groups, LDRED and the reducing switches (R397 to R404). -/

namespace Sys2Proof.Machine

/-! ## Member lists (R397) -/

def memV (w : W64) : Bool := w.getLsbD 40
def memPeer (w : W64) : Nat := bitsOf w 39 32
def memCore (w : W64) : Nat := bitsOf w 31 0
/-- A must-be-zero bit is set, or the PEER is reserved. -/
def memBad (w : W64) : Bool := bitsOf w 63 41 != 0 || 63 < memPeer w
/-- The descriptor of a core of this device. -/
def memOwn (i : Nat) : W64 := w64 (2 ^ 40 + i % 2 ^ 32)

/-- The eight descriptors of a list. -/
def listWords (bs : List Byte) : List W64 := (List.range 8).map fun i => w64 (fieldNat bs (8 * i) 8)

def Launch.cores (l : Launch) : Nat := l.count * l.cmd.w * l.cmd.h

def Tenant.peer (t : Tenant) (p : Nat) : Peer := tabGet Peer.start t.peers p

/-- Step 3 of GRP.SET's checks (R398). DEDUCED (log 84). -/
def listOk (t : Tenant) (l : Launch) (me : Nat) (ws : List W64) : Bool :=
  let used := ws.filter memV
  ws.take used.length == used && !used.isEmpty && ws.all (fun w => !memBad w) &&
    used.all (fun w => if memPeer w = 0 then memCore w < l.cores else (t.peer (memPeer w)).v) &&
    decide used.Nodup && used.contains (memOwn me)

/-- The group `k` of a core. -/
def State.groupOf (s : State) (launch core k : Nat) : Option Group :=
  s.groups.find? fun g => g.launch = launch && g.core = core && g.k = k
def State.dropGroup (s : State) (launch core k : Nat) : State :=
  { s with groups := s.groups.filter fun g => !(g.launch == launch && g.core == core && g.k == k) }
def State.setGroup (s : State) (g : Group) : State := let t := s.dropGroup g.launch g.core g.k; { t with groups := g :: t.groups }

/-- GRP.SET (R398). -/
def execGrpSet (k : BitVec 3) (b a : XReg) (c : Ctl) (s : State) : Host.Outcome State Fault Refusal :=
  run c s fun s =>
    let at_ := s.x a
    let base := s.x b
    if at_.toNat % 64 ≠ 0 then misalign at_
    else if !localOk s.core at_.toNat 64 then protect at_
    else if base.toNat % 64 ≠ 0 then misalign base
    else if 0x30000 ≤ base.toNat then protect base
    else latchBad s at_.toNat 64 fun s =>
      let l := s.launchOf s.core
      let ws := listWords (s.core.readLmem at_.toNat 64)
      if !listOk (s.tenantAt s.core.tenantNo) l (s.coreIndex s.core) ws then usage s
      else
        let g : Group := { launch := l.id, core := s.coreIndex s.core, k := k.toNat, members := ws.filter memV, base := base.toNat, epoch := 0 }
        .ok (s.setGroup g)

/-- GRP.CLR (R398). -/
def execGrpClr (k : BitVec 3) (c : Ctl) (s : State) : Host.Outcome State Fault Refusal :=
  run c s fun s => .ok (s.dropGroup (s.launchOf s.core).id (s.coreIndex s.core) k.toNat)

/-! ## LDRED (R399, R401, R402, R404) -/

/-- The status word. -/
def redStatusWord : RedStatus → W64
  | .ok _ => 0
  | .absent mask => w64 (1 + 256 * mask.toNat)
  | .mismatch => 2

/-- LDRED's return: the destination, the status, the guard and the epoch; an answer to it still on its way is void (R404). -/
def State.redReturn (s : State) (g : Group) (d : BitVec 5) (b : XReg) (gd : GReg) (r : RedStatus) : State :=
  let s0 := { s with msgs := s.msgs.filter fun m => match m with
    | .redRes l i ms e _ _ => !(l == g.launch && i == g.core && ms == g.members && e == g.epoch)
    | _ => true }
  let s1 := s0.setGroup { g with epoch := g.epoch + 1 }
  match r with
  | .ok ws =>
    let s2 := match ws with
      | [lo] => s1.setV d lo
      | lo :: hi :: _ => (s1.setV d lo).setV (d + 1) hi
      | [] => s1
    (s2.setX b 0).setG gd true
  | st => (s1.setX b (redStatusWord st)).setG gd false

/-- The record of R404 for a member, list and epoch. -/
def State.redRecord (s : State) (g : Group) : Option RedStatus :=
  s.redWins.findSome? fun w => match w.closed with
    | some st => if w.launch = g.launch && w.members = g.members && w.epoch = g.epoch &&
        w.left.contains (g.members.idxOf (memOwn g.core)) then some st else none
    | none => none

/-- A result is on its way to the member. -/
def State.redComing (s : State) (g : Group) : Bool :=
  s.msgs.any fun m => match m with
    | .redRes l i ms e _ _ => l == g.launch && i == g.core && ms == g.members && e == g.epoch
    | _ => false

/-- The die of the switch that lies with member 0 (R397): where its plot is resident, or was last placed, or the tenant's lowest die. -/
def State.memberDie (s : State) (l : Launch) (w : W64) : Nat :=
  match (l.plots[memCore w / (l.cmd.w * l.cmd.h)]?).bind Plot.home with
  | some (d, _, _) => d
  | none => ((s.tenantAt l.tenant).physDie 0).getD 0

/-- The die of the reducing switch of a list and epoch (R397): the one an earlier request for it went to, or is going to; else chosen now. -/
def State.switchDie (s : State) (l : Launch) (g : Group) : Nat :=
  let w := g.members.headD 0
  match s.redWins.findSome? fun v => if v.closed.isNone && v.launch = g.launch && v.epoch = g.epoch && v.members.head? = g.members.head? then some v.die else none with
  | some d => d
  | none => (s.msgs.findSome? fun m => match m with
    | .redReq k _ ms e _ _ _ _ _ d => if k = g.launch && e = g.epoch && ms.head? = g.members.head? then some d else none
    | _ => none).getD (s.memberDie l w)

/-- LDRED. -/
def execLdred (d : BitVec 5) (a b : XReg) (gd : GReg) (k : BitVec 3) (inB outB : Bool) (c : Ctl) (s : State) :
    Host.Outcome State Fault Refusal :=
  run c s fun s =>
    match s.groupOf (s.launchOf s.core).id (s.coreIndex s.core) k.toNat with
    | none => usage s
    | some g =>
      let off := s.x a
      let at_ := w64 g.base + off
      if at_.toNat % 64 ≠ 0 then misalign at_
      else if !localOk s.core at_.toNat 64 then protect at_
      else match s.core.prog with
        | some (.ldredGot _ _ r) => .ok (s.redReturn g d b gd r)
        | some (.ldredSent _ _) => .hold s
        | _ =>
          if !s.released s.core .dev then .hold s
          else match s.redRecord g with
            | some r => .ok (s.redReturn g d b gd r)
            | none =>
              let s1 := s.onCore fun c => { c with prog := some (.ldredSent g.members g.epoch) }
              if s.redComing g then .hold s1
              else
                let m : Msg := .redReq g.launch g.core g.members g.epoch s.core.loc at_.toNat off inB outB
                  (s.switchDie (s.launchOf s.core) g)
                .hold { s1 with msgs := s1.msgs ++ [m] }

/-! ## The reducing switch (R397, R400) -/

/-- The bytes of a contribution as the switch reads them: a bad block reads 0xFF (R369). -/
def State.contribution (s : State) (r : RedReq) : List Byte := (s.coreAt r.loc).readLmem r.addr 64

/-- The elements of a contribution, widened to F32 (R401). -/
def redElems (inB : Bool) (bs : List Byte) : List FVal :=
  if inB then (List.range 32).map fun i => fdec fBF16 (fieldNat bs (2 * i) 2)
  else (List.range 16).map fun i => fdec fF32 (fieldNat bs (4 * i) 4)

/-- One addition of the tree: an empty operand passes the other through unrounded. -/
def redAdd : Option FVal → Option FVal → Option FVal
  | some x, some y => some (roundF32 (x.add y))
  | some x, none => some x
  | none, y => y

/-- The balanced tree over eight positions. -/
def redTree (p : Nat → Option FVal) : Option FVal :=
  redAdd (redAdd (redAdd (p 0) (p 1)) (redAdd (p 2) (p 3))) (redAdd (redAdd (p 4) (p 5)) (redAdd (p 6) (p 7)))

/-- A member's form of the result. -/
def redForm (outB : Bool) (vs : List FVal) : List V512 :=
  if outB then [toV512 (vs.flatMap fun v => natBytes 2 (fround fBF16 v))]
  else if vs.length ≤ 16 then [toV512 (vs.flatMap fun v => natBytes 4 (fround fF32 v))]
  else [toV512 ((vs.take 16).flatMap fun v => natBytes 4 (fround fF32 v)), toV512 ((vs.drop 16).flatMap fun v => natBytes 4 (fround fF32 v))]

/-- The sums of a window whose members have all requested. -/
def State.redSums (s : State) (w : RedWin) : List FVal :=
  let es := (List.range 8).map fun m => (w.reqs.find? fun r => r.member = m).map fun r => redElems w.inB (s.contribution r)
  (List.range (if w.inB then 32 else 16)).map fun i =>
    (redTree fun m => match es[m]? with
      | some (some vs) => vs[i]?
      | _ => none).getD (.fin false 0 0)

/-- A result leaves the switch of a die for a member. -/
def State.redReply (s : State) (g : Group) (r : RedStatus) (die : Nat) : State :=
  { s with msgs := s.msgs ++ [.redRes g.launch g.core g.members g.epoch r die] }

/-- A member of a window, as its group names the window. -/
def RedWin.group (w : RedWin) (core : Nat) : Group :=
  { launch := w.launch, core := core, k := 0, members := w.members, base := 0, epoch := w.epoch }

/-- Answer every counted request of a window. -/
def State.answerAll (s : State) (w : RedWin) (f : RedReq → RedStatus) : State :=
  w.reqs.foldl (fun s r => s.redReply (w.group r.core) (f r) w.die) s

/-- Every member has requested: the sums go out, or MISMATCH. Bad local blocks that were read latch on their owners (R369). -/
def State.redClose (s : State) (w : RedWin) : State :=
  if w.mism then s.answerAll w fun _ => .mismatch
  else
    let vs := s.redSums w
    w.reqs.foldl (fun s r => s.noteBadAt r.loc r.addr 64) (s.answerAll w fun r => .ok (redForm r.outB vs))

/-- The members that have requested. -/
def RedWin.asked (w : RedWin) : List Nat := w.reqs.map RedReq.member ++ w.answered
def RedWin.missing (w : RedWin) : List Nat := (List.range w.members.length).filter fun m => !w.asked.contains m

/-- Every member has requested, and no retraining link holds a contribution back (R389). -/
def State.redWhole (s : State) (w : RedWin) : Bool := w.closed.isNone && w.missing.isEmpty && w.reqs.all fun r => !s.pathHeld r.loc.die w.die

/-- Put a window back, or close it when nobody is missing. -/
def State.settle (s : State) (w : RedWin) : State :=
  if s.redWhole w then s.redClose w else { s with redWins := s.redWins ++ [w] }

/-- The windows that a link held back close once it carries its paths again (R389). -/
def State.settleAll (s : State) : State :=
  (s.redWins.filter s.redWhole).foldl State.redClose { s with redWins := s.redWins.filter fun w => !s.redWhole w }

/-- A request reaches the reducing switch of a die: a record of its window answers it (R404); it joins the open window of its member 0 and
epoch; or it opens a window. -/
def State.redArrive (s : State) (g : Group) (loc : Loc) (addr : Nat) (off : W64) (inB outB : Bool) (die : Nat) : State :=
  match s.redRecord g with
  | some r => s.redReply g r die
  | none =>
    let req : RedReq := { member := g.members.idxOf (memOwn g.core), core := g.core, loc := loc, addr := addr, outB := outB }
    match s.redWins.find? fun w => w.closed.isNone && w.launch == g.launch && w.epoch == g.epoch && w.members.head? == g.members.head? with
    | some w =>
      let s1 := { s with redWins := s.redWins.erase w }
      if w.members = g.members && w.off = off && w.inB = inB then s1.settle { w with reqs := w.reqs ++ [req] }
      else (s1.redReply g .mismatch die).settle { w with mism := true, answered := w.answered ++ [w.members.idxOf (memOwn g.core)] }
    | none =>
      s.settle { launch := g.launch, members := g.members, epoch := g.epoch, die := die, opened := s.cycle, off := off, inB := inB,
                 reqs := [req], mism := false, answered := [], closed := none, left := [] }

/-- LDRED_REQUEST_ARRIVE (R400): the oldest request of a core, over a path that no retraining link holds (R389). One whose member 0 is a
peer device's leaves through a scale-out port and stays held here. DEDUCED (log 58). -/
def execLdredRequestArrive (loc : Loc) (s : State) : Host.Outcome State Fault Refusal :=
  match s.msgs.find? fun m => match m with | .redReq _ _ _ _ k _ _ _ _ _ => k == loc | _ => false with
  | some m => match m with
    | .redReq lid core members epoch at_ addr off inB outB die =>
      if memPeer (members.headD 0) ≠ 0 || s.pathHeld loc.die die then event s
      else
        let g : Group := { launch := lid, core := core, k := 0, members := members, base := 0, epoch := epoch }
        event ({ s with msgs := s.msgs.erase m }.redArrive g at_ addr off inB outB die)
    | _ => event s
  | none => event s

/-- The launch-relative core's thread has halted, in a plot resident or done. -/
def Launch.halted (l : Launch) (i : Nat) : Bool := l.exits.any fun e => e.1 = i

/-- A member is absent (R400): revoked, behind an unreachable peer slot, halted, not resident, on a drained die or a fenced core. -/
def State.redAbsent (s : State) (l : Launch) (w : W64) : Bool :=
  let t := s.tenantAt l.tenant
  if t.tstat = 2 || t.tstat = 3 then true
  else if memPeer w ≠ 0 then (t.peer (memPeer w)).unreach || !(t.peer (memPeer w)).v
  else if l.halted (memCore w) then true
  else match s.coreOfIndex l.id (memCore w) with
    | some c => c.run.isHalted || (s.dieAt c.loc.die).drained || s.mgmt.fenced.contains c.loc ||
        (match l.plots[memCore w / (l.cmd.w * l.cmd.h)]? with
          | some p => (match p.st with | .resident _ _ _ => false | _ => true)
          | none => true)
    | none => true

/-- LDRED_WINDOW_EXPIRY (R400): at 4,096 cycles the missing members are classified; the window closes ABSENT, or waits again.
DEDUCED (log 84). -/
def execLdredWindowExpiry (k : Nat) (s : State) : Host.Outcome State Fault Refusal :=
  match s.redWins[k]? with
  | some w =>
    match w.closed, s.launchAt w.launch with
    | none, some l =>
      if 4096 ≤ (s.cycle - w.opened).toNat then
        let gone := w.missing.filter fun m => s.redAbsent l (w.members.getD m 0)
        if gone.isEmpty then event { s with redWins := s.redWins.set k { w with opened := s.cycle } }
        else
          let st : RedStatus := if w.mism then .mismatch else .absent (gone.foldl (fun (v : BitVec 8) m => v ||| (1 <<< m)) 0)
          let s1 := { s with redWins := s.redWins.set k { w with closed := some st, left := w.missing, reqs := [] } }
          event (s1.answerAll w fun _ => st)
      else event s
    | _, _ => event s
  | none => event s

/-- LDRED_RESULT_ARRIVE (R389, R399): the result reaches the member, whose held LDRED returns. -/
def execLdredResultArrive (loc : Loc) (s : State) : Host.Outcome State Fault Refusal :=
  let c := s.coreAt loc
  match c.place, c.prog with
  | some p, some (.ldredSent ms e) =>
    match s.msgs.find? fun m => match m with
      | .redRes l i ns k _ d => l == p.launch && i == s.coreIndex c && ns == ms && k == e && !s.pathHeld d loc.die
      | _ => false with
    | some m => match m with
      | .redRes _ _ _ _ r _ =>
        event (if c.held then { s with msgs := s.msgs.erase m }.setCore { c with prog := some (.ldredGot ms e r) } else s)
      | _ => event s
    | none => event s
  | _, _ => event s

end Sys2Proof.Machine
end

