-- ==== Sys2Proof/Machine/Launch.lean ====
section
/-! DEFINITION. Sys2Proof/Machine/Launch.lean: the end of a thread (R24), placement, pre-emption, saves and resumptions (R160 to R165, R218,
R370 to R376), completion (R164), the supervisor's commands (R366, R367) and CTX (R383). -/

namespace Sys2Proof.Machine

/-! ## Plots -/

def State.modPlot (s : State) (lid i : Nat) (f : Plot → Plot) : State := s.modLaunch lid fun l => { l with plots := l.plots.modify i f }

/-- The rectangle a plot stands on while it loads, runs or is saved. -/
def Plot.spot (p : Plot) : Option (Nat × Nat × Nat) :=
  match p.st with
  | .loading d x y | .resident d x y | .saving d x y => some (d, x, y)
  | _ => none

def Plot.isSaved (p : Plot) : Bool := p.st == .saved
def Plot.waits (p : Plot) : Bool := p.st == .saved || p.st == .pending
/-- The cores a plot's threads stand on. -/
def State.plotCores (s : State) (lid i : Nat) : List Core :=
  s.allCores.filter fun c => match c.place with
    | some q => q.launch == lid && q.plot == i
    | none => false

/-- A core returns to being idle and fresh. -/
def State.freeCore (s : State) (l : Loc) : State :=
  if s.core.loc = l then { s with core := Core.start l 0 } else { s with cores := s.cores.filter fun c => c.loc ≠ l }

/-- A plot ends and its cores are free (R164): what its closed contracts still need of its local memory stays at the engines (R325), its
unused credits wait for the merge (R281), and it is pinned no longer (R312). DEDUCED (log 81). -/
def State.endPlot (s : State) (lid i : Nat) : State :=
  let cs := s.plotCores lid i
  let s1 := { s with engines := s.engines.map fun (e : LinkEngine) => cs.foldl LinkEngine.keepParty e }
  let s2 := cs.foldl (fun (s : State) (c : Core) => s.freeCore c.loc) s1
  (s2.modLaunch lid fun l => { l with credits := l.credits ++ cs.flatMap Core.credits }).modPlot lid i fun p =>
    { p with st := .done, threads := [], snap := [], pinned := false }

/-- A plot whose threads have all halted ends, once their signals are applied (R210). -/
def State.tryRetire (s : State) (lid i : Nat) : State :=
  let cs := s.plotCores lid i
  match s.plotAt lid i with
  | some (_, p) => if p.runs && !cs.isEmpty && cs.all fun c => c.run.isHalted && c.sigs.isEmpty then s.endPlot lid i else s
  | none => s

/-- Every plot that can end does. -/
def State.retireAll (s : State) : State :=
  s.launches.foldl (fun (s : State) (l : Launch) => (List.range l.plots.length).foldl (fun (s : State) (i : Nat) => s.tryRetire l.id i) s) s

/-! ## HALT (R24) -/

/-- What HALT waits for: earlier instructions, stores at their scopes, commands. DEDUCED (log 27). -/
def State.haltReady (s : State) (c : Core) : Bool :=
  c.pq.isEmpty && c.sb.isEmpty && c.sigs.isEmpty && c.cmds.isEmpty && s.ob.all fun b => b.owner ≠ c.owner

/-- A stash emptied, its dirty entries written back first. -/
def Core.emptyStashes (c : Core) : Core :=
  { c with linebuf := [], stashes := c.stashes.map fun (o : Option Stash) => o.map fun r => { r with entries := [] } }

/-- A core's dirty stash entries are written back to their home slices (R225). -/
def State.stashesBack (s : State) (l : Loc) : State := s.backAll (s.coreAt l).entries

/-- The thread's end, on its own core (R24, R225). -/
def State.endThread (s : State) (l : Loc) (code : BitVec 8) : State :=
  let s1 := ((s.stashesBack l).cancelOpen l 4).dissolve l
  let c := s1.coreAt l
  let s2 := s1.setCore { c.unhold.emptyStashes with run := .halted code, mon := none, trig := false, uncorrected := none }
  let s3 := if c.stage.cur.isSome && c.stage.ctr ≠ 255 then s2.endIteration l else if 1 < (s2.chainOf c).2 then s2.stageSend l else s2
  match c.place with
  | none => s3
  | some p => (s3.modLaunch p.launch fun k => { k with exits := k.exits ++ [(s.coreIndex c, code)] }).fireAll p

/-- The records a HALT posts: the exit notice, and a latched UNCORRECTED (R24, R376). DEDUCED (log 85). -/
def State.haltRecords (s : State) (c : Core) (code : BitVec 8) : State :=
  let s1 := if code = 0 then s else s.post c.tenantNo (s.threadRecord c 4 code.toNat 0 (Vector.replicate 4 0))
  match c.uncorrected with
  | some (src, addr, i3) => s1.post c.tenantNo (s1.threadRecord c 1 0x15 0 #v[w64 src, 0, addr, i3])
  | none => s1

/-- HALT. -/
def execHalt (code : BitVec 6) (c : Ctl) (s : State) : Host.Outcome State Fault Refusal :=
  run c s fun s =>
    let s := s.dropFences s.core.loc
    if !s.haltReady s.core then .hold s
    else
      let k := s.core
      let s1 := (s.endThread k.loc (code.setWidth 8)).haltRecords k (code.setWidth 8)
      let s2 := match k.place with
        | some p => s1.tryRetire p.launch p.plot
        | none => s1
      .goto s2 s2.core.pc

/-! ## Pending work (R161) -/

structure Item where
  lid : Nat
  plots : List Nat
  age : BitVec 64
  prio : Nat
  tenant : Nat
  queue : Nat
deriving DecidableEq, Repr

def Launch.item (l : Launch) (ps : List Nat) (age : BitVec 64) : Item :=
  { lid := l.id, plots := ps, age := age, prio := l.cmd.prio, tenant := l.tenant, queue := l.queue }

/-- The pending items of a launch: its waiting plots each, or a co-resident launch whole; what a supervisor's SAVE holds is none. -/
def Launch.items (l : Launch) : List Item :=
  let live := (List.range l.plots.length).filter fun i => l.plots[i]?.any fun p => p.st != .done
  if l.ending then []
  else if l.cmd.cores then
    (if !live.isEmpty && live.all (fun i => l.plots[i]?.any fun p => p.waits && !p.hold) then
      [l.item live ((live.head?.bind fun i => l.plots[i]?.map Plot.age).getD 0)] else [])
  else live.filterMap fun i => match l.plots[i]? with
    | some p => if p.waits && !p.hold then some (l.item [i] p.age) else none
    | none => none

def State.items (s : State) : List Item := s.launches.flatMap Launch.items

/-- Effective priority (R161). -/
def State.effective (s : State) (it : Item) : Nat := Nat.min (it.prio + (s.cycle - it.age).toNat / cyclesPerMs) 15

/-- The rank of R161: effective priority, age, tenant, queue; then launch and plot index. -/
def State.ranksAbove (s : State) (a b : Item) : Bool :=
  let ea := s.effective a
  let eb := s.effective b
  if ea ≠ eb then eb < ea
  else if a.age ≠ b.age then a.age.ult b.age
  else if a.tenant ≠ b.tenant then a.tenant < b.tenant
  else if a.queue ≠ b.queue then a.queue < b.queue
  else if a.lid ≠ b.lid then a.lid < b.lid
  else a.plots.headD 0 < b.plots.headD 0

def State.insertItem (s : State) (a : Item) : List Item → List Item
  | [] => [a]
  | b :: r => if s.ranksAbove a b then a :: b :: r else b :: State.insertItem s a r

def State.ranked (s : State) : List Item := s.items.foldl (fun acc it => s.insertItem it acc) []

/-! ## Pinned plots (R131, R312) -/

/-- A held core of the launch outside a rectangle waits on a detached port that faces it. -/
def State.heldToward (s : State) (l : Launch) (d ox oy : Nat) : Bool :=
  (s.coresOf l.id).any fun c => c.held && !inRect d ox oy l.cmd.w l.cmd.h c.loc &&
    (match decode c.loc.kind c.ir.head c.ir.tail with
      | .ok i => (linkPorts i).any fun dir => s.portSide c dir == .detached &&
          (neighbour c.loc dir).any fun n => inRect d ox oy l.cmd.w l.cmd.h n
      | .error _ => false)

/-- A contract of a plot's threads is open across its boundary. -/
def State.crosses (s : State) (l : Launch) (i d ox oy : Nat) : Bool :=
  (rectCores d ox oy l.cmd.w l.cmd.h).any fun at_ =>
    (s.threadOf { launch := l.id, plot := i, px := at_.x - ox, py := at_.y - oy }).any fun t => dirs.any fun dir =>
      (neighbour at_ dir).any fun n => !inRect d ox oy l.cmd.w l.cmd.h n &&
        1 ≤ contractState s { t with loc := at_ } dir && contractState s { t with loc := at_ } dir ≤ 4

/-- A word that a thread of a plot pushed to another plot has not been popped. -/
def State.wordsAway (s : State) (l : Launch) (i : Nat) : Bool :=
  (s.threads l.id).any fun u => (u.place.all fun q => q.plot != i) &&
    dirs.any fun d => (u.fifoOf d).any fun w => w.pusher.any fun p => p.launch == l.id && p.plot == i

/-- A plot is pinned. -/
def State.isPinned (s : State) (l : Launch) (i : Nat) (p : Plot) : Bool :=
  match p.home with
  | none => false
  | some (d, ox, oy) => p.pinned || s.crosses l i d ox oy || s.wordsAway l i || s.heldToward l d ox oy

/-! ## Room (R118, R162, R371, R423) -/

structure Rect where
  d : Nat
  x : Nat
  y : Nat
  w : Nat
  h : Nat
  lid : Nat
  plot : Nat
deriving DecidableEq, Repr

def Rect.meets (a b : Rect) : Bool :=
  a.d == b.d && decide (a.x < b.x + b.w) && decide (b.x < a.x + a.w) && decide (a.y < b.y + b.h) && decide (b.y < a.y + a.h)

def Launch.rect (l : Launch) (i : Nat) (o : Nat × Nat × Nat) : Rect :=
  { d := o.1, x := o.2.1, y := o.2.2, w := l.cmd.w, h := l.cmd.h, lid := l.id, plot := i }

/-- The rectangles of plots that stand somewhere. -/
def State.busyRects (s : State) : List Rect :=
  s.launches.flatMap fun l => (List.range l.plots.length).filterMap fun i => match l.plots[i]? with
    | some p => p.spot.map (l.rect i)
    | none => none

/-- The rectangles reserved for pinned plots that are not resident: saved, or with a load abandoned (R165). -/
def State.reservedRects (s : State) : List Rect :=
  s.launches.flatMap fun l => (List.range l.plots.length).filterMap fun i => match l.plots[i]? with
    | some p => if p.waits && s.isPinned l i p then p.home.map (l.rect i) else none
    | none => none

/-- The tenant's reservations in the context area of a die (R371), an item's plots left out. -/
def State.ctxUsed (s : State) (t d lid : Nat) (item : List Nat) : Nat :=
  (s.launches.map fun l => if l.tenant ≠ t then 0 else
    ((List.range l.plots.length).map fun j => match l.plots[j]? with
      | some p => if p.st != .done && !(l.id == lid && item.contains j) && (p.home.any fun o => o.1 = d) then l.imageSize else 0
      | none => 0).sum).sum

/-- The context area of a die has room for one more plot of an item, of which `planned` are to stand there. -/
def State.ctxRoom (s : State) (l : Launch) (d : Nat) (item : List Nat) (planned : Nat) : Bool :=
  decide (s.ctxUsed l.tenant d l.id item + (planned + 1) * l.imageSize ≤ (s.tenantAt l.tenant).ctxMib * 2 ^ 20)

/-- A rectangle is free for a plot: on a granted, usable die, no core that is fenced or is to be (R425), nothing standing on it but what
`ignore` picks, not reserved for another plot, not among those `taken` for the item's other plots. -/
def State.rectFree (s : State) (r : Rect) (taken : List Rect) (ignore : Rect → Bool) : Bool :=
  !(s.dieAt r.d).drained && s.rectClean r.d r.x r.y r.w r.h && (s.mgmt.fencing.all fun l => !inRect r.d r.x r.y r.w r.h l) && (s.busyRects.all fun b => !r.meets b || ignore b) &&
    (s.reservedRects.all fun b => !r.meets b || (b.lid == r.lid && b.plot == r.plot)) && taken.all fun b => !r.meets b

/-- The places tried for a plot, in the order of R162; a co-resident launch that was pre-empted returns to its own cores. -/
def State.places (s : State) (l : Launch) (i : Nat) : List Rect :=
  match l.plots[i]? with
  | none => []
  | some p =>
    if (p.isSaved && l.cmd.cores) || (p.waits && s.isPinned l i p) then p.home.toList.map (l.rect i)
    else (s.tenantAt l.tenant).dieList.flatMap fun d => (origins l.cmd.w l.cmd.h).map fun o => l.rect i (d, o.1, o.2)

/-- The search of R162 for the plots of an item: a rectangle for each, or none; `done_` are those it has found. -/
def State.search (s : State) (l : Launch) (item : List Nat) (done_ : List Rect) (ignore : Rect → Bool) : List Nat → Option (List Rect)
  | [] => some []
  | i :: r =>
    match (s.places l i).find? fun q => s.rectFree q done_ ignore &&
        s.ctxRoom l q.d item (done_.filter fun b => b.d = q.d).length with
    | none => none
    | some q => (State.search s l item (q :: done_) ignore r).map (q :: ·)

/-! ## Placing and starting (R160, R375) -/

/-- The closed contracts between two threads of one plot that wait unmatched at the engines go with the plot to its new cores, where they
continue (R315). DESIGN CHOICE (log 88). -/
def State.moveOpens (s : State) (r : Rect) : State :=
  match (s.plotAt r.lid r.plot).bind fun q => q.2.home with
  | some (d, ox, oy) =>
    if d = r.d && ox = r.x && oy = r.y then s
    else
      let inner := fun (o : Open) => o.party.launch == r.lid && o.party.plot == r.plot &&
        o.partner.any fun p => p.launch == r.lid && p.plot == r.plot
      let left : State := { s with engines := s.engines.map fun (e : LinkEngine) =>
        { e with w := e.w.filter fun o => !inner o, e := e.e.filter fun o => !inner o } }
      s.engines.foldl (fun (t : State) (e : LinkEngine) =>
        if e.w.any inner || e.e.any inner then
          let to_ := t.engineAt { e.ref with die := r.d, x := e.ref.x + r.x - ox, y := e.ref.y + r.y - oy } e.horiz
          t.setEngine { to_ with w := to_.w ++ e.w.filter inner, e := to_.e ++ e.e.filter inner }
        else t) left
  | none => s

/-- A plot begins to load onto a rectangle; contracts of its own that came with it meet its new engines (R302). -/
def State.startLoad (s : State) (r : Rect) : State :=
  ((s.moveOpens r).modPlot r.lid r.plot fun p => { p with st := .loading r.d r.x r.y, home := some (r.d, r.x, r.y) }).matchAll

/-- The startup registers (R160). -/
def Launch.startX (l : Launch) (i idx : Nat) : Vector W64 32 :=
  Vector.ofFn fun (r : Fin 32) => match r.val with
    | 1 => l.cmd.arg
    | 2 => w64 i
    | 3 => w64 idx
    | 4 => w64 l.count
    | n => if 8 ≤ n && n ≤ 15 then l.bound[n - 8]?.getD 0 else 0

/-- A new thread (R14, R16, R160): its seed is that of R78. -/
def Launch.freshThread (l : Launch) (t i px py : Nat) (at_ : Loc) (now : BitVec 64) : Core :=
  let idx := i * l.area + py * l.cmd.w + px
  let seed : W32 := 0x2545F491 ^^^ BitVec.ofNat 32 idx
  let k := Core.start at_ (BitVec.ofNat 6 t)
  { k with
    run := .running, place := some { launch := l.id, plot := i, px := px, py := py }, codeBase := l.cmd.codeBase,
    codeLimit := l.cmd.codeLimit, pc := l.cmd.entry, x := l.startX i idx, lmem := ({ cells := [] } : Memory).writeN 0 l.image,
    rings := Vector.ofFn fun (h : Fin 8) => l.table.rings[h.val]?.getD Ring.start,
    wins := Vector.ofFn fun (w : Fin 16) => l.table.wins[w.val]?.getD Window.start,
    sys := { k.sys with seed := seed.setWidth 64 }, fenceAt := now }

/-- The groups of a resource table that list a core (R397). -/
def State.tableGroups (s : State) (l : Launch) (idx : Nat) : State :=
  (List.range 8).foldl (fun (s : State) (k : Nat) =>
    let ms := l.table.groups.getD k []
    if ms.contains idx then
      s.setGroup { launch := l.id, core := idx, k := k, members := ms.map memOwn, base := 0, epoch := 0 } else s) s

/-- A saved thread on its core again (R375): a stalled one executes its instruction again; CECNT counts from here (R379), and code is fetched
as of now (R267). DESIGN CHOICE (log 122). -/
def Launch.resumedThread (l : Launch) (c : Core) (at_ : Loc) (now : BitVec 64) : Core :=
  { c with loc := at_, run := (if c.run = .stalled then .running else c.run), lmem := c.lmem.clear l.cmd.localUse 0x30000, tlb := [],
           walk := none, held := false, yielded := false, diverted := false, slowUntil := 0, kept := none, captures := [],
           fenceAt := now, fencePos := c.pos, sys := { c.sys with cecnt := 0 } }

/-- The threads of a plot begin, all in one cycle; a barrier whose arrivals an edited image has made complete fires (R134, R366). -/
def State.beginPlot (s : State) (l : Launch) (i : Nat) (p : Plot) : State :=
  match p.st with
  | .loading d ox oy =>
    let s1 := (List.range l.area).foldl (fun (s : State) (k : Nat) =>
      let px := k % l.cmd.w
      let py := k / l.cmd.w
      let at_ : Loc := { kind := .compute, die := d, x := ox + px, y := oy + py }
      match p.threads[k]? with
      | some c => s.setCore (l.resumedThread c at_ s.cycle)
      | none => State.tableGroups (s.setCore (l.freshThread l.tenant i px py at_ s.cycle)) l (i * l.area + k)) s
    (s1.modPlot l.id i fun p => { p with st := .resident d ox oy, sliceStart := s.cycle, threads := [], snap := [] }).fireAll
      { launch := l.id, plot := i, px := 0, py := 0 }
  | _ => s

/-- PLOT_LOAD_COMPLETE (R160, R375): a co-resident launch's plots begin together. -/
def execPlotLoadComplete (lid i : Nat) (s : State) : Host.Outcome State Fault Refusal :=
  match s.plotAt lid i with
  | some (l, p) =>
    if l.cmd.cores then
      event ((List.range l.plots.length).foldl (fun (s : State) (j : Nat) => match l.plots[j]? with
        | some q => s.beginPlot l j q
        | none => s) s)
    else event (s.beginPlot l i p)
  | none => event s

/-! ## Pre-emption (R163, R165, R270, R370 to R372) -/

/-- The RESTART of the first contract a party has opened and not closed, in the order west, north, east, south. DESIGN CHOICE (log 113). -/
def Core.openRestart (c : Core) : Option W64 :=
  dirs.findSome? fun d => if (c.port d).live then some (c.port d).restart else none

/-- The ports whose contracts a save cancels go back to word mode: the party resumes at RESTART and is not diverted again (R316). -/
def Core.withdrawLive (k c0 : Core) : Core :=
  dirs.foldl (fun (k : Core) (d : Dir) =>
    if (c0.port d).live then k.setPort d
      { (k.port d).withdrawn with divert := if (k.port d).mark = (k.port d).seq then none else (k.port d).divert, reason := 6 } else k) k

/-- The event waiter slot of a thread that stops waiting is released (R372). -/
def State.unwait (s : State) (c : Core) : State :=
  match c.prog with
  | some (.evtWaiting e _) => s.enrol c.tenantNo e
  | _ => s

/-- Steps 1 and 2 of a save for one thread, which was `c0` when the save began (R372): what it holds is dropped, its open contracts are
cancelled with reason 1 and it is to resume at RESTART (R316), its gang dissolves, an unanswered LDRED is withdrawn (R402). -/
def State.stopThread (s : State) (c0 : Core) : State :=
  let l := c0.loc
  let c := s.coreAt l
  if c.run.isHalted then s
  else
    let s1 := (s.keepAnswer c).withdrawRed c.placeOr.launch (s.coreIndex c)
    (((s1.cancelOpen l 1).dissolve l).modCore l fun k =>
      let k1 := ((s.synced k).withdrawLive c0).unhold
      match c0.openRestart with
      | some r =>
        let y : SysRegs := { k1.sys with lpc := k1.pc &&& ~~~1, repstate := k1.sys.repstate &&& 0x7FFFFFFFFFFFFFFF#64 }
        { k1 with pc := r, diverted := true, inRep := false, sys := y }
      | none => k1).unwait c

/-- A save begins: issue stops. -/
def State.beginSave (s : State) (lid i : Nat) (hold : Bool) : State :=
  match s.plotAt lid i with
  | some (_, p) =>
    match p.st with
    | .resident d x y =>
      ((s.plotCores lid i).foldl (fun (s : State) (c : Core) => s.stopThread c) s).modPlot lid i fun p =>
        { p with st := .saving d x y, hold := p.hold || hold }
    | _ => s
  | none => s

/-- Pre-empt one plot: a load is abandoned (R165), a running plot is saved. -/
def State.preemptOne (s : State) (lid i : Nat) (hold : Bool) : State :=
  match s.plotAt lid i with
  | some (_, p) =>
    match p.st with
    | .loading _ _ _ => s.modPlot lid i fun p => { p with st := if p.threads.isEmpty then .pending else .saved, hold := p.hold || hold }
    | .resident _ _ _ => s.beginSave lid i hold
    | _ => s.modPlot lid i fun p => { p with hold := p.hold || hold }
  | none => s

/-- Pre-empt a plot, or the whole of its co-resident launch (R141); its launch stands at no merge point then, and a pass that its slice cores
were about to run is over. -/
def State.preempt (s : State) (lid i : Nat) (hold : Bool) : State :=
  let s := s.endPass lid
  match s.launchAt lid with
  | some l =>
    if l.cmd.cores then
      (List.range l.plots.length).foldl (fun (s : State) (j : Nat) =>
        if l.plots[j]?.any fun p => p.st != .done then s.preemptOne lid j hold else s) s
    else s.preemptOne lid i hold
  | none => s

/-- A message to a thread is on its way, or channel elements that it sent. -/
def Msg.concerns (m : Msg) (p : Place) (idx : Nat) : Bool :=
  match m with
  | .chanData l i _ src _ _ _ => l == p.launch && (i == idx || src == idx)
  | .ringPtr l i _ _ _ => l == p.launch && i == idx
  | .firing q _ _ _ => q.launch == p.launch && q.plot == p.plot
  | _ => false

/-- An engine delivers to a thread. -/
def LinkEngine.deliversTo (e : LinkEngine) (p : Place) : Bool :=
  (e.run.any fun r => r.phase != .stepping && r.third == p) || e.pending.any fun r => r.third == p

/-- An engine write targets a core of a launch. -/
def EqWrite.targets (w : EqWrite) (idx : Nat) : Bool :=
  match w with
  | .remote i _ _ _ => i == idx
  | _ => false

/-- Nothing of a thread is in flight that a save waits for (R372 steps 3 and 4). DEDUCED (log 88). -/
def State.threadQuiet (s : State) (c : Core) : Bool :=
  let p := c.placeOr
  let idx := s.coreIndex c
  c.loadsDone c.pos && c.sb.isEmpty && c.sigs.isEmpty && (c.cmds.all fun m => m.paused) &&
  (s.dies.toList.all fun d => d.db.all fun b => b.owner ≠ c.owner) &&
  (dirs.all fun d => (c.fifoOf d).all FifoWord.landed) &&
  (s.engines.all fun e => !e.deliversTo p) &&
  (s.msgs.all fun m => !m.concerns p idx) &&
  c.stage.msgs.isEmpty && c.stage.ends == 0 &&
  (s.coresOf p.launch).all fun o => o.loc == c.loc || o.cmds.all fun m => m.eq.all fun w => !w.targets idx

/-- A stopped engine command is issued again from its beginning (R330). -/
def Cmd.again (m : Cmd) : Cmd :=
  { m with started := false, idx := 0, kept := 0, buf := none, src := [], dst := [], key := none, made := 0, req := [], wreq := [], eq := [],
           done := false, paused := false }

/-- A thread as its image keeps it (R372 step 4); the fences that its undelivered host-aperture stores keep in force stay (R258). -/
def Core.saved (c : Core) : Core :=
  { c.emptyStashes with mon := none, trig := false, credits := [], tlb := [], cmds := c.cmds.map Cmd.again, yielded := false,
                        kept := none, captures := [], barred := [] }

/-- The image of a held plot, edited or not, if one has been shown since its save. -/
def Tenant.imageAt (n : Tenant) (lid i : Nat) : Option (List Byte) := (n.images.find? fun e => e.1 == some (lid, i)).map Prod.snd

/-- The image shown in BAR4 is that of the plot most recently held by SAVE (R409); what the supervisor has edited in an image stays edited
while others are shown. DEDUCED (log 87). -/
def State.showImage (s : State) (l : Launch) (i : Nat) : State :=
  match s.plotAt l.id i with
  | some (k, p) =>
    let pin := s.isPinned k i p
    let img := match (s.tenantAt l.tenant).imageAt l.id i with
      | some old => p.imageOver k i pin old
      | none => plotImage k i p pin
    (s.modTenant l.tenant fun n => { n with images := (some (l.id, i), img) :: n.images.filter fun e => e.1.any (· != (l.id, i)) }).modPlot l.id i
      fun p => { p with snap := p.threads }
  | none => s

/-- A plot is held no longer: its image stays in BAR4, where it is no plot's any more. -/
def State.letGo (s : State) (l : Launch) (i : Nat) : State :=
  (s.modTenant l.tenant fun n => { n with images := n.images.map fun e => if e.1 == some (l.id, i) then (none, e.2) else e }).modPlot l.id i
    fun p => { p with hold := false }

/-- A plot that is let go resumes from its image as it now stands (R366). -/
def State.takeImage (s : State) (l : Launch) (i : Nat) : State :=
  match (s.tenantAt l.tenant).imageAt l.id i with
  | some img => (s.modPlot l.id i fun p => if p.isSaved then p.overlay l img else p).letGo l i
  | none => s.letGo l i

/-- SUPCMD's BUSY clears (R410, R411 vector 5). -/
def State.supDone (s : State) (t : Nat) : State :=
  if (s.tenantAt t).supcmd.getLsbD 63 then (s.modTenant t fun n => { n with supcmd := n.supcmd &&& 0x7FFFFFFFFFFFFFFF#64 }).irqVf t 5 else s

/-- A core found faulty is fenced once it is free (R118, R425). -/
def State.fenceFree (s : State) : State :=
  let ready := s.mgmt.fencing.filter fun l => (s.coreAt l).place.isNone
  if ready.isEmpty then s
  else State.irqPf { s with mgmt := { s.mgmt with fencing := s.mgmt.fencing.filter fun l => !ready.contains l, fenced := s.mgmt.fenced ++ ready } } 3

/-- The SAVE that a tenant's supervisor waits for names a thread of this plot (R366, R410). -/
def State.saveNames (s : State) (l : Launch) (i : Nat) : Bool :=
  let w := (s.tenantAt l.tenant).supcmd
  w.getLsbD 63 && bitsOf w 3 0 == 2 && bitsOf w 60 29 == l.number.toNat && bitsOf w 28 4 / l.area == i

/-- The save of a plot whose threads are quiet; the cycle of the save is its age. The image shown is that of the plot whose thread the SAVE
named. DEDUCED (log 101). -/
def State.finishSave (s : State) (l : Launch) (i : Nat) : State :=
  let cs := s.plotCores l.id i
  let named := s.saveNames l i
  if l.ending || cs.all fun c => c.run.isHalted then
    let s1 := s.endPlot l.id i
    if named then s1.supDone l.tenant else s1
  else
    let s1 := cs.foldl (fun (s : State) (c : Core) => (s.stashesBack c.loc).returnCredits c.loc) s
    let ts := (List.range l.area).map fun k =>
      ((s1.coreAtPlace l.id i (k % l.cmd.w) (k / l.cmd.w)).getD (Core.start { kind := .compute, die := 0, x := 0, y := 0 } 0)).saved
    let s2 := cs.foldl (fun (s : State) (c : Core) => s.freeCore c.loc) s1
    let s3 := s2.modPlot l.id i fun p => { p with st := .saved, age := s.cycle, threads := ts, snap := ts }
    if named then (s3.showImage l i).supDone l.tenant else s3

/-- The plots of a launch that are being saved. -/
def Launch.savingPlots (l : Launch) : List Nat :=
  (List.range l.plots.length).filter fun i => (l.plots[i]?).any fun p => match p.st with
    | .saving _ _ _ => true
    | _ => false

/-- PLOT_SAVE_COMPLETE (R372): the cores of a plot, or of a co-resident launch, finish together. -/
def execPlotSaveComplete (lid i : Nat) (s : State) : Host.Outcome State Fault Refusal :=
  match s.launchAt lid with
  | some l =>
    let ps := l.savingPlots.filter fun j => l.cmd.cores || j = i
    event (if !ps.isEmpty && ps.all fun j => (s.plotCores lid j).all s.threadQuiet then
      (ps.foldl (fun (s : State) (j : Nat) => s.finishSave l j) s).fenceFree else s)
  | none => event s

/-! ## The scheduler's pass (R162, R163) -/

/-- Place an item where the search finds room. -/
def State.tryPlace (s : State) (it : Item) : Option State :=
  match s.launchAt it.lid with
  | none => none
  | some l => (s.search l it.plots [] (fun _ => false) it.plots).map fun rs => rs.foldl State.startLoad s

/-- The plot of a rectangle may make way for an item of effective priority `e`: it is being saved, or it runs unpinned below `e`. A plot of
a co-resident launch makes way only where no live plot of its launch is pinned. DESIGN CHOICE (log 102). -/
def State.yields (s : State) (e : Nat) (b : Rect) : Bool :=
  match s.plotAt b.lid b.plot with
  | some (l, p) =>
    (match p.st with | .saving _ _ _ => true | _ => decide (l.cmd.prio < e)) &&
      (if l.cmd.cores then (List.range l.plots.length).all fun j => (l.plots[j]?).all fun q => q.st == .done || !s.isPinned l j q
       else !s.isPinned l b.plot p)
  | none => false

/-- R163: the plots on the first rectangles that would fit are pre-empted. DESIGN CHOICE (log 68). -/
def State.bump (s : State) (it : Item) : State :=
  match s.launchAt it.lid with
  | none => s
  | some l => match s.search l it.plots [] (s.yields (s.effective it)) it.plots with
    | some rs => (s.busyRects.filter fun b => rs.any fun r => r.meets b).foldl (fun (s : State) (b : Rect) => s.preempt b.lid b.plot false) s
    | none => s

/-- Steps 2 and 3 of a pass. DESIGN CHOICE (log 68). -/
def passGo : List Item → State → State
  | [], s => s
  | it :: r, s =>
    match s.tryPlace it with
    | some s1 => passGo r s1
    | none =>
      let s1 := s.bump it
      match s1.tryPlace it with
      | some s2 => passGo r s2
      | none => if cyclesPerMs ≤ (s.cycle - it.age).toNat then s1 else passGo r s1

/-- An item holds a pinned plot. -/
def State.itemPinned (s : State) (it : Item) : Bool :=
  match s.launchAt it.lid with
  | some l => it.plots.any fun i => l.plots[i]?.any fun p => p.waits && s.isPinned l i p
  | none => false

/-- SCHEDULER_PASS (R162): the pinned plots first, on their own cores; then all pending work in its rank. -/
def execSchedulerPass (s : State) : Host.Outcome State Fault Refusal :=
  let s0 := s.retireAll
  let s1 := (s0.ranked.filter s0.itemPinned).foldl (fun (s : State) (it : Item) => (s.tryPlace it).getD s) s0
  event (passGo s1.ranked s1)

/-! ## Time slices (R164, R218) -/

/-- Some pending item of at least a plot's priority could use its die. -/
def State.wanted (s : State) (l : Launch) (d : Nat) : Bool :=
  s.items.any fun it => decide (l.cmd.prio ≤ s.effective it) && (s.tenantAt it.tenant).dies.getLsbD d

/-- A slice ends: the plot, or its co-resident launch, is pre-empted or runs on into a new slice. -/
def State.sliceEnd (s : State) (lid i : Nat) : State :=
  match s.plotAt lid i with
  | some (l, p) =>
    match p.st with
    | .resident d _ _ =>
      if s.wanted l d then s.preempt lid i false
      else (s.modPlot lid i fun p => { p with sliceStart := s.cycle }).mapCores fun c =>
        if (c.place.any fun q => q.launch = lid && q.plot = i) then { c with yielded := false } else c
    | _ => s
  | none => s

/-- TIME_SLICE_EXPIRY (R164). -/
def execTimeSliceExpiry (lid i : Nat) (s : State) : Host.Outcome State Fault Refusal :=
  match s.plotAt lid i with
  | some (l, p) =>
    if p.runs && decide ((s.tenantAt l.tenant).sliceUs * 1200 ≤ (s.cycle - p.sliceStart).toNat) then event ((s.tryRetire lid i).sliceEnd lid i)
    else event s
  | none => event s

/-- Every thread that has not halted has yielded, in the plot or in the co-resident launch. -/
def State.allYielded (s : State) (l : Launch) (i : Nat) : Bool :=
  let cs := if l.cmd.cores then s.coresOf l.id else s.plotCores l.id i
  cs.all fun c => c.run.isHalted || c.yielded

/-- YIELD (R218): the thread goes on at the next instruction; the slice may end. -/
def execYield (c : Ctl) (s : State) : Host.Outcome State Fault Refusal :=
  run c s fun s =>
    let s1 := (s.onCore fun k => { k with yielded := true }).advance
    match s.core.place with
    | none => .goto s1 s1.core.pc
    | some p =>
      let l := s.launchOf s.core
      let s2 := if s1.allYielded l p.plot then
          (if l.cmd.cores then (List.range l.plots.length).foldl (fun (s : State) (j : Nat) => s.sliceEnd p.launch j) s1
           else s1.sliceEnd p.launch p.plot) else s1
      .goto s2 s2.core.pc

/-! ## Completion (R164, R367) -/

/-- The exit record's bytes (R164), where their addresses can be written. DESIGN CHOICE (log 60). -/
def State.writeExits (s : State) (l : Launch) : State :=
  if l.cmd.exitAddr = 0 then s
  else l.exits.foldl (fun (s : State) (e : Nat × BitVec 8) => match s.devWrite l.tenant (l.cmd.exitAddr.toNat + e.1) [e.2] with
    | .ok t => t
    | .fault _ _ _ | .wait => s) s

/-- A byte of the exit record is held (R246, R408), or its walk waits for a walker (R244). -/
def State.exitsHeld (s : State) (l : Launch) : Bool :=
  l.cmd.exitAddr != 0 && l.exits.any fun e => match s.devWrite l.tenant (l.cmd.exitAddr.toNat + e.1) [e.2] with
    | .wait => true
    | .ok _ | .fault _ _ _ => false

/-- Everything a launch holds goes: groups, windows, handler registrations, contracts, messages (R16, R348, R397, R404); an engine that held one
of its contracts may match the next (R302). -/
def State.dropLaunch (s : State) (lid : Nat) : State :=
  State.matchAll { s with
    launches := s.launches.filter fun l => l.id ≠ lid
    groups := s.groups.filter fun g => g.launch ≠ lid
    redWins := s.redWins.filter fun w => w.launch ≠ lid
    slices := s.slices.map fun (q : Nat × Slice) => (q.1, { q.2 with
      regs := q.2.regs.filter fun r => r.launch ≠ lid
      pass := q.2.pass.filter (· ≠ lid) })
    engines := s.engines.map fun (e : LinkEngine) => e.dropLaunch lid
    msgs := s.msgs.filter fun m => match m with
      | .redReq l _ _ _ _ _ _ _ _ _ | .redRes l _ _ _ _ _ | .chanData l _ _ _ _ _ _ | .ringPtr l _ _ _ _ => l != lid
      | .firing p _ _ _ => p.launch != lid }

/-- The launch's threads have ended and their stores are performed at `.dev`. -/
def State.launchEnded (s : State) (l : Launch) : Bool :=
  (l.plots.all fun p => p.st == .done) && s.dies.toList.all fun d => d.db.all fun b => !b.owner.ofLaunch l.id

/-- LAUNCH_COMPLETE (R164): exit record, merge done, signal. -/
def execLaunchComplete (lid : Nat) (s : State) : Host.Outcome State Fault Refusal :=
  let s0 := s.retireAll
  match s0.launchAt lid with
  | some l =>
    if !l.ending && s0.launchEnded l && (s0.logOf lid).isEmpty && l.credits.isEmpty && !s0.exitsHeld l then
      let s1 := (s0.writeExits l).dropLaunch lid
      let s2 := if l.cmd.sigen then s1.addEvent l.tenant l.cmd.sname.toNat l.cmd.samt else s1
      event (s2.irqVf l.tenant 2)
    else event s0
  | none => event s0

/-- TERMINATION_COMPLETE (R367). -/
def execTerminationComplete (lid : Nat) (s : State) : Host.Outcome State Fault Refusal :=
  let s0 := s.retireAll
  match s0.launchAt lid with
  | some l =>
    if l.ending && s0.launchEnded l && !s0.exitsHeld l then
      let s1 := (s0.writeExits l).dropLaunch lid
      event ((s1.post l.tenant { Record.plain 7 0 with launch := l.number }).irqVf l.tenant 2)
    else event s0
  | none => event s0

/-! ## The supervisor (R366, R367, R410) -/

/-- The launch a supervisor names. -/
def State.launchNumbered (s : State) (t n : Nat) : Option Launch := s.launches.find? fun l => l.tenant = t && l.number.toNat = n && !l.ending

/-- The tenant's registers take writes (R416 step 6). -/
def Tenant.writable (t : Tenant) : Bool := t.tstat != 3

/-- SUPCMD as written. -/
def supWord (busy : Bool) (launch core cmd : Nat) : W64 :=
  w64 (flag busy * 2 ^ 63 + launch % 2 ^ 32 * 2 ^ 29 + core % 2 ^ 25 * 2 ^ 4 + cmd)

/-- A write of SUPCMD, ignored while BUSY; `f` is the command's effect, `busy` that it takes time. -/
def State.supWrite (s : State) (t launch core cmd : Nat) (f : State → State × Bool) : State :=
  if (s.tenantAt t).supcmd.getLsbD 63 || !(s.tenantAt t).writable then s
  else
    let s1 := s.modTenant t fun n => { n with supcmd := supWord true launch core cmd }
    let (s2, busy) := f s1
    if busy then s2 else s2.supDone t

/-- A thread that a RESUME lets go on: a stalled one executes its instruction again; a stopped one continues at `addr`, or at XPC. -/
def Core.resume (c : Core) (addr : W64) : Core :=
  match c.run with
  | .stalled => { c with run := .running, sys := { c.sys with intrap := false } }
  | .stopped =>
    let y : SysRegs := { c.sys with intrap := false, repstate := if addr = 0 then c.sys.repstate else c.sys.repstate &&& 0x7FFFFFFFFFFFFFFF#64 }
    { c with run := .running, pc := if addr = 0 then c.sys.xpc else addr, sys := y, inRep := y.repstate.getLsbD 63 }
  | _ => c

/-- A live thread: begun and not halted. -/
def Launch.liveThread (l : Launch) (core : Nat) : Bool :=
  !(l.halted core) && (match l.plots[core / l.area]? with
    | some p => !p.threads.isEmpty || p.runs || (match p.st with | .saving _ _ _ => true | _ => false)
    | none => false)

/-- RESUME of a live thread: a saved plot, or the whole of a saved co-resident launch, returns to pending, edited as its images now stand. -/
def State.resumeThread (s : State) (t : Nat) (l : Launch) (core : Nat) : State :=
  let addr := (s.tenantAt t).supaddr
  let i := core / l.area
  let s1 := (List.range l.plots.length).foldl (fun (s : State) (j : Nat) =>
    if l.cmd.cores || j = i then s.takeImage l j else s) s
  match s1.plotAt l.id i with
  | some (_, p) =>
    if p.isSaved then s1.modPlot l.id i fun p => { p with threads := p.threads.modify (core % l.area) fun c => c.resume addr }
    else match s1.coreOfIndex l.id core with
      | some c => s1.setCore (c.resume addr)
      | none => s1
  | none => s1

/-- SUPCMD_RESUME (R366). -/
def execSupcmdResume (t launch core : Nat) (s : State) : Host.Outcome State Fault Refusal :=
  event (s.supWrite t launch core 1 fun s => match s.launchNumbered t launch with
    | some l => (if l.liveThread core then s.resumeThread t l core else s, false)
    | none => (s, false))

/-- SUPCMD_SAVE (R366). -/
def execSupcmdSave (t launch core : Nat) (s : State) : Host.Outcome State Fault Refusal :=
  event (s.supWrite t launch core 2 fun s => match s.launchNumbered t launch with
    | some l =>
      if l.liveThread core then
        let s1 := s.preempt l.id (core / l.area) true
        match s1.plotAt l.id (core / l.area) with
        | some (_, p) => if p.isSaved then (s1.showImage l (core / l.area), false) else (s1, true)
        | none => (s1, false)
      else (s, false)
    | none => (s, false))

/-- A thread ended by TERMINATE (R367): its stores not yet left and its commands are dropped; the credits its LOG entries used return. -/
def State.kill (s : State) (l : Loc) : State :=
  let c := s.coreAt l
  if c.run.isHalted then s
  else
    let s1 := c.sb.foldl (fun (s : State) (t : PStore) => if t.log.isSome then s.ungrant c.tenantNo t.slice 1 else s) s
    (((s1.setCore { c.unhold with sb := [], cmds := [], pq := [], sigs := [] }).withdrawRed c.placeOr.launch (s.coreIndex c)).unwait c).endThread
      l 0xFF

/-- Codes for the threads that have none. -/
def Launch.fillExits (l : Launch) : Launch :=
  { l with exits := l.exits ++ ((List.range l.cores).filter fun i => !l.halted i).map fun i => (i, 0xFF) }

/-- End a launch at once: TERMINATE, and a revocation (R370). -/
def State.endLaunch (s : State) (l : Launch) : State :=
  let s1 := (s.coresOf l.id).foldl (fun (s : State) (c : Core) => s.kill c.loc) s
  let s2 := { s1 with slices := s1.slices.map fun (q : Nat × Slice) => (q.1, { q.2 with log := q.2.log.filter fun e => e.launch ≠ l.id }) }
  let s3 := (s2.coresOf l.id).foldl (fun (s : State) (c : Core) => s.returnCredits c.loc) s2
  let s4 := l.credits.foldl (fun (s : State) (e : Nat × Nat) => s.ungrant l.tenant e.1 e.2) s3
  let off := fun (p : Plot) => match p.st with
    | .pending | .saved | .loading _ _ _ => { p with st := .done, threads := [], snap := [], pinned := false }
    | _ => p
  let s5 := s4.modLaunch l.id fun k => ({ k with ending := true, credits := [], plots := k.plots.map off } : Launch).fillExits
  (List.range l.plots.length).foldl (fun (s : State) (i : Nat) => s.tryRetire l.id i) s5

/-- SUPCMD_TERMINATE (R367); CORE is ignored, and holds what was written (R410). -/
def execSupcmdTerminate (t : Nat) (who : SupThread) (s : State) : Host.Outcome State Fault Refusal :=
  event (s.supWrite t who.launch who.core 3 fun s => match s.launchNumbered t who.launch with
    | some l => (s.endLaunch l, false)
    | none => (s, false))

/-! ## CTX (R383) -/

/-- The rectangle a register names: die and origin; none where a must-be-zero bit is set. -/
def ctxRect (w : W64) : Option (Nat × Nat × Nat) :=
  if bitsOf w 7 5 ≠ 0 || bitsOf w 15 13 ≠ 0 || bitsOf w 63 18 ≠ 0 then none else some (bitsOf w 17 16, bitsOf w 4 0, bitsOf w 12 8)

/-- The launch and plot whose latest rectangle has an origin and whose state a test picks. -/
def State.plotFrom (s : State) (o : Nat × Nat × Nat) (f : Plot → Bool) : Option (Launch × Nat × Plot) :=
  s.launches.findSome? fun l => (List.range l.plots.length).findSome? fun i => match l.plots[i]? with
    | some p => if p.home = some o && f p then some (l, i, p) else none
    | none => none

/-- Bytes written to physical memory by the control core, which names no page and so no key (log 34). -/
def State.writePhys (s : State) (pa : Nat) (bs : List Byte) : State := s.devPlace ((List.range bs.length).map fun i => (pa + i, 0)) bs

/-- What reading `n` bytes of physical memory finds: what a core owns is recalled (R224), single-bit errors are corrected and counted, and an uncorrectable one latches UNCORRECTED
on the control core that reads (R368, R369). -/
def State.physFound (s : State) (pa n : Nat) : State :=
  let lines := (List.range ((pa % 128 + n + 127) / 128)).map fun k => lineOf pa + 128 * k
  let s1 := lines.foldl (fun (s : State) (l : Nat) => if isHost l then s else (s.checkLine l).shareLine l none) s
  match lines.find? s1.isPoisoned with
  | some line => s1.onCore fun c => c.latchUncorrected 3 (w64 line) 0
  | none => s1

/-- Some line of `n` bytes has an open combining window, for which a write waits (R236). -/
def State.physWindowed (s : State) (pa n : Nat) : Bool :=
  (List.range ((pa % 128 + n + 127) / 128)).any fun k => s.windowed (lineOf pa + 128 * k)

/-- An image of `n` bytes reaches a reserved physical address (R221). -/
def imageReserved (pa n : Nat) : Bool := isReservedPa pa || isReservedPa (pa + n - 1)

/-- CTX.SAVE's effect. DEDUCED (log 53, 54). -/
def ctxSaveOp (s : State) (a b : XReg) : Res :=
  let pa := (s.x b).toNat
  match s.core.prog with
  | some (.ctxWait lid i) => match s.plotAt lid i with
    | some (l, p) => match p.st with
      | .saving _ _ _ => .hold s
      | .saved => if s.physWindowed pa l.imageSize then .hold s else .ok (s.writePhys pa (plotImage l i p (s.isPinned l i p)))
      | _ => .ok s
    | none => .ok s
  | _ => match ctxRect (s.x a) with
    | none => usage s
    | some o =>
      if pa % 4096 ≠ 0 then usage s
      else match s.plotFrom o Plot.runs with
        | some (l, i, _) =>
          if imageReserved pa l.imageSize then protect (s.x b)
          else .hold ((s.preempt l.id i true).onCore fun c => { c with prog := some (.ctxWait l.id i) })
        | none => usage s

/-- The launch and the plot index a plot record names. -/
def State.recordPlot (s : State) (pa : Nat) : Option (Launch × Nat × Plot) :=
  let at_ := fun (o : Nat) => w64 (leNat ((List.range 8).map fun i => s.outerByte 0 (pa + o + i)))
  match s.launchAt (bitsOf (at_ 24) 63 8) with
  | some l => match l.plots[bitsOf (at_ 0) 63 32]? with
    | some p => some (l, bitsOf (at_ 0) 63 32, p)
    | none => none
  | none => none

/-- The rectangles on which CTX.LOAD of a plot at an origin places it: its own, and those of the other plots of a co-resident launch, which
is placed whole, each on the cores it held (R141, R162). -/
def Launch.loadRects (l : Launch) (i : Nat) (o : Nat × Nat × Nat) : List Rect :=
  if l.cmd.cores then (List.range l.plots.length).filterMap fun j => (l.plots[j]?).bind fun p =>
    if p.st == .done then none else if j = i then some (l.rect j o) else p.home.map (l.rect j)
  else [l.rect i o]

/-- What stands against a load of a saved plot at an origin (R383). -/
def State.loadBad (s : State) (l : Launch) (i : Nat) (p : Plot) (o : Nat × Nat × Nat) : Bool :=
  !p.isSaved || ((l.cmd.cores || s.isPinned l i p) && p.home ≠ some o) || 18 < o.2.1 + l.cmd.w || 18 < o.2.2 + l.cmd.h ||
    (l.loadRects i o).any fun r => !(l.plots[r.plot]?.any Plot.isSaved) || !s.rectFree r [] fun _ => false

/-- CTX.LOAD's effect. DEDUCED (log 53). -/
def ctxLoadOp (s : State) (a b : XReg) : Res :=
  let pa := (s.x b).toNat
  match s.core.prog with
  | some (.ctxWait lid i) =>
    if (s.plotAt lid i).any fun e => (match e.2.st with | .loading _ _ _ => true | _ => false) then .hold s else .ok s
  | _ => match ctxRect (s.x a) with
    | none => usage s
    | some o =>
      if pa % 4096 ≠ 0 then usage s
      else if isReservedPa pa then protect (s.x b)
      else match s.recordPlot pa with
        | none => usage s
        | some (l, i, p) =>
          if s.loadBad l i p o then usage s
          else if imageReserved pa l.imageSize then protect (s.x b)
          else
            let img := (List.range l.imageSize).map fun k => s.outerByte 0 (pa + k)
            let rs := l.loadRects i o
            let s1 := (s.physFound pa l.imageSize).modPlot l.id i fun p => p.overlay l img
            let s2 := rs.foldl (fun (s : State) (r : Rect) =>
              (if r.plot = i then s.letGo l i else s.takeImage l r.plot).startLoad r) s1
            .hold (s2.onCore fun c => { c with prog := some (.ctxWait l.id i) })

/-- CTX.SAVE. -/
def execCtxSave (b a : XReg) (c : Ctl) (s : State) : Host.Outcome State Fault Refusal := runMachine c s fun s => ctxSaveOp s a b
/-- CTX.LOAD. -/
def execCtxLoad (b a : XReg) (c : Ctl) (s : State) : Host.Outcome State Fault Refusal := runMachine c s fun s => ctxLoadOp s a b

end Sys2Proof.Machine
end

