-- ==== Sys2Proof/Machine/Quince.lean ====
section
/-! DEFINITION. Sys2Proof/Machine/Quince.lean: the near-memory key units: KEYQ and KEYG (R339 to R344), and ENGINE_READ, the read
move of every engine command (R263). -/

namespace Sys2Proof.Machine

/-- The parameter block of R340, and whether its must-be-zero bits are zero. -/
def parseKey (bs : List Byte) (g : Bool) : KeyParams × Bool :=
  let w0 := fieldNat bs 0 2
  let b2 := fieldNat bs 2 1
  let b3 := fieldNat bs 3 1
  let w4 := fieldNat bs 4 2
  let w6 := fieldNat bs 6 2
  let wc := fieldNat bs 0xC 2
  let p : KeyParams :=
    { unit := w0 / 256 % 4, tb := w0 / 16 % 16, ta := w0 % 16, topk := b2 % 128, vfmt := BitVec.ofNat 4 (b3 / 16),
      wmode := BitVec.ofNat 2 b3, rl := w4 % 4096 + 1, owin := w6 % 16, qaddr := fieldNat bs 8 4, qfmt := BitVec.ofNat 4 (wc / 4096),
      dh := wc % 512 + 1, vbase := fieldNat bs 0x10 8, gaddr := fieldNat bs 0x18 4, vgrad := fieldNat bs 0x20 8,
      kgrada := fieldNat bs 0x28 8, kgradb := fieldNat bs 0x30 8 }
  (p, w0 / 1024 == 0 && b2 / 128 == 0 && b3 / 4 % 4 == 0 && w4 / 4096 == 0 && w6 / 128 == 0 && wc / 512 % 8 == 0 &&
      fieldNat bs 0xE 2 == 0 && fieldNat bs 0x1C 4 == 0 && fieldNat bs 0x38 8 == 0 &&
      (g || (p.gaddr == 0 && p.vgrad == 0 && p.kgrada == 0 && p.kgradb == 0)))

/-- OCNT of a block. -/
def keyCounter (bs : List Byte) : Nat := fieldNat bs 6 2 / 16 % 8

def roundUp64 (n : Nat) : Nat := 64 * ceilDiv n 64

/-- Bytes per element of a format of R340. -/
def fmtSize (f : BitVec 4) : Nat := fmtBits f.toNat / 8

/-- The bytes a command writes to its window. -/
def KeyParams.outSize (p : KeyParams) (g : Bool) : Nat :=
  if g then roundUp64 (8 * p.dh) else roundUp64 (4 * p.rl) + roundUp64 (8 * p.topk)

/-- N of R344. -/
def KeyParams.seqs (p : KeyParams) : Nat :=
  (if p.vgrad = 0 then 0 else p.topk * p.rl) + p.topk * p.dh * ((if p.kgrada = 0 then 0 else 1) + (if p.kgradb = 0 then 0 else 1))

/-- The issue checks of R341, in order, and the issue. A TOPK of 65 to 127, which R340's range leaves out and R341 does not name, runs with
that K. DESIGN CHOICE (log 114). -/
def keyIssue (s : State) (a : XReg) (g : Bool) (hint : Nat) : Res :=
  let at_ := s.x a
  if at_.toNat % 64 ≠ 0 then misalign at_
  else if !localOk s.core at_.toNat 64 then protect at_
  else latchBad s at_.toNat 64 fun s =>
    let bs := s.core.readLmem at_.toNat 64
    let (p, mbz) := parseKey bs g
    if p.qaddr % 64 ≠ 0 then misalign (w64 p.qaddr)
    else if p.vbase % 64 ≠ 0 then misalign (w64 p.vbase)
    else if g && p.gaddr % 64 ≠ 0 then misalign (w64 p.gaddr)
    else if !mbz || p.topk = 0 || p.dh < 16 || p.wmode = 3 || ((s.tenantAt s.core.tenantNo).physDie p.unit).isNone then usage s
    else if fmtReserved p.vfmt.toNat || fmtReserved p.qfmt.toNat then trapAt 0x0C 0
    else if !([0, 1, 2, 3, 4].contains p.vfmt.toNat) || !([1, 3, 4].contains p.qfmt.toNat) then usage s
    else if !localOk s.core p.qaddr (2 * p.dh * fmtSize p.qfmt) then protect (w64 p.qaddr)
    else if g && !localOk s.core p.gaddr (4 * p.rl) then protect (w64 p.gaddr)
    else
      let w := s.core.wins[p.owin]?.getD Window.start
      if !w.init || w.half < p.outSize g then usage s
      else if g then
        issueCmd (s.onCore fun c => { c with logSeq := c.logSeq + BitVec.ofNat 32 p.seqs }) (keyCounter bs) 0xA7 (.keyg p s.core.logSeq) hint
      else issueCmd s (keyCounter bs) 0xA6 (.keyq p) hint

/-- KEYQ. -/
def execKeyq (a : XReg) (c : Ctl) (s : State) : Host.Outcome State Fault Refusal := run c s fun s => keyIssue s a false (hintOf c)
/-- KEYG: a command that stalls at issue reserves no sequence number. -/
def execKeyg (a : XReg) (c : Ctl) (s : State) : Host.Outcome State Fault Refusal :=
  run c s fun s => if 32 ≤ s.inFlight s.core then (match keyIssue s a true (hintOf c) with | .hold _ => .hold s | r => r)
    else keyIssue s a true (hintOf c)

/-! ## The computation (R342, R343) -/

/-- Elements of a format from a byte string. -/
def decodeRow (fmt : BitVec 4) (bs : List Byte) (n : Nat) : List FVal :=
  let e := fmtSize fmt
  match fmtType fmt.toNat with
  | some (.flt f) => (List.range n).map fun i => fdec f (fieldNat bs (e * i) e)
  | _ => List.replicate n .nan

/-- A score ranks before another: numbers above NaN, higher first, ties to the lower index. -/
def ranksBefore (x y : FVal × Nat) : Bool :=
  match x.1.isNan, y.1.isNan with
  | true, true => x.2 < y.2
  | true, false => false
  | false, true => true
  | false, false => if x.1.cmp y.1 = 0 then x.2 < y.2 else decide (0 < x.1.cmp y.1)

def insertRank (x : FVal × Nat) : List (FVal × Nat) → List (FVal × Nat)
  | [] => [x]
  | y :: r => if ranksBefore x y then x :: y :: r else y :: insertRank x r

/-- The `k` best of a list, best first. -/
def topRanks (k : Nat) (ls : List (FVal × Nat)) : List (FVal × Nat) := ls.foldl (fun acc x => (insertRank x acc).take k) []

/-- A sum of exact products, rounded at each step (R342's and R343's fused accumulations). -/
def fusedSum (ps : List (FVal × FVal)) : FVal := ps.foldl (fun acc p => roundF32 (acc.add (p.1.mul p.2))) (.fin false 0 0)

/-- log2 e rounded to F32. -/
def log2e : FVal := fdec fF32 0x3FB8AA3B

/-- The weights of R342. -/
def weights (mode : BitVec 2) (ss : List FVal) : List FVal :=
  match mode.toNat with
  | 0 => ss
  | 1 =>
    let ts := ss.map fun s => roundF32 (s.mul log2e)
    let t0 := ts.headD .nan
    let es := ts.map fun t => roundF32 (FVal.exp2 (roundF32 (t.sub t0)))
    let z := es.tail.foldl (fun z e => roundF32 (z.add e)) (es.headD .nan)
    es.map fun e => roundF32 (e.div z)
  | _ => ss.map fun s => if !s.isNan && 0 < s.cmp (.fin false 0 0) then s else .fin false 0 0

/-- Steps 1 to 4 of R342: from the query and the two tables' keys. -/
def rankKeys (p : KeyParams) (q : List FVal) (ka kb : List (List FVal)) : List Ranked :=
  let d := p.dh
  let g := groupSize p.qfmt.toNat
  let score := fun (qs : List FVal) (k : List FVal) => accAll g (.fin false 0 0) (List.zipWith FVal.mul qs k)
  let rank := fun (qs : List FVal) (ks : List (List FVal)) => topRanks p.topk ((ks.map (score qs)).zip (List.range ks.length))
  let ra := rank (q.take d) ka
  let rb := rank (q.drop d) kb
  let cand := ra.flatMap fun x => rb.map fun y => (roundF32 (x.1.add y.1), x.2 * kb.length + y.2)
  let best := topRanks p.topk cand
  let ws := weights p.wmode (best.map Prod.fst)
  (best.zip ws).map fun x =>
    { a := x.1.2 / kb.length, b := x.1.2 % kb.length, idx := x.1.2, score := x.1.1, weight := x.2 }

def f32Bytes (v : FVal) : List Byte := natBytes 4 (fround fF32 v)

/-- y of R342. -/
def keyResult (p : KeyParams) (rs : List (Ranked × List FVal)) : List FVal :=
  (List.range p.rl).map fun c => fusedSum (rs.map fun r => (r.1.weight, r.2.getD c .nan))

/-- KEYQ's window bytes. -/
def keyqBytes (p : KeyParams) (rs : List (Ranked × List FVal)) : List Byte :=
  sliceBytes ((keyResult p rs).flatMap f32Bytes) 0 (roundUp64 (4 * p.rl)) ++
    sliceBytes (rs.flatMap fun r => natBytes 4 r.1.idx ++ f32Bytes r.1.weight) 0 (roundUp64 (8 * p.topk))

/-- The score gradients of R343. -/
def scoreGrads (p : KeyParams) (g : List FVal) (rs : List (Ranked × List FVal)) : List FVal :=
  let gw := rs.map fun r => fusedSum (g.zip r.2)
  match p.wmode.toNat with
  | 0 => gw
  | 1 =>
    let dd := fusedSum ((rs.map fun r => r.1.weight).zip gw)
    (rs.zip gw).map fun x => roundF32 (x.1.1.weight.mul (roundF32 (x.2.sub dd)))
  | _ => (rs.zip gw).map fun x => if !x.1.1.score.isNan && 0 < x.1.1.score.cmp (.fin false 0 0) then x.2 else .fin false 0 0

/-- KEYG's window bytes: dqA and dqB, from the key rows at each rank's a_r and b_r. -/
def keygBytes (p : KeyParams) (gs : List FVal) (as_ bs : List (List FVal)) : List Byte :=
  let dq := fun (ks : List (List FVal)) => (List.range p.dh).map fun k => fusedSum ((gs.zip ks).map fun x => (x.1, x.2.getD k .nan))
  sliceBytes ((dq as_ ++ dq bs).flatMap f32Bytes) 0 (roundUp64 (8 * p.dh))

/-- KEYG's entries in append order: virtual address and F32 operand (R343). -/
def keygEntries (p : KeyParams) (g gs : List FVal) (q : List FVal) (rs : List (Ranked × List FVal)) : List (Nat × Nat) :=
  let prod := fun (x y : FVal) => fround fF32 (x.mul y)
  let rsg := roundUp64 (4 * p.rl)
  let v := if p.vgrad = 0 then [] else rs.flatMap fun r =>
    (List.range p.rl).map fun c => (p.vgrad + r.1.idx * rsg + 4 * c, prod r.1.weight (g.getD c .nan))
  let keys := fun (base : Nat) (ix : Ranked → Nat) (qs : List FVal) => if base = 0 then [] else (gs.zip rs).flatMap fun x =>
    (List.range p.dh).map fun k => (base + 4 * p.dh * ix x.2.1 + 4 * k, prod x.1 (qs.getD k .nan))
  v ++ keys p.kgrada Ranked.a (q.take p.dh) ++ keys p.kgradb Ranked.b (q.drop p.dh)

/-! ## The unit's reads -/

/-- A core-like agent on the unit's die: what reads keys and values. -/
def unitAgent (c : Core) (die : Nat) : Core := { c with loc := { c.loc with die := die }, tlb := [] }

def State.slot (s : State) (u i : Nat) : Option QSlot := (s.quince.find? fun e => e.1 = u && e.2.1 = i).map fun e => e.2.2

/-- The key memory of a slot. -/
def QSlot.bytes (q : QSlot) : Nat := q.n * q.d * fmtSize q.fmt

/-- The checks the unit makes (R341). -/
def slotCheck (s : State) (t u : Nat) (p : KeyParams) : Except Nat (QSlot × QSlot) :=
  match s.slot u p.ta, s.slot u p.tb with
  | some x, some y =>
    if !x.valid || !y.valid || x.tenant ≠ t || y.tenant ≠ t then .error 0x21
    else
      let ok := fun (q : QSlot) => q.fmt == p.qfmt && q.d == p.dh && decide (p.topk ≤ q.n)
      if ok x && ok y then .ok (x, y) else .error 0x22
  | _, _ => .error 0x21

/-- The unit a command names, and the bindings it uses to its end (R339, R341). -/
def State.keyStart (s : State) (c : Core) (p : KeyParams) : Except Nat KeyRun :=
  match (s.tenantAt c.tenantNo).physDie p.unit with
  | none => .error 0x21
  | some u => match slotCheck s c.tenantNo u p with
    | .error cause => .error cause
    | .ok (x, y) => .ok { ta := x, tb := y, ranks := [] }

/-- What a command reads, one after the other, in moves of at most 64 bytes: the query, KEYG's output gradient, the keys of the two tables in
key memory, and for each rank its value row and, for KEYG, its two key rows (R342, R343, R358). DEDUCED (log 22). -/
structure KeyMoves where
  query : Nat
  grad : Nat
  keysA : Nat
  keysB : Nat
  value : Nat
  key : Nat
deriving DecidableEq, Repr

def keyMoves (p : KeyParams) (g : Bool) (r : KeyRun) : KeyMoves :=
  { query := ceilDiv (2 * p.dh * fmtSize p.qfmt) 64, grad := if g then ceilDiv (4 * p.rl) 64 else 0,
    keysA := ceilDiv r.ta.bytes 64, keysB := ceilDiv r.tb.bytes 64, value := ceilDiv (p.rl * fmtSize p.vfmt) 64,
    key := if g then ceilDiv (p.dh * fmtSize p.qfmt) 64 else 0 }

/-- The moves before the ranks' rows. -/
def KeyMoves.keys (k : KeyMoves) : Nat := k.query + k.grad + k.keysA + k.keysB
/-- The moves of one rank. -/
def KeyMoves.row (k : KeyMoves) : Nat := k.value + 2 * k.key

/-- Move `i` of a string of `n` bytes at `base`: its address and length. -/
def moveAt (base n i : Nat) : Nat × Nat := (base + 64 * i, Nat.min 64 (n - 64 * i))

/-- Keys as the unit's key memory holds them (R339): the keys' values in the view of its die, at the pages they were loaded from; what could
not be loaded is a free value. No line is read and nothing is translated for it now (R358). DESIGN CHOICE (log 82). -/
def State.readKeys (s : State) (agent : Core) (q : QSlot) (i : Nat) : EngRead :=
  let (va, n) := moveAt q.keyBase q.bytes i
  match q.pages[va / 4096 - q.keyBase / 4096]? with
  | some (some page) => .bytes ((List.range n).map fun j => s.engineByte agent.loc.die page.2 (page.1 + va % 4096 + j)) [] []
  | _ => .bytes ((List.range n).map fun j => Config.unloadedKey q.tenant (va + j)) [] []

/-- The global bytes of the row that a KEYQ or KEYG reads next, if it has come to the ranks: address, number and rank (R342, R343, R358). -/
def rowRead (p : KeyParams) (g : Bool) (r : KeyRun) (idx : Nat) : Option (Nat × Nat × Nat) :=
  let k := keyMoves p g r
  if idx < k.keys then none
  else
    let rank := (idx - k.keys) / k.row
    let i := (idx - k.keys) % k.row
    let x := r.ranks[rank]?
    let kn := p.dh * fmtSize p.qfmt
    let m := if i < k.value then moveAt (p.vbase + (x.elim 0 Ranked.idx) * roundUp64 (p.rl * fmtSize p.vfmt)) (p.rl * fmtSize p.vfmt) i
      else if i < k.value + k.key then moveAt (r.ta.keyBase + kn * x.elim 0 Ranked.a) kn (i - k.value)
      else moveAt (r.tb.keyBase + kn * x.elim 0 Ranked.b) kn (i - k.value - k.key)
    some (m.1, m.2, rank)

/-- The agent of the unit that a command names. -/
def State.keyAgent (s : State) (c : Core) (p : KeyParams) : Core := unitAgent c (s.unitDie c p)

/-- The next read of a KEYQ or KEYG, and what XINFO1 names where it stops: the rank of a row (R358). The query and the gradient cross from the
issuing core to the unit, which a retraining link may hold (R389). -/
def State.keyRead (s : State) (c : Core) (p : KeyParams) (g : Bool) (r : KeyRun) (idx : Nat) : EngRead × Nat :=
  let k := keyMoves p g r
  let agent := s.keyAgent c p
  if idx < k.query + k.grad && s.pathHeld c.loc.die agent.loc.die then (.wait, 0)
  else if idx < k.query then
    let (a, n) := moveAt p.qaddr (2 * p.dh * fmtSize p.qfmt) idx
    (readLocal c a n, 0)
  else if idx < k.query + k.grad then
    let (a, n) := moveAt p.gaddr (4 * p.rl) (idx - k.query)
    (readLocal c a n, 0)
  else if idx < k.query + k.grad + k.keysA then (s.readKeys agent r.ta (idx - (k.query + k.grad)), 0)
  else if idx < k.keys then (s.readKeys agent r.tb (idx - (k.query + k.grad + k.keysA)), 0)
  else match rowRead p g r idx with
    | some (a, n, rank) => (s.readGlobal agent a n, rank)
    | none => (.wait, 0)

/-- The rows of a table's keys. -/
def keyRows (p : KeyParams) (q : QSlot) (bs : List Byte) : List (List FVal) :=
  let row := p.dh * fmtSize p.qfmt
  (List.range q.n).map fun i => decodeRow p.qfmt ((bs.drop (row * i)).take row) p.dh

/-- What a command has read: query, gradient, the two tables, and the ranks' rows. -/
structure KeyData where
  q : List FVal
  grad : List FVal
  ka : List (List FVal)
  kb : List (List FVal)
  rows : List Byte
deriving DecidableEq, Repr

def keyData (p : KeyParams) (g : Bool) (r : KeyRun) (bs : List Byte) : KeyData :=
  let nq := 2 * p.dh * fmtSize p.qfmt
  let ng := if g then 4 * p.rl else 0
  let b1 := bs.drop nq
  let b2 := b1.drop ng
  let b3 := b2.drop r.ta.bytes
  { q := decodeRow p.qfmt bs (2 * p.dh), grad := decodeRow 0 b1 (if g then p.rl else 0), ka := keyRows p r.ta b2, kb := keyRows p r.tb b3,
    rows := b3.drop r.tb.bytes }

/-- KEYG's log writes with their reserved sequence numbers (R344). -/
def State.keyLogs (s : State) (c : Core) (seq : W32) (es : List (Nat × Nat)) : List EqWrite :=
  ((List.range es.length).zip es).map fun x =>
    .logAdd { launch := (match c.place with | some p => p.launch | none => 0), tenant := c.tenantNo, slice := 0, va := x.2.1, pa := 0,
              op := .add, ty := .f32, operand := w64 x.2.2, core := s.coreIndex c, seq := seq + BitVec.ofNat 32 x.1 } x.2.1

/-- The writes of a command that has read everything: KEYG's log entries, then the window's bytes (R342, R343). -/
def State.keyWrites (s : State) (c : Core) (p : KeyParams) (g : Option W32) (r : KeyRun) (d : KeyData) : List EqWrite :=
  let n := p.rl * fmtSize p.vfmt
  let kn := p.dh * fmtSize p.qfmt
  let per := n + (if g.isSome then 2 * kn else 0)
  let rs := (r.ranks.zip (List.range r.ranks.length)).map fun x => (x.1, decodeRow p.vfmt ((d.rows.drop (per * x.2)).take n) p.rl)
  let keyRow := fun (at_ i : Nat) => decodeRow p.qfmt ((d.rows.drop (per * i + n + at_)).take kn) p.dh
  let window := fun (bs : List Byte) =>
    (List.range (ceilDiv bs.length 64)).map fun i => EqWrite.window p.owin (64 * i) (sliceBytes bs (64 * i) 64)
  match g with
  | none => window (keyqBytes p rs)
  | some seq =>
    let gs := scoreGrads p d.grad rs
    s.keyLogs c seq (keygEntries p d.grad gs d.q rs) ++ window (keygBytes p gs ((List.range r.ranks.length).map (keyRow 0)) ((List.range r.ranks.length).map (keyRow kn)))

/-- A command's read, with the requests it sends for global bytes (R232, R244): it waits while one of them is held (R349). `take` makes the
read. -/
def State.withRequests (s : State) (l : Loc) (m : Cmd) (agent : Core) (at_ : Option (Nat × Nat)) (take : State → Cmd → State) : State :=
  match at_ with
  | none => take s m
  | some (va, n) =>
    if m.req.isEmpty then
      let s0 := s.engineWalk agent va n
      let s1 := s0.engineReq agent l m.hint va n
      let ids := s0.sentAll s1
      if ids.any s1.reqHeld then s1.modCore l fun c => c.setCmd { m with req := ids } else take s1 m
    else if m.req.any s.reqHeld then s else take s m

/-- ENGINE_READ of a KEYQ or KEYG. -/
def State.keyStep (s : State) (l : Loc) (m : Cmd) (p : KeyParams) (g : Bool) : State :=
  let c := s.coreAt l
  let go := fun (r : KeyRun) =>
    s.withRequests l { m with key := some r } (s.keyAgent c p) ((rowRead p g r m.idx).map fun x => (x.1, x.2.1)) fun s m =>
      let (e, idx) := s.keyRead c p g r m.idx
      s.tookRead l m (fun _ => idx) e
  match m.key with
  | some r => go r
  | none => match s.keyStart c p with
    | .error cause => s.stopCmd l m cause 0 0
    | .ok r => go r

/-- ENGINE_PRODUCE of a KEYQ or KEYG: after the last key of key memory the ranks stand (R342 steps 1 to 4), after the last row the writes. -/
def State.keyProduce (s : State) (c : Core) (m : Cmd) (p : KeyParams) (g : Option W32) (r : KeyRun) (bs : List Byte) : Cmd :=
  let k := keyMoves p g.isSome r
  let src := m.src ++ bs
  let m1 := { m with buf := none, idx := m.idx + 1, src := src }
  let total := k.keys + p.topk * k.row
  if m.idx + 1 = k.keys then
    let d := keyData p g.isSome r src
    { m1 with key := some { r with ranks := rankKeys p d.q d.ka d.kb } }
  else if m.idx + 1 = total then { m1.push (s.keyWrites c p g r (keyData p g.isSome r src)) with done := true, src := [] }
  else m1

/-- ENGINE_READ (R263): the next read move of a started command. -/
def execEngineRead (l : Loc) (id : Nat) (s : State) : Host.Outcome State Fault Refusal :=
  let c := s.coreAt l
  match c.cmds.find? fun m => m.id = id with
  | some m =>
    if !m.started || m.done || m.buf.isSome then event s
    else match m.kind with
      | .keyq p => event (s.keyStep l m p false)
      | .keyg p _ => event (s.keyStep l m p true)
      | k =>
        if k.reads ≤ m.idx then event s
        else event (s.withRequests l m c m.globalRead fun s m => s.tookRead l m m.readIndex (s.nextRead c m))
  | none => event s

/-- ENGINE_PRODUCE (R263): what was read becomes writes in the engine queue; a message waits for a retraining link on its way (R389). -/
def execEngineProduce (l : Loc) (id : Nat) (s : State) : Host.Outcome State Fault Refusal :=
  let c := s.coreAt l
  match c.cmds.find? fun m => m.id = id with
  | some m => match m.buf with
    | none => event s
    | some bs =>
      let put := fun (m' : Cmd) => s.setCore (c.setCmd m')
      match m.kind, m.key with
      | .keyq p, some r => event (put (s.keyProduce c m p none r bs))
      | .keyg p seq, some r => event (put (s.keyProduce c m p (some seq) r bs))
      | .slmsg _ reply sl, _ =>
        event (if s.pathHeld l.die (sl / 16) || s.pathHeld (sl / 16) l.die then s else (put (m.produce bs)).sendMsg l m sl reply bs)
      | _, _ => event (put (m.produce bs))
  | none => event s

end Sys2Proof.Machine
end

