-- ==== Sys2Proof/Machine/Host.lean ====
section
/-! DEFINITION. Sys2Proof/Machine/Host.lean: the tenants' and the physical function's registers, keys, attestation, realms, revocation
and scale-out (R396, R405 to R418). -/

namespace Sys2Proof.Machine

/-! ## Events, the fault queue, interrupts (R409, R411) -/

/-- EVSIG_WRITE (R409): after every earlier BAR2 write has been performed. -/
def execEvsigWrite (t name : Nat) (amt : BitVec 32) (s : State) : Host.Outcome State Fault Refusal :=
  event (if (s.tenantAt t).writable then (s.wakePower.hostArrive (.evsig t (name % 65536) amt)) else s)

/-- FQHEAD_WRITE (R365, R409). -/
def execFqheadWrite (t : Nat) (v : BitVec 32) (s : State) : Host.Outcome State Fault Refusal :=
  event (if (s.tenantAt t).writable then (s.modTenant t fun n => { n with fqHead := v }).wakePower else s)

/-- IRQPEND_WRITE (R411): ones clear; vector 0 of a virtual function is raised again while records remain. -/
def execIrqpendWrite (fn : Option Nat) (v : BitVec 8) (s : State) : Host.Outcome State Fault Refusal :=
  match fn with
  | none => event { s with mgmt := { s.mgmt with irqpend := s.mgmt.irqpend &&& ~~~v } }
  | some t =>
    if (s.tenantAt t).writable then
      let s1 := s.modTenant t fun n => { n with irqpend := n.irqpend &&& ~~~v }
      event (if v.getLsbD 0 && (s.tenantAt t).fqTail != (s.tenantAt t).fqHead then s1.irqVf t 0 else s1)
    else event s

/-! ## Quince bindings (R339, R409) -/

/-- QSEL's unit, as a physical die, and slot. -/
def Tenant.qslot (t : Tenant) : Option (Nat × Nat) := (t.physDie (t.qsel.toNat / 256)).map fun d => (d, t.qsel.toNat % 16)

/-- Key memory in use on a unit, a slot left out. -/
def State.keyMemory (s : State) (u but : Nat) : Nat :=
  ((s.quince.filter fun e => e.1 = u && e.2.1 ≠ but).map fun e => e.2.2.bytes).sum

def State.setSlot (s : State) (u i : Nat) (q : QSlot) : State :=
  { s with quince := (u, i, q) :: s.quince.filter fun e => !(e.1 == u && e.2.1 == i) }

/-- The binding a write of QBIND describes. -/
def Tenant.binding (n : Tenant) (t : Nat) (v : W64) : QSlot :=
  { tenant := t, valid := true, busy := true, fmt := v.extractLsb' 56 4, n := bitsOf v 47 36 + 1, d := bitsOf v 24 16 + 1,
    keyBase := (tabGet 0 n.qkeyBases n.qsel.toNat).toNat, pages := [] }

/-- Who walks for the keys of a unit (R244). -/
def unitLoc (u : Nat) : Loc := { kind := .control, die := u, x := 0, y := 0 }

/-- The pages of a binding's keys. -/
def QSlot.vpages (q : QSlot) : List Nat := (List.range (ceilDiv (q.keyBase % 4096 + q.bytes) 4096)).map fun i => q.keyBase / 4096 * 4096 + 4096 * i

/-- The translations through which a binding's keys are loaded, on the unit's die (R339). DEDUCED (log 82). -/
def State.keyTrs (s : State) (u : Nat) (q : QSlot) : List Tr := q.vpages.map fun a => s.dieTr u q.tenant a Access.read

/-- The pages that a binding's keys are loaded from: none where a translation is refused. -/
def State.keyPages (s : State) (u : Nat) (q : QSlot) : List (Option (Nat × Nat)) :=
  (s.keyTrs u q).map fun a => match a with
    | .hit pa pte => some (pa, pteKey pte)
    | _ => none

/-- The fields a binding may have. DEDUCED (log 63). -/
def QSlot.ok (q : QSlot) : Bool :=
  (q.fmt == 1 || q.fmt == 3 || q.fmt == 4) && 64 ≤ q.n && 16 ≤ q.d && q.keyBase % 64 == 0

/-- QBIND_BIND (R339, R409). -/
def execQbindBind (t : Nat) (v : BitVec 64) (s : State) : Host.Outcome State Fault Refusal :=
  let n := s.tenantAt t
  match n.qslot with
  | some (u, i) =>
    let q := n.binding t v
    let refuse := fun (full : Bool) => s.modTenant t fun n => { n with qrefused := tabSet n.qrefused n.qsel.toNat (true, full) }
    if !n.writable || !v.getLsbD 63 || !q.ok then event s
    else if (s.slot u i).any fun o => o.tenant ≠ t then event (refuse false)
    else if 8 * 2 ^ 20 < s.keyMemory u i + q.bytes then event (refuse true)
    else
      let s := s.agentWalk (unitLoc u) [] t q.keyBase q.bytes
      event ((s.setSlot u i { q with pages := s.keyPages u q }).modTenant t fun n => { n with qrefused := tabSet n.qrefused n.qsel.toNat (false, false) })
  | none => event s

/-- QBIND_UNBIND (R409): BUSY clears with the binding (vector 5). -/
def execQbindUnbind (t : Nat) (s : State) : Host.Outcome State Fault Refusal :=
  let n := s.tenantAt t
  match n.qslot with
  | some (u, i) =>
    event (match s.slot u i with
      | some o =>
        let s1 := { s with quince := s.quince.filter fun e => !(e.1 == u && e.2.1 == i) }
        if !n.writable || o.tenant ≠ t then s else if o.busy then s1.irqVf t 5 else s1
      | none => s)
  | none => event s

/-- QUINCE_KEYS_LOADED (R339): BUSY clears (vector 5); the pages that the bind could not translate are tried again first, and waited for while
a translation is held. -/
def execQuinceKeysLoaded (unit slot : Nat) (s : State) : Host.Outcome State Fault Refusal :=
  match s.slot unit slot with
  | some q =>
    if !q.busy then event s
    else if q.pages.all Option.isSome then event ((s.setSlot unit slot { q with busy := false }).irqVf q.tenant 5)
    else
      let s1 := s.agentWalk (unitLoc unit) [] q.tenant q.keyBase q.bytes
      event (if (s1.keyTrs unit q).any fun a => a == .wait || a == .miss then s1
        else (s1.setSlot unit slot { q with busy := false, pages := s1.keyPages unit q }).irqVf q.tenant 5)
  | none => event s

/-! ## Slice handlers (R351, R409) -/

/-- HSEL's slice, on the die of the tenant's number (R406), and trigger. -/
def Tenant.hslice (t : Tenant) : Option Nat := (t.physDie (t.hsel.toNat / 16 % 4)).map fun d => 16 * d + t.hsel.toNat % 16
def Tenant.htrigger (t : Tenant) : Trigger :=
  match t.hsel.toNat / 256 with
  | 0 => .miss | 1 => .fill | 2 => .evict | _ => .msg

/-- HSTAT_WRITE (R351): a write of 0 re-enables and clears both counts. -/
def execHstatWrite (t : Nat) (v : BitVec 64) (s : State) : Host.Outcome State Fault Refusal :=
  let n := s.tenantAt t
  let clear := fun (r : SliceReg) => if r.tenant = t && r.kind = n.htrigger then { r with recent := [] } else r
  event (match n.hslice with
    | some sl => if n.writable && v = 0 then s.modSlice sl fun q =>
        Slice.setStat { q with regs := q.regs.map clear } { tenant := t, kind := n.htrigger, disabled := false, skips := 0, overruns := 0 } else s
    | none => s)

/-! ## Attestation, keys, realms (R412 to R415) -/

/-- The signed part of a report (R414). DESIGN CHOICE (log 59). -/
def State.reportBody (s : State) (t : Nat) (nonce : List Byte) : List Byte :=
  let n := s.tenantAt t
  natBytes 4 s.mgmt.fwVersion.toNat ++ natBytes 4 s.mgmt.epoch.toNat ++ fit 48 nonce ++ natBytes 48 s.mgmt.chain.toNat ++
    natBytes 48 n.chain.toNat ++ [BitVec.ofNat 8 t, n.dies.setWidth 8, BitVec.ofNat 8 n.policy, 0] ++ natBytes 4 n.dequeues

/-- ATTEST_REPORT (R414): the answer, and vector 3; a request without a nonce asks for the certificate chain. DESIGN CHOICE (log 115). -/
def execAttestReport (t : Nat) (nonce : List Byte) (s : State) : Host.Outcome State Fault Refusal :=
  let body := s.reportBody t nonce
  let report := if nonce.isEmpty then Config.certChain.take 4096
    else body ++ natBytes 64 (Config.ed25519Sign body).toNat ++ natBytes 3309 (Config.mlDsaSign body).toNat
  event (if (s.tenantAt t).writable then (s.modTenant t fun n => { n with attest := report }).irqVf t 3 else s)

/-- A tenant key id is revoked in a realm until module reset (R416 step 4). -/
def State.isRevoked (s : State) (realm keyId : Nat) : Bool := s.mgmt.revoked.contains (realm, keyId)

/-- KEY_IMPORT (R412): the tag checked under the realm key; an all-zero key releases the slot. -/
def execKeyImport (t : Nat) (blob : List Byte) (s : State) : Host.Outcome State Fault Refusal :=
  let n := s.tenantAt t
  match n.realm with
  | none => event s
  | some r => match Config.openImport r.key blob with
    | none => event s
    | some b =>
      let holder := tabGet 255 s.keys b.slot
      if !n.writable || s.isRevoked r.id b.keyId || 128 ≤ b.slot || (holder ≠ 255 && holder ≠ t) then event s
      else if b.pair.all fun x => x = 0 then event { s with keys := tabSet s.keys b.slot 255, keyPairs := tabSet s.keyPairs b.slot [] }
      else event { s with keys := tabSet s.keys b.slot t, keyPairs := tabSet s.keyPairs b.slot b.pair }

/-- REALM_FORM (R415, R396: the key generation of every peer starts at 0). -/
def execRealmForm (t : Nat) (blob : List Byte) (s : State) : Host.Outcome State Fault Refusal :=
  match Config.openRealm blob with
  | none => event s
  | some b =>
    if !(s.tenantAt t).writable || s.isRevoked b.realm b.keyId then event s
    else
      let r : Realm := { id := b.realm, key := b.key, keyId := b.keyId, edKey := b.edKey, mlKey := b.mlKey, members := b.members }
      event (s.modTenant t fun n => { n with realm := some r, peers := n.peers.map fun (p : Nat × Peer) => (p.1, { p.2 with gen := 0, rxCtr := 0 }) })

/-! ## Host agents' reads (R256) -/

/-- One of the host agents' reads, taken from those that wait: answered once no OB store and no earlier host write stands before it, with its
bytes, or with Unsupported Request where it faults (R409); one that is held waits on (R246). -/
def State.answerRead (s : State) (r : HostRead) : State :=
  let wait := fun (s : State) => { s with hostReads := s.hostReads ++ [r] }
  if r.wait ≠ 0 || s.hostHeld r.tenant then wait s
  else match s.devRead r.tenant r.off r.n with
    | (s1, .ok bs) => { s1 with hostData := some (r, some bs) }
    | (s1, .fault _ _ _) => { s1 with hostData := some (r, none) }
    | (s1, .wait) => wait s1

/-- The host agents' reads that wait are tried, in order (R256). -/
def State.answerReads (s : State) : State := s.hostReads.foldl State.answerRead { s with hostReads := [] }

/-! ## Revocation and Function Level Reset (R405, R416) -/

/-- The cores of a tenant's threads. -/
def State.tenantCores (s : State) (t : Nat) : List Core :=
  s.allCores.filter fun c => c.place.isSome && c.loc.kind == .compute && (s.launchOf c).tenant == t

/-- Step 1: queues stop, their commands are discarded without signals. -/
def State.stopQueues (s : State) (t : Nat) : State :=
  let s1 := (s.modTenant t fun n => { n with tstat := 2 }).irqVf t 4
  let s2 := if (s1.tenantAt t).queues.any fun q => q.2.head != q.2.tail then s1.irqVf t 1 else s1
  s2.modTenant t fun n => { n with
    queues := n.queues.map fun (q : Nat × LQueue) => (q.1, { q.2 with head := q.2.tail, cur := none, blocked := none }) }

/-- The launches of a tenant. -/
def State.tenantLaunches (s : State) (t : Nat) : List Launch := s.launches.filter fun l => l.tenant = t

/-- Step 2 and the local half of step 3: the threads end unsaved with code 0xFF in the exit record (R370), their contracts and commands stop,
their cores are cleared. -/
def State.stopThreads (s : State) (t : Nat) : State :=
  let cs := s.tenantCores t
  let ls := s.tenantLaunches t
  let s0 := ls.foldl (fun (s : State) (l : Launch) => s.writeExits l.fillExits) s
  let s1 := { s0 with
    dies := s0.dies.map fun (d : Die) => { d with
      db := d.db.filter fun b => (tabGet 0xFF s.owners (granuleOf b.pa)).toNat ≠ t
      tlb := d.tlb.filter fun e => e.tenant ≠ t
      stack := d.stack.filter fun l => (tabGet 0xFF s.owners (granuleOf l.line)).toNat ≠ t }
    ob := s0.ob.filter fun b => !(ls.any fun l => b.owner.ofLaunch l.id)
    locks := s0.locks.filter fun e => e.tenant ≠ t
    reqs := s0.reqs.filter fun r => r.tenant ≠ t }
  let s2 := cs.foldl (fun (s : State) (c : Core) => s.freeCore c.loc) s1
  ls.foldl (fun (s : State) (l : Launch) => s.dropLaunch l.id) s2

/-- The device-wide half of step 3: lines, logs, Quince slots, handlers and what HSTAT holds of them; BUSY of a slot that is still loading clears
(R411: vector 5). -/
def State.clearUnits (s : State) (t : Nat) : State :=
  let slice := fun (q : Slice) => { q with
    lines := q.lines.filter fun l => l.tenant ≠ t
    log := q.log.filter fun e => e.tenant ≠ t
    granted := tabSet q.granted t 0
    pass := q.pass.filter fun lid => (s.launchAt lid).all fun l => l.tenant != t
    trigs := q.trigs.filter fun g => g.tenant ≠ t
    inv := if q.inv.any fun v => v.trig.tenant = t then none else q.inv
    regs := q.regs.filter fun r => r.tenant ≠ t
    stats := q.stats.filter fun e => e.tenant ≠ t }
  let wipe := fun (c : Core) =>
    if c.loc.kind = .slice then
      let q := s.sliceAt (sliceNo c.loc)
      let gone := (q.regs.filter fun r => r.tenant = t).foldl (fun (m : Memory) (r : SliceReg) =>
        (m.clear r.codeAt (r.codeAt + r.code.length)).clear r.dataAt (r.dataAt + r.dlen)) c.lmem
      { c with lmem := gone, run := if q.inv.any fun v => v.trig.tenant = t then .idle else c.run }
    else c
  let s1 : State := { s.mapCores wipe with
    slices := s.slices.map fun (q : Nat × Slice) => (q.1, slice q.2)
    quince := s.quince.filter fun e => e.2.2.tenant ≠ t }
  if s.quince.any fun e => e.2.2.tenant = t && e.2.2.busy then s1.irqVf t 5 else s1

/-- Step 4: key slots freed, granules poisoned; a signed revocation also erases the realm key and revokes the key id. -/
def State.dropKeys (s : State) (t : Nat) (signed : Bool) : State :=
  let mine := s.keys.filter fun e => e.2 = t
  let dead := (s.owners.filter fun e => e.2.toNat = t).map Prod.fst
  let s1 := { s with
    keys := s.keys.map fun (e : Nat × Nat) => if e.2 = t then (e.1, 255) else e
    keyPairs := s.keyPairs.filter fun e => !(mine.any fun k => k.1 = e.1)
    deadGranules := s.deadGranules ++ dead.filter fun g => !s.deadGranules.contains g }
  if signed then
    match (s.tenantAt t).realm with
    | some r => ({ s1 with mgmt := { s1.mgmt with revoked := s1.mgmt.revoked ++ [(r.id, r.keyId)] } }).modTenant t fun n => { n with realm := none }
    | none => s1
  else s1

/-- Steps 1 to 6 of R416, in order; a core found faulty under one of the plots is fenced then (R425). DEDUCED (log 65). -/
def State.revoke (s : State) (t : Nat) (signed : Bool) : State :=
  let s0 := ((s.stopQueues t).clearUnits t).stopThreads t
  let s1 := (State.answerReads { s0 with
    hostWrites := s0.hostWrites.filter fun w => w.tenant ≠ t
    hostReads := s0.hostReads.map fun r => { r with wait := Nat.min r.wait s0.ob.length } }).dropKeys t signed
  (((s1.modTenant t fun n => { n with tstat := 3 }).irqVf t 4).irqPf 4).fenceFree

/-- REVOCATION (R416): both signatures of the realm authority, and a serial above the last accepted. -/
def execRevocation (t : Nat) (blob : List Byte) (s : State) : Host.Outcome State Fault Refusal :=
  match Config.openRevocation blob, (s.tenantAt t).realm with
  | some b, some r =>
    let fresh := match s.mgmt.serials.find? fun e => e.1 = b.realm with
      | some e => e.2.ult b.serial
      | none => true
    if b.realm = r.id && b.keyId = r.keyId && Config.ed25519Verify r.edKey b.body b.edSig &&
        Config.mlDsaVerify r.mlKey b.body b.mlSig && fresh then
      event (State.revoke { s with mgmt := { s.mgmt with serials := tabSet s.mgmt.serials b.realm b.serial } } t true)
    else event s
  | _, _ => event s

/-- FLR (R405): a revocation without a signature, the realm key kept. -/
def execFlr (t : Nat) (s : State) : Host.Outcome State Fault Refusal := event (s.revoke t false)

/-! ## Peers and scale-out (R396) -/

/-- PEER_WRITE (R396, R409): a write with V = 1 clears UNREACH and the failure count; a slot that was unreachable is rekeyed under the
next generation, unless its key id is revoked. -/
def execPeerWrite (t p : Nat) (v : BitVec 64) (s : State) : Host.Outcome State Fault Refusal :=
  let n := s.tenantAt t
  if !n.writable || p = 0 || 63 < p then event s
  else
    let o := n.peer p
    let on := v.getLsbD 63
    let rekey := on && o.unreach && n.realm.any fun r => !s.isRevoked r.id r.keyId
    let q : Peer :=
      { v := on, unreach := o.unreach && !on, ports := v.extractLsb' 48 8, member := v.setWidth 16, fails := if on then 0 else o.fails,
        gen := if rekey then o.gen + 1 else o.gen, rxCtr := if rekey then 0 else o.rxCtr }
    event (s.modTenant t fun n => { n with peers := tabSet n.peers p q })

/-- SCALEOUT_FRAME (R396, R419): a control frame that announces a later key generation makes this end switch to it; a frame whose tag verifies
counts, and the next key generation follows before 2^48 frames; the sixteenth failure in a row makes the slot unreachable.
DEDUCED (log 57). -/
def execScaleoutFrame (t p : Nat) (frame : List Byte) (s : State) : Host.Outcome State Fault Refusal :=
  let n := s.tenantAt t
  let o := n.peer p
  let s := s.wakePower
  match n.realm with
  | none => event s
  | some r =>
    if !o.v || o.unreach then event s
    else
      let put := fun (q : Peer) => s.modTenant t fun n => { n with peers := tabSet n.peers p q }
      if (Config.announced r.key p frame).any fun g => o.gen < g then
        event (if s.isRevoked r.id r.keyId then s
          else put { o with fails := 0, gen := (Config.announced r.key p frame).getD 0, rxCtr := 0 })
      else if Config.frameTagOk r.key p o.gen frame then
        event (put (if o.rxCtr + 2 < 2 ^ 48 then { o with fails := 0, rxCtr := o.rxCtr + 1 } else { o with fails := 0, gen := o.gen + 1, rxCtr := 0 }))
      else if o.fails + 1 < 16 then event (put { o with fails := o.fails + 1 })
      else event ((put { o with fails := 16, unreach := true }).irqVf t 6)

/-! ## Granules (R408) -/

/-- GRANULE_OWNER_WRITE (R408): a change of owner starts a scrub. -/
def execGranuleOwnerWrite (g : Nat) (v : BitVec 8) (s : State) : Host.Outcome State Fault Refusal :=
  let old := tabGet 0xFF s.owners g
  if !isDevice (g * 0x10000000) || (63 < v.toNat && v ≠ 0xFF) || v = old then event s
  else event { s with owners := tabSet s.owners g v, scrubbing := g :: s.scrubbing.filter (· ≠ g),
                      deadGranules := s.deadGranules.filter (· ≠ g) }

/-- GRANULE_SCRUB_DONE (R408): the granule is zero, with no error left in it, and what was held translates again (R246). -/
def execGranuleScrubDone (g : Nat) (s : State) : Host.Outcome State Fault Refusal :=
  if s.scrubbing.contains g then
    let s1 : State := { s with
      mem := s.mem.clear (g * 0x10000000) ((g + 1) * 0x10000000)
      mlog := ((s.mem.cells.filter fun c => granuleOf c.1 = g).map fun c => ({ at_ := s.cycle, pa := c.1, old := c.2, own := none, die := none } : MWrite)) ++ s.mlog
      sealed := s.sealed.filter fun e => granuleOf e.1 ≠ g
      poison := s.poison.filter fun e => granuleOf e.1 ≠ g
      softLines := s.softLines.filter fun a => granuleOf a ≠ g
      badLines := s.badLines.filter fun a => granuleOf a ≠ g
      dies := s.dies.map fun (d : Die) => { d with db := d.db.filter fun b => granuleOf b.pa ≠ g }
      scrubbing := s.scrubbing.filter (· ≠ g) }
    event (s1.mapCores fun c => s1.retranslate c fun _ _ pa _ => granuleOf pa == g)
  else event s

/-! ## BAR2 (R409) -/

/-- The oldest store of OB reaches host memory. -/
def State.deliver (s : State) : State :=
  match s.ob with
  | [] => s
  | b :: r =>
    State.trigger { s with ob := r, host := s.host.writeN b.pa b.data, hostReads := s.hostReads.map fun h => { h with wait := h.wait - 1 } }
      (lineOf b.pa) fun _ => true

/-- HOST_DELIVER (R256); the host's accesses that wait are tried with it. -/
def execHostDeliver (s : State) : Host.Outcome State Fault Refusal := event s.deliver.flushWrites.answerReads

/-- HOST_BAR2_ACCESS (R256, R409): a write that faults is dropped, and one that is held waits; a read is answered once the OB stores present
at its arrival have been delivered. DESIGN CHOICE (log 60). -/
def execHostBar2Access (t va : Nat) (data : Option (List Byte)) (n : Nat) (s : State) : Host.Outcome State Fault Refusal :=
  let s := s.wakePower
  if 2 ^ 40 < va + n then event s
  else match data with
    | none => event (State.answerReads { s with hostReads := s.hostReads ++ [{ tenant := t, off := va, n := n, wait := s.ob.length }] })
    | some bs => event (if bs.length = n then s.hostArrive (.data t va bs) else s)

/-! ## Registers (R407, R409) -/

/-- A write of an MSI-X table's dwords; a vector that is no longer masked sends what it owes (R411). -/
def msixWrite (tab : Tab W32) (off : Nat) (v : W64) : Tab W32 := tabSet (tabSet tab (off / 4) (v.setWidth 32)) (off / 4 + 1) (v.extractLsb' 32 32)

def owed (tab : Tab W32) (pba : BitVec 8) : List Nat := (List.range 8).filter fun v => pba.getLsbD v && !msixMasked tab v

def Tenant.msixWrite (n : Tenant) (off : Nat) (v : W64) : Tenant :=
  let tab := Machine.msixWrite n.msix off v
  let go := owed tab n.pba
  { n with msix := tab, msgs := n.msgs + go.length, pba := go.foldl (fun (p : BitVec 8) v => p &&& ~~~((1 : BitVec 8) <<< v)) n.pba }

def Mgmt.msixWrite (m : Mgmt) (off : Nat) (v : W64) : Mgmt :=
  let tab := Machine.msixWrite m.msix off v
  let go := owed tab m.pba
  { m with msix := tab, msgs := m.msgs + go.length, pba := go.foldl (fun (p : BitVec 8) v => p &&& ~~~((1 : BitVec 8) <<< v)) m.pba }

/-- Eight bytes of a string replaced, within its length. -/
def patch (bs : List Byte) (at_ : Nat) (w : W64) : List Byte :=
  if bs.length ≤ at_ then bs else (bs.take at_ ++ natBytes 8 w.toNat ++ bs.drop (at_ + 8)).take bs.length

/-- A launch queue's registers. DEDUCED (log 86). -/
def Tenant.queueWrite (n : Tenant) (q reg : Nat) (v : W64) : Tenant :=
  let k := n.queue q
  let put := fun (k : LQueue) => { n with queues := tabSet n.queues q k }
  if reg = 0 then put { k with base := v &&& ~~~0xFFF }
  else if reg = 8 && 2 ≤ bitsOf v 3 0 && bitsOf v 3 0 ≤ 12 && k.head == k.tail then put { k with k := bitsOf v 3 0 }
  else n

/-- A virtual function's registers with no behaviour of their own; offsets from 0x1_0000 on name BAR4. A write of SUPCMD with a command is
another event (R410). -/
def Tenant.regWrite (n : Tenant) (off : Nat) (v : W64) : Tenant :=
  if off = 0x0000 then { n with ptroot := v &&& 0x0000FFFFFFFFF000#64 }
  else if 0x0100 ≤ off && off < 0x0300 then n.queueWrite ((off - 0x0100) / 32) ((off - 0x0100) % 32) v
  else if off = 0x0300 then { n with fqBase := v &&& ~~~0xFFF }
  else if off = 0x0308 then (if 4 ≤ bitsOf v 4 0 && bitsOf v 4 0 ≤ 16 then { n with fqK := bitsOf v 4 0 } else n)
  else if off = 0x0408 then { n with evsel := v.setWidth 16 }
  else if off = 0x0500 then (if n.supcmd.getLsbD 63 || (1 ≤ bitsOf v 3 0 && bitsOf v 3 0 ≤ 3) then n else { n with supcmd := v &&& 0x1FFFFFFFFFFFFFFF#64 })
  else if off = 0x0508 then { n with supaddr := v }
  else if off = 0x0520 then { n with irqen := v.setWidth 8 }
  else if off = 0x0600 then { n with hsel := v.setWidth 10 &&& 0x33F }
  else if off = 0x0700 then { n with qsel := v.setWidth 10 &&& 0x30F }
  else if off = 0x0710 then { n with qkeyBases := tabSet n.qkeyBases n.qsel.toNat v }
  else if 0x1000 ≤ off && off < 0x2000 then { n with attest := patch (sliceBytes n.attest 0 4096) (off - 0x1000) v }
  else if 0x2000 ≤ off && off < 0x2080 then n.msixWrite (off - 0x2000) v
  else if 0x10000 ≤ off then { n with images := n.images.modifyHead fun e => (e.1, patch e.2 (off - 0x10000) v) }
  else n

/-- A tenant's block of the physical function (R407). -/
def State.blockWrite (s : State) (t off : Nat) (v : W64) : State :=
  let put := fun (f : Tenant → Tenant) => s.modTenant t f
  if off = 0x008 then (if bitsOf v 1 0 = 3 then s else put fun n => { n with policy := bitsOf v 1 0 })
  else if off = 0x010 then (if 100 ≤ bitsOf v 16 0 && bitsOf v 16 0 ≤ 100000 then put fun n => { n with sliceUs := bitsOf v 16 0 } else s)
  else if off = 0x020 then (if (s.tenantAt t).en then s else put fun n => { n with ctxMib := bitsOf v 15 0 })
  else if off = 0x028 then (if 64 ≤ bitsOf v 19 0 then put fun n => { n with logCap := bitsOf v 19 0 } else s)
  else if 0x100 ≤ off && off < 0x180 then put fun n => { n with waymask := tabSet n.waymask ((off - 0x100) / 2) (v.setWidth 16) }
  else if 0x200 ≤ off && off < 0x700 then
    let k := (off - 0x200) / 4
    s.modSlice (k / 5) fun q =>
      let b := q.bucket t (k % 5)
      let depth := if bitsOf v 23 12 = 0 then b.depth else bitsOf v 23 12
      q.setBucket { b with rate := bitsOf v 7 0, depth := depth, tokens := Nat.min b.tokens depth }
  else s

/-- REGISTER_WRITE (R407, R409, R411, R422): a tenant's function, or the physical function. MGMTCMD's fields hold what is written while no
command is in progress; a write that names a command is another event. -/
def execRegisterWrite (fn : Option Nat) (off : Nat) (v : BitVec 64) (s : State) : Host.Outcome State Fault Refusal :=
  match fn with
  | some t => event (if (s.tenantAt t).writable then s.modTenant t fun n => n.regWrite off v else s)
  | none =>
    if off = 0x010 then
      event (if s.mgmt.busy || (1 ≤ bitsOf v 3 0 && bitsOf v 3 0 ≤ 4) then s else { s with mgmt := { s.mgmt with cmd := v.setWidth 12 &&& 0xF3F } })
    else if off = 0x018 then event { s with mgmt := { s.mgmt with irqen := v.setWidth 8 } }
    else if 0x4000 ≤ off && off < 0x4080 then event { s with mgmt := s.mgmt.msixWrite (off - 0x4000) v }
    else if 0x10000 ≤ off && off < 0x50000 && (s.tenantAt ((off - 0x10000) / 0x1000)).writable then
      event (s.blockWrite ((off - 0x10000) / 0x1000) ((off - 0x10000) % 0x1000) v)
    else event s

/-! ## Power (R419, R420) -/

/-- The exit latency of a state, in microseconds (R419). -/
def exitUs : Nat → Nat
  | 0 => 0 | 1 => 2 | 2 => 40 | 3 => 800 | _ => 20000

/-- The smallest LATUS among tenants with EN = 1; none without one. -/
def State.minLatUs (s : State) : Option Nat :=
  (s.tenants.filter fun e => e.2.en).foldl (fun (o : Option Nat) (e : Nat × Tenant) => match o with
    | none => some e.2.latUs.toNat
    | some n => some (Nat.min n e.2.latUs.toNat)) none

/-- The deepest state whose exit latency the active tenants tolerate. -/
def State.deepest (s : State) : BitVec 3 :=
  match s.minLatUs with
  | none => 4
  | some n => if 20000 ≤ n then 4 else if 800 ≤ n then 3 else if 40 ≤ n then 2 else if 2 ≤ n then 1 else 0

def State.setPower (s : State) (p : Power) : State := { s with mgmt := { s.mgmt with power := p } }

/-- A state that is too deep for the active tenants is left for the deepest allowed (R419). -/
def State.fitPower (s : State) : State :=
  let a := match s.mgmt.power with
    | .at a => a
    | .exiting d => d
  if s.deepest.toNat < a.toNat then s.setPower (.exiting s.deepest) else s

/-- TENANT_EN_WRITE (R407, R413, R416): DIES change only while EN = 0; activation needs a ready device, and makes the tenant anew: its chain
starts from the device's (R413), with no dequeue in it, its launches (R206) and its events (R138) count from 0; a power state that is too deep for it is left
(R419). Clearing EN makes the tenant inactive and, after a revocation, its function's registers as at reset, the realm of an FLR kept.
DEDUCED (log 64). -/
def execTenantEnWrite (t : Nat) (dies : BitVec 4) (en : Bool) (s : State) : Host.Outcome State Fault Refusal :=
  let n := s.tenantAt t
  if 63 < t then event s
  else if !n.en then
    let s1 := s.modTenant t fun n => { n with dies := dies }
    if en && s.mgmt.phase = 2 then
      event ((s1.modTenant t fun n => { n with en := true, tstat := 1, chain := s.mgmt.chain, dequeues := 0, launches := 0, events := [] }).irqVf t 4).fitPower
    else event s1
  else if en then event s
  else
    let keep : Tenant := { Tenant.start with
      dies := n.dies, policy := n.policy, sliceUs := n.sliceUs, latUs := n.latUs, ctxMib := n.ctxMib, logCap := n.logCap,
      waymask := n.waymask, realm := n.realm }
    event ((s.modTenant t fun n => if n.tstat = 3 then keep else { n with en := false, tstat := 0 }).irqVf t 4)

/-! ## Reading registers (R407, R409, R422) -/

/-- HSTAT. -/
def State.hstat (s : State) (t : Nat) : W64 :=
  let n := s.tenantAt t
  match n.hslice with
  | some sl => let v := (s.sliceAt sl).stat t n.htrigger; w64 (flag v.disabled * 2 ^ 63 + v.skips * 2 ^ 24 + v.overruns)
  | none => 0

/-- QBIND. -/
def State.qbind (s : State) (t : Nat) : W64 :=
  let n := s.tenantAt t
  let (no, full) := tabGet (false, false) n.qrefused n.qsel.toNat
  let r := flag no * 2 ^ 61 + flag full * 2 ^ 60
  match n.qslot.bind fun q => s.slot q.1 q.2 with
  | some q => if q.tenant = t then w64 (flag q.valid * 2 ^ 63 + flag q.busy * 2 ^ 62 + r + q.fmt.toNat * 2 ^ 56 + (q.n - 1) * 2 ^ 36 + (q.d - 1) * 2 ^ 16)
    else w64 r
  | none => w64 r

/-- What a dword pair of an MSI-X table reads as. -/
def msixRead (tab : Tab W32) (off : Nat) : W64 :=
  let dword := fun (k : Nat) => (tabGet (if k % 4 = 3 then 1 else 0) tab k).toNat
  w64 (dword (off / 4) + dword (off / 4 + 1) * 2 ^ 32)

/-- What a virtual function's register reads as. -/
def State.readVf (s : State) (t off : Nat) : W64 :=
  let n := s.tenantAt t
  if off = 0x0000 then n.ptroot
  else if off = 0x0008 then n.tstat.setWidth 64
  else if 0x0100 ≤ off && off < 0x0300 then
    let k := n.queue ((off - 0x0100) / 32)
    match (off - 0x0100) % 32 with
    | 0 => k.base | 8 => w64 k.k | 16 => k.head.setWidth 64 | 24 => k.tail.setWidth 64 | _ => 0
  else if off = 0x0300 then n.fqBase
  else if off = 0x0308 then w64 n.fqK
  else if off = 0x0310 then n.fqHead.setWidth 64
  else if off = 0x0318 then n.fqTail.setWidth 64
  else if off = 0x0408 then (tabGet 0 n.events n.evsel.toNat).setWidth 64
  else if off = 0x0500 then n.supcmd
  else if off = 0x0508 then n.supaddr
  else if off = 0x0520 then n.irqen.setWidth 64
  else if off = 0x0528 then n.irqpend.setWidth 64
  else if off = 0x0600 then n.hsel.setWidth 64
  else if off = 0x0608 then s.hstat t
  else if off = 0x0700 then n.qsel.setWidth 64
  else if off = 0x0708 then s.qbind t
  else if off = 0x0710 then tabGet 0 n.qkeyBases n.qsel.toNat
  else if 0x0810 ≤ off && off < 0x0C00 && off % 16 = 0 then
    let p := n.peer ((off - 0x0800) / 16)
    w64 (flag p.v * 2 ^ 63 + flag p.unreach * 2 ^ 62 + p.ports.toNat * 2 ^ 48 + p.member.toNat)
  else if 0x1000 ≤ off && off < 0x2000 then w64 (fieldNat n.attest (off - 0x1000) 8)
  else if 0x2000 ≤ off && off < 0x2080 then
    msixRead n.msix (off - 0x2000)
  else if off = 0x3000 then n.pba.setWidth 64
  else if 0x10000 ≤ off then w64 (fieldNat ((n.images.head?.map Prod.snd).getD []) (off - 0x10000) 8)
  else 0

/-- DEVSTATE (R422). -/
def Mgmt.devstate (m : Mgmt) : W64 :=
  w64 (m.phase.toNat + (match m.power with | .at a => a.toNat | .exiting d => d.toNat) * 2 ^ 4 + m.diesOk.toNat * 2 ^ 8 +
    m.failStep.toNat * 2 ^ 16)

/-- What a register of a tenant's block reads as (R407). -/
def State.readBlock (s : State) (t off : Nat) : W64 :=
  let n := s.tenantAt t
  if off = 0x000 then w64 (n.dies.toNat + flag n.en * 16)
  else if off = 0x008 then w64 n.policy
  else if off = 0x010 then w64 n.sliceUs
  else if off = 0x018 then n.latUs.setWidth 64
  else if off = 0x020 then w64 n.ctxMib
  else if off = 0x028 then w64 n.logCap
  else if 0x100 ≤ off && off < 0x180 then (tabGet 0xFFFF n.waymask ((off - 0x100) / 2)).setWidth 64
  else if 0x200 ≤ off && off < 0x700 then
    let b := (s.sliceAt ((off - 0x200) / 20)).bucket t ((off - 0x200) / 4 % 5)
    w64 (b.rate + b.depth * 2 ^ 12)
  else 0

/-- What a register of the physical function reads as. -/
def State.readPf (s : State) (off : Nat) : W64 :=
  let m := s.mgmt
  if off = 0x000 then m.devstate
  else if off = 0x008 then (if s.cycle = 0 then 0 else (Config.powerMw s.cycle).setWidth 64)
  else if off = 0x010 then w64 (flag m.busy * 2 ^ 63 + m.cmd.toNat)
  else if off = 0x018 then m.irqen.setWidth 64
  else if off = 0x020 then m.irqpend.setWidth 64
  else if 0x100 ≤ off && off < 0x200 then
    let d := (off - 0x100) / 64
    let at_ := 8 * ((off - 0x100) % 64)
    w64 ((m.fenced.filter fun l => l.kind = .compute && l.die = d && at_ ≤ 18 * l.y + l.x && 18 * l.y + l.x < at_ + 64).foldl
      (fun (v : Nat) (l : Loc) => v ||| 2 ^ (18 * l.y + l.x - at_)) 0)
  else if 0x4000 ≤ off && off < 0x4080 then msixRead m.msix (off - 0x4000)
  else if off = 0x5000 then m.pba.setWidth 64
  else if 0x8000 ≤ off && off < 0x9000 then (tabGet 0xFF s.owners (off - 0x8000)).setWidth 64
  else if 0x10000 ≤ off && off < 0x50000 then s.readBlock ((off - 0x10000) / 0x1000) ((off - 0x10000) % 0x1000)
  else 0

end Sys2Proof.Machine
end

