-- ==== Sys2Proof/Machine/Device.lean ====
section
/-! DEFINITION. Sys2Proof/Machine/Device.lean: power states, bring-up, management commands, Bramble links, fencing, firmware and the
machine interrupt (R118, R384, R386 to R394, R417, R419 to R425). -/

namespace Sys2Proof.Machine

/-! ## Power (R419, R420) -/

/-- A command at the head of a queue has its waits satisfied, or finds them met now. -/
def Tenant.mayGo (t : Tenant) (k : LQueue) : Bool :=
  k.cur.any fun h => (h.cmd.waits.zip (h.satisfied ++ List.replicate 4 false)).all fun w => w.2 || t.waitMet w.1

/-- A queue holds a command that the device has not read (R157), or one that it is about to dequeue; one that waits for events keeps no power
state (R419). DEDUCED (log 77). -/
def Tenant.unread (t : Tenant) (k : LQueue) : Bool := k.head != k.tail && !(k.head + 1 == k.tail && k.cur.isSome && !t.mayGo k)

/-- A plot is resident or pending; one that a SAVE holds is neither (R370). -/
def Plot.wantsCores (p : Plot) : Bool := p.st != .done && !(p.waits && p.hold)

/-- The device may leave A0: no plot is resident or pending, no command, delivery, merge or retrain in progress, no command unread. -/
def State.deviceIdle (s : State) : Bool :=
  (s.launches.all fun l => (l.plots.all fun p => !p.wantsCores) && ((s.logOf l.id).isEmpty || l.plots.any fun p => p.st != .done)) &&
  (s.allCores.all fun c => c.cmds.isEmpty) &&
  (s.engines.all fun e => (e.run.all fun r => r.phase == .stepping) && e.pending.isEmpty) &&
  (s.slices.all fun q => q.2.pass.isNone) &&
  (s.brambles.all fun b => b.retraining.isNone) && s.mgmt.retrain.isNone &&
  s.tenants.all fun e => !e.2.active || e.2.queues.all fun q => !e.2.unread q.2

/-- POWER_STATE_ENTER (R419). DEDUCED (log 77). -/
def execPowerStateEnter (s : State) : Host.Outcome State Fault Refusal :=
  event (if s.mgmt.power == .at 0 && s.deviceIdle then s.setPower (.at s.deepest) else s)

/-- POWER_WAKE (R419). -/
def execPowerWake (s : State) : Host.Outcome State Fault Refusal := event s.wakePower

/-- POWER_EXIT_COMPLETE (R419, R420). -/
def execPowerExitComplete (s : State) : Host.Outcome State Fault Refusal :=
  match s.mgmt.power with
  | .exiting d => event (s.setPower (.at d))
  | .at _ => event s

/-- LATUS_WRITE (R419): a state that is too deep now is left for the deepest allowed. -/
def execLatusWrite (t : Nat) (v : BitVec 32) (s : State) : Host.Outcome State Fault Refusal :=
  if 63 < t || !(s.tenantAt t).writable then event s
  else event (State.fitPower (s.modTenant t fun n => { n with latUs := v }))

/-! ## Bring-up and firmware (R417, R421) -/

/-- POWER_GOOD (R421). In PHASE 0, steps 1 and 2: `ok` says that the firmware verifies, and the module shows PHASE 1; else ROM recovery waits for
an image from the host, with FAILSTEP 1. In PHASE 1, once an image runs, steps 3 to 7: `dies` are usable, `failStep` is the step of 3 to 6 that
left a die unusable last, `bad` are the cores whose self-test fails. DEDUCED (log 78). -/
def execPowerGood (ok : Bool) (dies : BitVec 4) (failStep : Nat) (bad : List Loc) (s : State) : Host.Outcome State Fault Refusal :=
  let m := s.mgmt
  if m.phase = 0 then
    let m1 : Mgmt := if ok then { m with phase := 1, chain := Config.bootElements.foldl extend 0, fwVersion := Config.bootVersion }
      else { m with phase := 1, failStep := 1, fwDead := true }
    event (State.irqPf { s with mgmt := m1 } 0)
  else if m.phase = 1 && !m.fwDead && (dies = 15 || (3 ≤ failStep && failStep ≤ 6)) then
    let m1 : Mgmt := { m with
      diesOk := dies, failStep := if dies = 15 then m.failStep else BitVec.ofNat 4 failStep, fenced := bad, phase := if dies = 0 then 3 else 2 }
    event (State.irqPf { s with mgmt := m1 } 0)
  else event s

/-- An assist is in progress on some core (R417 step 3, R139). -/
def State.assisting (s : State) : Bool := s.allCores.any fun c => match c.prog with
  | some (.assist done) => !done
  | _ => false

/-- The bytes of the image that an update checks (R417): the staged one, in the memory reserved to firmware; where the running image has failed,
the one that the host gives ROM recovery. DESIGN CHOICE (log 116). -/
def State.newImage (s : State) : List Byte :=
  if s.mgmt.fwDead then Config.hostImage s.mgmt.fwTried else s.mem.readN Config.stagedAt.1 Config.stagedAt.2

/-- The device chain once a new image runs (R413, R417): extended with it; where the boot has measured nothing, because its own image did not
verify, with the microcode and the calibration tables after it. -/
def Mgmt.measured (m : Mgmt) (image : List Byte) : BitVec 384 :=
  if m.phase = 1 && m.failStep = 1 && m.chain = 0 then (image :: Config.bootElements.tail).foldl extend 0 else extend m.chain image

/-- FIRMWARE_SWITCH (R417), at a quiescent point: the image must verify, and its security version must not lie below the running one; a failed
verification, of bytes that are no image too, or a failed switch leaves the running image in place and sets the update status to failed. ROM
recovery verifies an image in the same way. DESIGN CHOICE (log 116). -/
def execFirmwareSwitch (s : State) : Host.Outcome State Fault Refusal :=
  let m := s.mgmt
  let failed : Mgmt := { m with fwTried := m.fwTried + 1, fwFailed := true }
  if s.assisting && !m.fwDead then event s
  else
    let m1 : Mgmt := match Config.openFirmware m.fwTried s.newImage with
      | none => failed
      | some f =>
        if f.verified && f.switches && !f.version.ult m.fwVersion then
          { m with fwTried := m.fwTried + 1, fwFailed := false, fwDead := false, fwVersion := f.version, chain := m.measured s.newImage, epoch := m.epoch + 1 }
        else failed
    event (State.irqPf { s with mgmt := m1 } 2)

/-! ## Fencing and drains (R118, R423, R425) -/

/-- Pre-empt every plot whose rectangle a test picks. -/
def State.preemptWhere (s : State) (f : Rect → Bool) : State :=
  (s.busyRects.filter f).foldl (fun (s : State) (r : Rect) => s.preempt r.lid r.plot false) s

/-- A core is found faulty (R118, R425): a plot on it is saved first. -/
def State.fence (s : State) (l : Loc) : State :=
  if l.kind ≠ .compute || s.mgmt.fenced.contains l || s.mgmt.fencing.contains l then s
  else
    let s1 := s.preemptWhere fun r => inRect r.d r.x r.y r.w r.h l
    State.fenceFree { s1 with mgmt := { s1.mgmt with fencing := s1.mgmt.fencing ++ [l] } }

/-- CORE_FENCE (R118, R425). -/
def execCoreFence (l : Loc) (s : State) : Host.Outcome State Fault Refusal := event (s.fence l)

/-- MGMTCMD as written: ARG, DIE, CMD (R422). -/
def mgmtWord (arg die cmd : Nat) : BitVec 12 := BitVec.ofNat 12 (arg % 16 * 256 + die % 4 * 16 + cmd)

/-- MGMTCMD holds what is written to it while no command is in progress, whatever its CMD then does (R422). -/
def State.mgmtKeep (s : State) (arg die cmd : Nat) : State :=
  if s.mgmt.busy then s else { s with mgmt := { s.mgmt with cmd := mgmtWord arg die cmd } }

/-- A management command, ignored while BUSY. DEDUCED (log 76). -/
def State.mgmtStart (s : State) (arg die cmd : Nat) (f : State → State) : State :=
  if s.mgmt.busy then s else f { s with mgmt := { s.mgmt with cmd := mgmtWord arg die cmd, busy := true } }

/-- MGMT_DRAIN (R423). -/
def execMgmtDrain (m : MgmtTarget) (s : State) : Host.Outcome State Fault Refusal :=
  event (if 3 < m.die then s
    else s.mgmtStart m.arg m.die 1 fun s => (s.modDie m.die fun d => { d with drained := true }).preemptWhere fun r => r.d == m.die)

/-- MGMT_REINIT_RETURN (R423): the self-test of step 5 of R421 finds the cores `bad` faulty; placement reopens. -/
def execMgmtReinitReturn (m : MgmtTarget) (bad : List (Nat × Nat)) (s : State) : Host.Outcome State Fault Refusal :=
  event (if 3 < m.die then s else s.mgmtStart m.arg m.die 2 fun s =>
    (bad.foldl (fun (s : State) (p : Nat × Nat) => s.fence { kind := .compute, die := m.die, x := p.1, y := p.2 }) s).modDie m.die fun d =>
      { d with drained := false })

/-! ### Retraining a memory channel (R424) -/

/-- A page's lines on a channel, in bytes, at most: an eighth of a GDDR-7 page, a quarter of an LPDDR-6 page. -/
def TlbEntry.chanBytes (e : TlbEntry) : Nat := if isGddr (ptePfn e.pte) then e.size / 8 else e.size / 4

/-- A page has lines homed on a die, on a channel of it. -/
def TlbEntry.onChannel (e : TlbEntry) (die ch : Nat) : Bool :=
  let pa := ptePfn e.pte
  (if isGddr pa then ch < 8 else isLpddr pa && 8 ≤ ch) &&
    if pteHpin e.pte then pteHome e.pte == die else e.size != 0x1000 && e.size != 0x10000 || (List.range (e.size / 4096)).any fun i => foldDie (pa + 4096 * i) == die

/-- The pages of every tenant that a channel's retraining takes. -/
def State.chanSites (s : State) (die ch : Nat) : List LeafSite :=
  s.tenants.flatMap fun t => (s.sites die t.1).filter fun e => e.leaf.onChannel die ch

/-- The next batch: at most 1 GiB of the channel's lines, and at least one page. -/
def takeBatch : Nat → List LeafSite → List LeafSite × List LeafSite
  | _, [] => ([], [])
  | used, e :: r => if used + e.leaf.chanBytes ≤ 2 ^ 30 then ((takeBatch (used + e.leaf.chanBytes) r).map (e :: ·) id) else ([], e :: r)

/-- Every entry of a leaf is, as the table holds it now, a word. -/
def State.siteIs (s : State) (e : LeafSite) (w : W64) : Bool :=
  e.ats.all fun at_ => w64 (leNat ((List.range 8).map fun i => s.mem.read (at_ + i))) == w

/-- Firmware writes the entries of a leaf (R243). -/
def State.putLeaf (s : State) (e : LeafSite) (w : W64) : State :=
  e.ats.foldl (fun (s : State) (at_ : Nat) => s.enterM none at_ (natBytes 8 w.toNat) none none) s

/-- The LOCK bit of an entry. -/
def lockBit : W64 := 0x40

/-- TLBINVs for the pages of a batch, made on a die, with what they wait for. -/
def State.invalidateAll (s : State) (d : Nat) (es : List LeafSite) : State × List (Loc × Nat) × List (Nat × Nat) :=
  es.foldl (fun (a : State × List (Loc × Nat) × List (Nat × Nat)) (e : LeafSite) =>
    let (t, ops, pages) := a.1.invalidate d (some e.leaf.tenant) (some e.leaf.va)
    (t, a.2.1 ++ ops, a.2.2 ++ pages)) (s, [], [])

def State.setRetrain (s : State) (r : Option Retrain) : State := { s with mgmt := { s.mgmt with retrain := r } }

/-- The next move of a channel's retraining, R247's sequence for one batch after the other: the leaves locked, and TLBINV; once that is
complete, the batch's lines on the channel stand pinned in the die's stack, the channel retrains, and the leaves are restored, and TLBINV; once
that is complete, the lines are unpinned and the next batch begins. A leaf that has changed before its batch, or since it was locked, is left
as it is. -/
def State.retrainMove (s : State) (r : Retrain) : State :=
  if s.tlbinvWaits r.ops r.pages then s
  else if r.batch.isEmpty then
    let (now, later) := takeBatch 0 (r.todo.filter fun e => s.siteIs e e.leaf.pte)
    if now.isEmpty then s.setRetrain none
    else
      let s1 := now.foldl (fun (s : State) (e : LeafSite) => s.putLeaf e (e.leaf.pte ||| lockBit)) s
      let (s2, ops, pages) := s1.invalidateAll r.die now
      s2.setRetrain (some { r with todo := later, batch := now, ops := ops, pages := pages })
  else if !r.copied then s.setRetrain (some { r with copied := true })
  else if !r.restored then
    let s1 := r.batch.foldl (fun (s : State) (e : LeafSite) => if s.siteIs e (e.leaf.pte ||| lockBit) then s.putLeaf e e.leaf.pte else s) s
    let (s2, ops, pages) := s1.invalidateAll r.die r.batch
    s2.setRetrain (some { r with restored := true, ops := ops, pages := pages })
  else s.setRetrain (some { r with batch := [], copied := false, restored := false, ops := [], pages := [] })

/-- A channel's retraining at its start. -/
def State.startRetrain (s : State) (die ch : Nat) : Retrain :=
  { die := die, ch := ch, todo := s.chanSites die ch, batch := [], copied := false, restored := false, ops := [], pages := [] }

/-- MGMT_RETRAIN_CHANNEL (R424): one channel at a time; the batches follow while the command is in progress. DEDUCED (log 76). -/
def execMgmtRetrainChannel (die ch : Nat) (s : State) : Host.Outcome State Fault Refusal :=
  event (if 3 < die || 15 < ch then s
    else if 11 < ch then s.mgmtKeep ch die 3
    else s.mgmtStart ch die 3 fun s => s.setRetrain (some (s.startRetrain die ch)))

/-! ## Bramble links (R386 to R389) -/

def State.modBramble (s : State) (k : Nat) (f : Bramble → Bramble) : State :=
  match s.brambles[k]? with
  | some b => { s with brambles := s.brambles.setIfInBounds k (f b) }
  | none => s

/-- A link begins to retrain (R389). -/
def State.retrainLink (s : State) (k : Nat) : State :=
  s.modBramble k fun b => { b with retraining := b.retraining.or (some s.cycle) }

/-- Two dies share a link (R386). -/
def linked (a b : Nat) : Bool := a != b && a < 4 && b < 4 && (a / 2 == b / 2 || a % 2 == b % 2)

/-- MGMT_RETRAIN_BRAMBLE (R389, R422). -/
def execMgmtRetrainBramble (die toward : Nat) (s : State) : Host.Outcome State Fault Refusal :=
  event (if linked die toward then s.mgmtStart toward die 4 fun s => s.retrainLink (linkNo die toward)
    else if die < 4 && toward < 16 then s.mgmtKeep toward die 4 else s)

/-- BRAMBLE_RETRAIN (R389). -/
def execBrambleRetrain (k : Nat) (s : State) : Host.Outcome State Fault Refusal := event (s.retrainLink k)

/-- BRAMBLE_RETRAIN_DONE (R389): the link carries its paths again, and what it held goes on. -/
def execBrambleRetrainDone (k : Nat) (s : State) : Host.Outcome State Fault Refusal :=
  event (s.modBramble k fun _ => { retraining := none, down := false }).settleAll

/-! ### Channels that break (R393) -/

/-- The place of a launch-relative index. -/
def State.placeOfIndex (s : State) (lid i : Nat) : Place :=
  match s.launchAt lid with
  | some l => { launch := lid, plot := i / l.area, px := i % l.area % l.cmd.w, py := i % l.area / l.cmd.w }
  | none => { launch := lid, plot := 0, px := 0, py := 0 }

/-- A channel: launch, ring number, producer and consumer. -/
structure Chan where
  lid : Nat
  h : Nat
  prod : Nat
  cons : Nat
deriving DecidableEq, Repr

/-- The channel a message belongs to, and whether a link holds it. -/
def State.msgChan (s : State) (k : Nat) (m : Msg) : Option (Chan × Bool) :=
  match m with
  | .chanData lid i h src _ _ d => (s.threadOf (s.placeOfIndex lid i)).map fun c =>
      ({ lid := lid, h := h, prod := src, cons := i }, (s.pathOf d c.loc.die).contains k)
  | .ringPtr lid i h _ d => (s.threadOf (s.placeOfIndex lid i)).bind fun c => (s.chanPeer c h false).map fun q =>
      ({ lid := lid, h := h, prod := i, cons := q.2 }, (s.pathOf d c.loc.die).contains k)
  | _ => none

/-- An end of a channel that breaks: latched once (R362), its bytes and the producer's T set by `f`. -/
def Core.breakRing (c : Core) (h : Nat) (f : Ring → Ring) : Core :=
  { c with rings := c.rings.setIfInBounds h { f (c.rings[h]?.getD Ring.start) with broken := true }
           chanbroken := if c.chanbroken.contains h then c.chanbroken else c.chanbroken ++ [h] }

/-- The bytes of a slot whose 64-byte elements were on their way: any mixture of old and new elements. -/
def Core.mixSlot (c : Core) (cycle : Nat) (h slot : Nat) (bs : List Byte) : Core :=
  let at_ := (c.rings[h]?.getD Ring.start).slotAt slot
  let mixed := (List.range bs.length).map fun j => if Config.mixture cycle (at_ + j / 64 * 64) then bs[j]?.getD 0 else c.lmem.read (at_ + j)
  { c with lmem := c.lmem.writeN at_ mixed }

/-- Break one channel. DEDUCED (log 74). -/
def State.breakChan (s : State) (q : Chan) : State :=
  let mine := fun (m : Msg) => match m with
    | .chanData lid i h _ _ _ _ => lid == q.lid && i == q.cons && h == q.h
    | .ringPtr lid i h _ _ => lid == q.lid && i == q.prod && h == q.h
    | _ => false
  let t := match s.threadOf (s.placeOfIndex q.lid q.cons) with
    | some c => (c.rings[q.h]?.getD Ring.start).t
    | none => 0
  let s1 := (s.msgs.filter mine).foldl (fun (s : State) (m : Msg) => match m with
    | .chanData _ _ _ _ slot bs _ => s.modThread (s.placeOfIndex q.lid q.cons) fun c => c.mixSlot s.cycle.toNat q.h slot bs
    | _ => s) { s with msgs := s.msgs.filter fun m => !mine m }
  (s1.modThread (s1.placeOfIndex q.lid q.cons) fun c => c.breakRing q.h id).modThread (s1.placeOfIndex q.lid q.prod) fun c => c.breakRing q.h fun r => { r with prodT := t }

/-- BRAMBLE_REROUTE (R389, R393): after 10 ms the link's paths go the other way round, and the channels it held break.
DEDUCED (log 75). -/
def execBrambleReroute (k : Nat) (s : State) : Host.Outcome State Fault Refusal :=
  match (s.brambles[k]?).bind Bramble.retraining with
  | some c0 =>
    if 10 * cyclesPerMs ≤ (s.cycle - c0).toNat then
      let held := (s.msgs.filterMap fun m => s.msgChan k m).filterMap fun e => if e.2 then some e.1 else none
      let s1 := held.eraseDups.foldl (fun (s : State) (q : Chan) => s.breakChan q) s
      event (s1.modBramble k fun _ => { retraining := none, down := true }).settleAll
    else event s
  | none => event s

/-! ## The end of a management command (R422) -/

/-- The command in progress has done its work. -/
def State.mgmtDone (s : State) : Bool :=
  let w := s.mgmt.cmd.toNat
  let die := w / 16 % 4
  if w % 16 = 1 then (s.busyRects.all fun r => r.d != die) && (List.range 16).all fun i => (s.sliceAt (16 * die + i)).inv.isNone
  else if w % 16 = 3 then s.mgmt.retrain.isNone
  else if w % 16 = 4 then (s.brambles[linkNo die (w / 256)]?).all fun b => b.retraining.isNone
  else true

/-- MGMT_COMMAND_COMPLETE (R422); a channel's retraining makes its next move first (R424). -/
def execMgmtCommandComplete (s : State) : Host.Outcome State Fault Refusal :=
  if s.mgmt.busy then
    match s.mgmt.retrain with
    | some r => event (s.retrainMove r)
    | none => event (if s.mgmtDone then State.irqPf { s with mgmt := { s.mgmt with busy := false } } 1 else s)
  else event s

/-- MACHINE_INTERRUPT (R384). DEDUCED (log 67). -/
def execMachineInterrupt (s : State) : Host.Outcome State Fault Refusal := event { s with mgmt := { s.mgmt with machineIrq := true } }

end Sys2Proof.Machine
end

