-- ==== Sys2Proof/Machine/VecMem.lean ====
section
/-! DEFINITION. Sys2Proof/Machine/VecMem.lean: vector memory access (R184 to R189). -/

namespace Sys2Proof.Machine

/-- The address of a vector memory form (R184). -/
def vaddr (s : State) (a : XReg) (off : BitVec 12) : W64 := s.x a + off.signExtend 64

/-- The checks on a local address, in the order of R184, and that the bytes lie in no stash region (R224). -/
def vlocal (s : State) (a : W64) (n al : Nat) (k : Res) : Res :=
  if 0x30000 ≤ a.toNat then protect a
  else if a.toNat % al ≠ 0 then misalign a
  else if s.core.inStash a.toNat n then protect a
  else k

/-- The format of the bank that holds an address, and SCALED (R18). -/
def Core.bankOf (c : Core) (a : Nat) : Nat × Bool :=
  let v := c.bankfmt[a / 0x4000]?.getD 0
  (bitsOf v 3 0, v.getLsbD 4)

/-- Bytes and alignment of 16 elements of a bank's format (R185). -/
def autoSize (fmt : Nat) : Nat × Nat :=
  match fmt with
  | 0 => (64, 64) | 1 | 2 => (32, 32) | 3 | 4 | 8 | 15 => (16, 16) | 5 | 6 => (12, 4) | _ => (8, 8)

/-- One element's bits decoded into a 32-bit lane; `pair` is the byte that holds an I4X element, `odd` which one (R185, R72). -/
def autoLoad (fmt bits pair : Nat) (odd : Bool) : Nat :=
  if fmt = 0 then bits
  else if fmt = 10 then let p := i4xPair pair; fround fF32 (if odd then p.2 else p.1)
  else if fmt = 15 then bits % 256
  else match fmtType fmt with
    | some (.flt f) => fround fF32 (fdec f bits)
    | some (.int w s) => intBits 32 (intDec w s bits)
    | none => bits

/-- One 32-bit lane encoded for a bank's format (R185). -/
def autoStore (fmt lane : Nat) : Nat :=
  if fmt = 0 then lane
  else match fmtType fmt with
    | some (.flt f) => fenc f .rne false 0 (fdec fF32 lane)
    | some (.int w _) => lane % 2 ^ w
    | none => lane % 256

/-- Formats `auto` cannot store (R185). -/
def autoNoStore (fmt : Nat) (scaled : Bool) : Bool := fmt == 7 || fmt == 10 || ((fmt == 3 || fmt == 4) && scaled)

/-- 16 elements of a byte string in a format, as lanes. -/
def autoLanes (fmt : Nat) (bs : List Byte) : List Nat :=
  let v := leNat bs
  let w := fmtBits fmt
  (List.range 16).map fun i => autoLoad fmt (v / 2 ^ (w * i) % 2 ^ w) (v / 2 ^ (8 * (i / 2)) % 256) (i % 2 == 1)

/-- Store bytes at a local address. -/
def State.storeLocal (s : State) (a : Nat) (bs : List Byte) : State := s.onCore fun c => { c with lmem := c.lmem.writeN a bs }

/-- The bank-format access of VLDL and VSTL `auto`: bytes, alignment, one bank, then the access. -/
def autoAccess (s : State) (a : W64) (k : State → Nat → Nat → Res) : Res :=
  if 0x30000 ≤ a.toNat then protect a
  else
    let (fmt, _) := s.core.bankOf a.toNat
    let (n, al) := autoSize fmt
    vlocal s a n al (
      if a.toNat / 0x4000 ≠ (a.toNat + n - 1) / 0x4000 then usage s
      else withAssist s (fmt = 5 || fmt = 6) fun s => k s fmt n)

/-- VLDL (R185). -/
def execVldl (d : VOp) (a : XReg) (t : MType) (off : BitVec 12) (c : Ctl) (s : State) : Host.Outcome State Fault Refusal :=
  run c s fun s =>
    let at_ := vaddr s a off
    namePorts s [d] (match t with
      | .ty _ => vlocal s at_ 64 64 (vectorOp s [] d (fun _ _ => toV512 (s.core.readLmem at_.toNat 64)) fun _ s1 =>
          s1.noteBad at_.toNat 64)
      | .auto => autoAccess s at_ fun s fmt n =>
          vectorOp s [] d (fun _ _ => ofLanes 32 (autoLanes fmt (s.core.readLmem at_.toNat n))) fun _ s1 =>
            s1.noteBad at_.toNat n)

/-- VSTL (R185). -/
def execVstl (d : VOp) (a : XReg) (t : MType) (off : BitVec 12) (c : Ctl) (s : State) : Host.Outcome State Fault Refusal :=
  run c s fun s =>
    let at_ := vaddr s a off
    namePorts s [d] (match t with
      | .ty _ => vlocal s at_ 64 64 (vectorTo s [d] fun vs s1 => s1.storeLocal at_.toNat (natBytes 64 (src0 vs).toNat))
      | .auto => autoAccess s at_ fun s fmt n =>
          if autoNoStore fmt (s.core.bankOf at_.toNat).2 then usage s
          else vectorTo s [d] fun vs s1 =>
            s1.storeLocal at_.toNat (natBytes n (packLanes (fmtBits fmt) (((lanesOf 32 (src0 vs))).map (autoStore fmt)))))

/-! ## Strided, gathered and scattered elements (R171, R186, R187) -/

/-- The first lane whose element fails: MISALIGN against `w`, then PROTECT, `info` being what XINFO1 names. DEDUCED (log 43). -/
def laneCheck (s : State) (w : Nat) : List (Nat × Nat × Nat) → Option Res
  | [] => none
  | (lane, info, a) :: r =>
    if a % w ≠ 0 then some (trapLane 0x07 lane 0 (w64 a))
    else if 0x30000 ≤ a || s.core.inStash a w then some (trapLane 0x09 lane (w64 info) (w64 a))
    else laneCheck s w r

/-- The element addresses of a strided access (R186). -/
def stridedAddrs (s : State) (a : W64) (b : XReg) (t : VType) : List Nat :=
  (List.range (VType.lanes t)).map fun i => (a + w64 i * s.x b).toNat

/-- The checks of a strided access. -/
def strided (s : State) (a : W64) (b : XReg) (t : VType) (k : List Nat → Res) : Res :=
  let w := VType.bits t / 8
  let as_ := stridedAddrs s a b t
  vlocal s a w w (match laneCheck s w ((List.range as_.length).zip (as_.map fun x => (0, x))) with
    | some r => r
    | none => k as_)

/-- VLDLS (R186). -/
def execVldls (d : VOp) (a b : XReg) (t : VType) (off : BitVec 12) (c : Ctl) (s : State) : Host.Outcome State Fault Refusal :=
  run c s fun s => namePorts s [d] (strided s (vaddr s a off) b t fun as_ =>
    let w := VType.bits t / 8
    vectorOp s [] d (fun _ _ => ofLanes (8 * w) (as_.map fun x => leNat (s.core.readLmem x w))) fun _ s1 =>
      as_.foldl (fun (s : State) (x : Nat) => s.noteBad x w) s1)

/-- VSTLS (R186): in ascending lane order. -/
def execVstls (d : VOp) (a b : XReg) (t : VType) (off : BitVec 12) (c : Ctl) (s : State) : Host.Outcome State Fault Refusal :=
  run c s fun s => namePorts s [d] (strided s (vaddr s a off) b t fun as_ =>
    let w := VType.bits t / 8
    vectorTo s [d] fun vs s1 => (as_.zip (lanesOf (8 * w) (src0 vs))).foldl (fun s e => s.storeLocal e.1 (natBytes w e.2)) s1)

/-- How a gather's element is found: bits per element, and its format; none where the bank's format is a 6-bit one. -/
def gatherFmt (s : State) (a : W64) (t : MType) : Option (Nat × Option Nat) :=
  match t with
  | .ty v => some (VType.bits v, none)
  | .auto =>
    let f := (s.core.bankOf a.toNat).1
    if f = 5 || f = 6 then none else some (fmtBits f, some f)

/-- The byte and the nibble of element `idx` (R187). -/
def elemAt (a bits idx : Nat) : Nat × Bool := if bits = 4 then (a + idx / 2, idx % 2 == 1) else (a + idx * (bits / 8), false)

/-- The checks of a gather or scatter, in order. -/
def gather (s : State) (a : W64) (ix : BitVec 5) (t : MType) (k : Nat → Option Nat → List (Nat × Bool) → Res) : Res :=
  if 0x30000 ≤ a.toNat then protect a
  else match gatherFmt s a t with
    | none => usage s
    | some (bits, fmt) =>
      let e := if bits = 4 then 1 else bits / 8
      if a.toNat % e ≠ 0 then misalign a
      else
        let idx := (List.range 16).map fun i => laneOf 32 (s.core.getV ix) i
        let es := idx.map fun i => elemAt a.toNat bits i
        match laneCheck s e ((List.range 16).zip (idx.zip (es.map Prod.fst))) with
        | some r => r
        | none => k bits fmt es

/-- A gathered element in a 32-bit lane (R187). -/
def gatherLane (t : MType) (fmt : Option Nat) (bits : Nat) (odd : Bool) : Nat :=
  match fmt, t with
  | some f, _ => autoLoad f (if fmtBits f = 4 then (if odd then bits / 16 else bits % 16) else bits) bits odd
  | none, .ty .f16 => fround fF32 (fdec fF16 bits)
  | none, .ty .bf16 => fround fF32 (fdec fBF16 bits)
  | none, .ty .i16 => intBits 32 (intDec 16 true bits)
  | none, .ty .i8 => intBits 32 (intDec 8 true bits)
  | none, _ => bits

/-- VGATL (R187). -/
def execVgatl (d : VOp) (a : XReg) (ix : BitVec 5) (t : MType) (off : BitVec 12) (c : Ctl) (s : State) :
    Host.Outcome State Fault Refusal :=
  run c s fun s => namePorts s [d] (gather s (vaddr s a off) ix t fun bits fmt es =>
    let n := (bits + 7) / 8
    vectorOp s [] d (fun _ _ => ofLanes 32 (es.map fun e => gatherLane t fmt (leNat (s.core.readLmem e.1 n)) e.2)) fun _ s1 =>
      es.foldl (fun (s : State) e => s.noteBad e.1 n) s1)

/-- A scattered lane's bits (R187). -/
def scatterBits (t : MType) (fmt : Option Nat) (lane : Nat) : Nat :=
  match fmt, t with
  | some f, _ => autoStore f lane
  | none, .ty .f16 => fround fF16 (fdec fF32 lane)
  | none, .ty .bf16 => fround fBF16 (fdec fF32 lane)
  | none, .ty v => lane % 2 ^ VType.bits v
  | none, .auto => lane

/-- Write one scattered element: bytes, or one nibble of a byte. -/
def State.scatterOne (s : State) (bits : Nat) (e : Nat × Bool) (v : Nat) : State :=
  if bits = 4 then
    let old := (s.core.lmem.read e.1).toNat
    s.storeLocal e.1 [BitVec.ofNat 8 (if e.2 then old % 16 + 16 * v else old / 16 * 16 + v)]
  else s.storeLocal e.1 (natBytes (bits / 8) v)

/-- VSCATL (R187). Where the bank's format has no store encode, the lanes' checks come before that usage fault. DEDUCED (log 43). -/
def execVscatl (d : VOp) (a : XReg) (ix : BitVec 5) (t : MType) (off : BitVec 12) (c : Ctl) (s : State) :
    Host.Outcome State Fault Refusal :=
  run c s fun s => namePorts s [d] (gather s (vaddr s a off) ix t fun bits fmt es =>
    if fmt.any fun f => autoNoStore f (s.core.bankOf (vaddr s a off).toNat).2 then usage s
    else vectorTo s [d] fun vs s1 =>
      (es.zip (lanesOf 32 (src0 vs))).foldl (fun s e => s.scatterOne bits e.1 (scatterBits t fmt e.2)) s1)

/-! ## Global vector access (R188) -/

/-- A VLD whose data is still on its way to a port. -/
def Core.loadingPort (c : Core) : Bool := c.pq.any fun o => match o.kind with
  | .load (.port _) => true
  | _ => false

/-- The push of a port or null destination once its data has returned. -/
def pushData (s : State) (d : VOp) : Res :=
  match s.core.prog with
  | some (.portData w) => bindPort s (writeV s d w) fun s1 => .ok s1
  | _ => .hold s

/-- VLD: into a register like any load; to a port or null the thread is held until the word has been pushed. -/
def execVld (d : VOp) (a : XReg) (_t : VType) (off : BitVec 12) (c : Ctl) (s : State) : Host.Outcome State Fault Refusal :=
  run c s fun s => namePorts s [d] (
    if (match s.core.prog with | some (.portData _) => true | _ => false) || s.core.loadingPort then pushData s d
    else
      let va := vaddr s a off
      globalAccess s va 64 Access.read fun pa pte =>
        let s1 := s.access va pa pte .read (hintOf c)
        let mk := fun (dst : LoadDst) (pos : Nat) =>
          ({ pos := pos, kind := .load dst, va := va.toNat, pa := pa, n := 64, acq := false, rel := false, scope := .core,
             key := pteKey pte, req := s.sent s1 } : Op)
        match d with
        | .reg r => .ok (s1.issueOp (mk (.v r)))
        | _ => pushData (s1.issueOp (mk (.port d))) d)

/-- VST: a port source is popped when the store issues. -/
def execVst (d : VOp) (a : XReg) (_t : VType) (off : BitVec 12) (c : Ctl) (s : State) : Host.Outcome State Fault Refusal :=
  run c s fun s => namePorts s [d] (
    let va := vaddr s a off
    globalAccess s va 64 Access.store fun pa pte =>
      bindPort s (readV s d) fun r =>
        let s1 := r.2.access va pa pte .partialWrite (hintOf c)
        .ok (s1.issueStore fun pos =>
          { pos := pos, va := va.toNat, pa := pa, data := natBytes 64 r.1.toNat, scope := .sys, rel := false, key := pteKey pte,
            req := r.2.sent s1, log := none }))

end Sys2Proof.Machine
end

