-- ==== Sys2Proof/Machine/Dispatch.lean ====
section
/-! DEFINITION. Sys2Proof/Machine/Dispatch.lean: one arm per instruction and event, each a call of its meaning. -/

namespace Sys2Proof.Machine

/-- What each instruction and event does. -/
def exec (i : Instr) (s : State) : Host.Outcome State Fault Refusal :=
  match i with
  | .nop c => Sys2Proof.Machine.execNop c s
  | .halt code c => Sys2Proof.Machine.execHalt code c s
  | .add w d b a c => Sys2Proof.Machine.execAdd w d b a c s
  | .sub w d b a c => Sys2Proof.Machine.execSub w d b a c s
  | .and w d b a c => Sys2Proof.Machine.execAnd w d b a c s
  | .or w d b a c => Sys2Proof.Machine.execOr w d b a c s
  | .xor w d b a c => Sys2Proof.Machine.execXor w d b a c s
  | .andn w d b a c => Sys2Proof.Machine.execAndn w d b a c s
  | .shl w d b a c => Sys2Proof.Machine.execShl w d b a c s
  | .shr w d b a c => Sys2Proof.Machine.execShr w d b a c s
  | .sar w d b a c => Sys2Proof.Machine.execSar w d b a c s
  | .rot w d b a c => Sys2Proof.Machine.execRot w d b a c s
  | .min w d b a c => Sys2Proof.Machine.execMin w d b a c s
  | .max w d b a c => Sys2Proof.Machine.execMax w d b a c s
  | .minn w d b a c => Sys2Proof.Machine.execMinn w d b a c s
  | .maxn w d b a c => Sys2Proof.Machine.execMaxn w d b a c s
  | .addi d a im c => Sys2Proof.Machine.execAddi d a im c s
  | .andi d a im c => Sys2Proof.Machine.execAndi d a im c s
  | .ori d a im c => Sys2Proof.Machine.execOri d a im c s
  | .xori d a im c => Sys2Proof.Machine.execXori d a im c s
  | .shli d a n c => Sys2Proof.Machine.execShli d a n c s
  | .shri d a n c => Sys2Proof.Machine.execShri d a n c s
  | .sari d a n c => Sys2Proof.Machine.execSari d a n c s
  | .roti d a n c => Sys2Proof.Machine.execRoti d a n c s
  | .li d im c => Sys2Proof.Machine.execLi d im c s
  | .lic d a k im c => Sys2Proof.Machine.execLic d a k im c s
  | .mul d b a c => Sys2Proof.Machine.execMul d b a c s
  | .mulh d b a c => Sys2Proof.Machine.execMulh d b a c s
  | .mulhn d b a c => Sys2Proof.Machine.execMulhn d b a c s
  | .div d b a c => Sys2Proof.Machine.execDiv d b a c s
  | .divn d b a c => Sys2Proof.Machine.execDivn d b a c s
  | .rem d b a c => Sys2Proof.Machine.execRem d b a c s
  | .remn d b a c => Sys2Proof.Machine.execRemn d b a c s
  | .clz d a c => Sys2Proof.Machine.execClz d a c s
  | .ctz d a c => Sys2Proof.Machine.execCtz d a c s
  | .popc d a c => Sys2Proof.Machine.execPopc d a c s
  | .brev d a c => Sys2Proof.Machine.execBrev d a c s
  | .bswap d a c => Sys2Proof.Machine.execBswap d a c s
  | .bfx d a pos width c => Sys2Proof.Machine.execBfx d a pos width c s
  | .bfxs d a pos width c => Sys2Proof.Machine.execBfxs d a pos width c s
  | .bfi d b a pos width c => Sys2Proof.Machine.execBfi d b a pos width c s
  | .cmp d cc b a c => Sys2Proof.Machine.execCmp d cc b a c s
  | .cmpi d cc a im c => Sys2Proof.Machine.execCmpi d cc a im c s
  | .gand d b a c => Sys2Proof.Machine.execGand d b a c s
  | .gor d b a c => Sys2Proof.Machine.execGor d b a c s
  | .gxor d b a c => Sys2Proof.Machine.execGxor d b a c s
  | .gandn d b a c => Sys2Proof.Machine.execGandn d b a c s
  | .sel d b a g c => Sys2Proof.Machine.execSel d b a g c s
  | .gtox d c => Sys2Proof.Machine.execGtox d c s
  | .xtog a c => Sys2Proof.Machine.execXtog a c s
  | .ldl d a sz off c => Sys2Proof.Machine.execLdl d a sz off c s
  | .stl d a sz off c => Sys2Proof.Machine.execStl d a sz off c s
  | .ld d a sz off c => Sys2Proof.Machine.execLd d a sz off c s
  | .st d a sz off c => Sys2Proof.Machine.execSt d a sz off c s
  | .fadd t d b a c => Sys2Proof.Machine.execFadd t d b a c s
  | .fsub t d b a c => Sys2Proof.Machine.execFsub t d b a c s
  | .fmul t d b a c => Sys2Proof.Machine.execFmul t d b a c s
  | .fdiv t d b a c => Sys2Proof.Machine.execFdiv t d b a c s
  | .fsqrt t d a c => Sys2Proof.Machine.execFsqrt t d a c s
  | .fmin t d b a c => Sys2Proof.Machine.execFmin t d b a c s
  | .fmax t d b a c => Sys2Proof.Machine.execFmax t d b a c s
  | .fabs t d a c => Sys2Proof.Machine.execFabs t d a c s
  | .fneg t d a c => Sys2Proof.Machine.execFneg t d a c s
  | .fclass t d a c => Sys2Proof.Machine.execFclass t d a c s
  | .fma t d e b a c => Sys2Proof.Machine.execFma t d e b a c s
  | .fms t d e b a c => Sys2Proof.Machine.execFms t d e b a c s
  | .fnma t d e b a c => Sys2Proof.Machine.execFnma t d e b a c s
  | .fnms t d e b a c => Sys2Proof.Machine.execFnms t d e b a c s
  | .fcmp d t cc b a c => Sys2Proof.Machine.execFcmp d t cc b a c s
  | .fcvt d a src dst rm sat c => Sys2Proof.Machine.execFcvt d a src dst rm sat c s
  | .br g im c => Sys2Proof.Machine.execBr g im c s
  | .jmp off c => Sys2Proof.Machine.execJmp off c s
  | .call off c => Sys2Proof.Machine.execCall off c s
  | .jr a c => Sys2Proof.Machine.execJr a c s
  | .callr a c => Sys2Proof.Machine.execCallr a c s
  | .loop d im c => Sys2Proof.Machine.execLoop d im c s
  | .svc code c => Sys2Proof.Machine.execSvc code c s
  | .brk code c => Sys2Proof.Machine.execBrk code c s
  | .vadd d b a t m c => Sys2Proof.Machine.execVadd d b a t m c s
  | .vsub d b a t m c => Sys2Proof.Machine.execVsub d b a t m c s
  | .vmul d b a t m c => Sys2Proof.Machine.execVmul d b a t m c s
  | .vmin d b a t m c => Sys2Proof.Machine.execVmin d b a t m c s
  | .vmax d b a t m c => Sys2Proof.Machine.execVmax d b a t m c s
  | .vabs d a t m c => Sys2Proof.Machine.execVabs d a t m c s
  | .vneg d a t m c => Sys2Proof.Machine.execVneg d a t m c s
  | .vadds d b a t m c => Sys2Proof.Machine.execVadds d b a t m c s
  | .vsubs d b a t m c => Sys2Proof.Machine.execVsubs d b a t m c s
  | .vfma d e b a t m c => Sys2Proof.Machine.execVfma d e b a t m c s
  | .vfms d e b a t m c => Sys2Proof.Machine.execVfms d e b a t m c s
  | .vfnma d e b a t m c => Sys2Proof.Machine.execVfnma d e b a t m c s
  | .vand d b a t m c => Sys2Proof.Machine.execVand d b a t m c s
  | .vor d b a t m c => Sys2Proof.Machine.execVor d b a t m c s
  | .vxor d b a t m c => Sys2Proof.Machine.execVxor d b a t m c s
  | .vandn d b a t m c => Sys2Proof.Machine.execVandn d b a t m c s
  | .vshl d b a t m c => Sys2Proof.Machine.execVshl d b a t m c s
  | .vshr d b a t m c => Sys2Proof.Machine.execVshr d b a t m c s
  | .vsar d b a t m c => Sys2Proof.Machine.execVsar d b a t m c s
  | .vcmp d cc b a t m c => Sys2Proof.Machine.execVcmp d cc b a t m c s
  | .vsel d b a k t m c => Sys2Proof.Machine.execVsel d b a k t m c s
  | .vexp2 d a m c => Sys2Proof.Machine.execVexp2 d a m c s
  | .vlog2 d a m c => Sys2Proof.Machine.execVlog2 d a m c s
  | .vrcp d a m c => Sys2Proof.Machine.execVrcp d a m c s
  | .vrsq d a m c => Sys2Proof.Machine.execVrsq d a m c s
  | .vsqrt d a m c => Sys2Proof.Machine.execVsqrt d a m c s
  | .vcvt d a sp dp src dst rm sat c => Sys2Proof.Machine.execVcvt d a sp dp src dst rm sat c s
  | .vredadd d a rm t m c => Sys2Proof.Machine.execVredadd d a rm t m c s
  | .vredmin d a t m c => Sys2Proof.Machine.execVredmin d a t m c s
  | .vredmax d a t m c => Sys2Proof.Machine.execVredmax d a t m c s
  | .vscanadd d a b rm t m c => Sys2Proof.Machine.execVscanadd d a b rm t m c s
  | .vbcast d t a c => Sys2Proof.Machine.execVbcast d t a c s
  | .vextr d b a c => Sys2Proof.Machine.execVextr d b a c s
  | .vins d b a c => Sys2Proof.Machine.execVins d b a c s
  | .vldl d a t off c => Sys2Proof.Machine.execVldl d a t off c s
  | .vstl d a t off c => Sys2Proof.Machine.execVstl d a t off c s
  | .vldls d a b t off c => Sys2Proof.Machine.execVldls d a b t off c s
  | .vstls d a b t off c => Sys2Proof.Machine.execVstls d a b t off c s
  | .vgatl d a ix t off c => Sys2Proof.Machine.execVgatl d a ix t off c s
  | .vscatl d a ix t off c => Sys2Proof.Machine.execVscatl d a ix t off c s
  | .vld d a t off c => Sys2Proof.Machine.execVld d a t off c s
  | .vst d a t off c => Sys2Proof.Machine.execVst d a t off c s
  | .vperm d e b a t m c => Sys2Proof.Machine.execVperm d e b a t m c s
  | .vdot4 d e b a m c => Sys2Proof.Machine.execVdot4 d e b a m c s
  | .vdot4n d e b a m c => Sys2Proof.Machine.execVdot4n d e b a m c s
  | .visect d e b a k c => Sys2Proof.Machine.execVisect d e b a k c s
  | .vcprs d a b t k c => Sys2Proof.Machine.execVcprs d a b t k c s
  | .vhdrP d a b c => Sys2Proof.Machine.execVhdrP d a b c s
  | .vhdrA d e a b c => Sys2Proof.Machine.execVhdrA d e a b c s
  | .vmov d a c => Sys2Proof.Machine.execVmov d a c s
  | .vfwd d a b c => Sys2Proof.Machine.execVfwd d a b c s
  | .scfgRead q a c => Sys2Proof.Machine.execScfgRead q a c s
  | .scfgWrite q a c => Sys2Proof.Machine.execScfgWrite q a c s
  | .scfgStop q b c => Sys2Proof.Machine.execScfgStop q b c s
  | .rep a n stag c => Sys2Proof.Machine.execRep a n stag c s
  | .whopos d c => Sys2Proof.Machine.execWhopos d c s
  | .whodim d c => Sys2Proof.Machine.execWhodim d c s
  | .whocore d c => Sys2Proof.Machine.execWhocore d c s
  | .whoplot d c => Sys2Proof.Machine.execWhoplot d c s
  | .wholaunch d c => Sys2Proof.Machine.execWholaunch d c s
  | .gang ht wd c => Sys2Proof.Machine.execGang ht wd c s
  | .split c => Sys2Proof.Machine.execSplit c s
  | .barInit b a c => Sys2Proof.Machine.execBarInit b a c s
  | .barArrive a c => Sys2Proof.Machine.execBarArrive a c s
  | .barWait a c => Sys2Proof.Machine.execBarWait a c s
  | .barSync a c => Sys2Proof.Machine.execBarSync a c s
  | .evtSig b a c => Sys2Proof.Machine.execEvtSig b a c s
  | .evtWait b a c => Sys2Proof.Machine.execEvtWait b a c s
  | .evtTest d b a c => Sys2Proof.Machine.execEvtTest d b a c s
  | .sstep c => Sys2Proof.Machine.execSstep c s
  | .stageNext d a c => Sys2Proof.Machine.execStageNext d a c s
  | .stageAdv a c => Sys2Proof.Machine.execStageAdv a c s
  | .stageWaitl a c => Sys2Proof.Machine.execStageWaitl a c s
  | .stageEnd c => Sys2Proof.Machine.execStageEnd c s
  | .yield c => Sys2Proof.Machine.execYield c s
  | .lda d a sz sc c => Sys2Proof.Machine.execLda d a sz sc c s
  | .strl d a sz sc c => Sys2Proof.Machine.execStrl d a sz sc c s
  | .fence sc k c => Sys2Proof.Machine.execFence sc k c s
  | .amo op d b a w64 o sc c => Sys2Proof.Machine.execAmo op d b a w64 o sc c s
  | .cas d e b a w64 o sc c => Sys2Proof.Machine.execCas d e b a w64 o sc c s
  | .log op b a t c => Sys2Proof.Machine.execLog op b a t c s
  | .monarm a c => Sys2Proof.Machine.execMonarm a c s
  | .mwait d a c => Sys2Proof.Machine.execMwait d a c s
  | .mdisarm c => Sys2Proof.Machine.execMdisarm c s
  | .pref own a im c => Sys2Proof.Machine.execPref own a im c s
  | .stashMap r b a c => Sys2Proof.Machine.execStashMap r b a c s
  | .stashClean r c => Sys2Proof.Machine.execStashClean r c s
  | .stashDrop r c => Sys2Proof.Machine.execStashDrop r c s
  | .ringInit h b a c => Sys2Proof.Machine.execRingInit h b a c s
  | .ringRsv h a c => Sys2Proof.Machine.execRingRsv h a c s
  | .ringWait h a c => Sys2Proof.Machine.execRingWait h a c s
  | .ringAdvp h a c => Sys2Proof.Machine.execRingAdvp h a c s
  | .ringAdvc h a c => Sys2Proof.Machine.execRingAdvc h a c s
  | .ringPtr d h c => Sys2Proof.Machine.execRingPtr d h c s
  | .winInit w b a c => Sys2Proof.Machine.execWinInit w b a c s
  | .winPub w c => Sys2Proof.Machine.execWinPub w c s
  | .winBack d w c => Sys2Proof.Machine.execWinBack d w c s
  | .winFront d w c => Sys2Proof.Machine.execWinFront d w c s
  | .ifence sc c => Sys2Proof.Machine.execIfence sc c s
  | .cclean b a c => Sys2Proof.Machine.execCclean b a c s
  | .cinv b a c => Sys2Proof.Machine.execCinv b a c s
  | .bankfSet b a c => Sys2Proof.Machine.execBankfSet b a c s
  | .bankfGet d a c => Sys2Proof.Machine.execBankfGet d a c s
  | .lnkOpen dir a b e f c => Sys2Proof.Machine.execLnkOpen dir a b e f c s
  | .lnkClose dir c => Sys2Proof.Machine.execLnkClose dir c s
  | .lnkWait w c => Sys2Proof.Machine.execLnkWait w c s
  | .lnkStat a dir c => Sys2Proof.Machine.execLnkStat a dir c s
  | .lnkCancel dir c => Sys2Proof.Machine.execLnkCancel dir c s
  | .xcopy k a b e dir dfmt sfmt c => Sys2Proof.Machine.execXcopy k a b e dir dfmt sfmt c s
  | .getx k a ix e m esz c => Sys2Proof.Machine.execGetx k a ix e m esz c s
  | .placex k a ix e m esz c => Sys2Proof.Machine.execPlacex k a ix e m esz c s
  | .ccntWait k a c => Sys2Proof.Machine.execCcntWait k a c s
  | .ccntRd d k c => Sys2Proof.Machine.execCcntRd d k c s
  | .ccntSet k a c => Sys2Proof.Machine.execCcntSet k a c s
  | .compact k w b e f c => Sys2Proof.Machine.execCompact k w b e f c s
  | .keyq a c => Sys2Proof.Machine.execKeyq a c s
  | .keyg a c => Sys2Proof.Machine.execKeyg a c s
  | .chanSend h a c => Sys2Proof.Machine.execChanSend h a c s
  | .chanRecv h a c => Sys2Proof.Machine.execChanRecv h a c s
  | .slmsg k a b e c => Sys2Proof.Machine.execSlmsg k a b e c s
  | .shLineX d b a c => Sys2Proof.Machine.execShLineX d b a c s
  | .shLineF n a c => Sys2Proof.Machine.execShLineF n a c s
  | .shPref a c => Sys2Proof.Machine.execShPref a c s
  | .shReply a c => Sys2Proof.Machine.execShReply a c s
  | .shFwdMem b a c => Sys2Proof.Machine.execShFwdMem b a c s
  | .shFwdAcc b c => Sys2Proof.Machine.execShFwdAcc b c s
  | .shDone c => Sys2Proof.Machine.execShDone c s
  | .sfma c => Sys2Proof.Machine.execSfma c s
  | .eret c => Sys2Proof.Machine.execEret c s
  | .sysRd d r c => Sys2Proof.Machine.execSysRd d r c s
  | .sysWr a r c => Sys2Proof.Machine.execSysWr a r c s
  | .tlbinvPage a c => Sys2Proof.Machine.execTlbinvPage a c s
  | .tlbinvTenant c => Sys2Proof.Machine.execTlbinvTenant c s
  | .tlbinvAll c => Sys2Proof.Machine.execTlbinvAll c s
  | .ctxSave b a c => Sys2Proof.Machine.execCtxSave b a c s
  | .ctxLoad b a c => Sys2Proof.Machine.execCtxLoad b a c s
  | .wfi c => Sys2Proof.Machine.execWfi c s
  | .ldred d a b g k inB outB c => Sys2Proof.Machine.execLdred d a b g k inB outB c s
  | .grpSet k b a c => Sys2Proof.Machine.execGrpSet k b a c s
  | .grpClr k c => Sys2Proof.Machine.execGrpClr k c s
  | .fp6Assist l => Sys2Proof.Machine.execFp6Assist l s
  | .wordLand l d => Sys2Proof.Machine.execWordLand l d s
  | .gangHoldTimeout l => Sys2Proof.Machine.execGangHoldTimeout l s
  | .barrierFiringArrive l b => Sys2Proof.Machine.execBarrierFiringArrive l b s
  | .eventSignalApply l => Sys2Proof.Machine.execEventSignalApply l s
  | .eventActivate t e => Sys2Proof.Machine.execEventActivate t e s
  | .eventWake t e => Sys2Proof.Machine.execEventWake t e s
  | .superstepAdvance lid => Sys2Proof.Machine.execSuperstepAdvance lid s
  | .stageUpdateArrive l => Sys2Proof.Machine.execStageUpdateArrive l s
  | .iterationEndArrive l => Sys2Proof.Machine.execIterationEndArrive l s
  | .logCreditGrant l sl => Sys2Proof.Machine.execLogCreditGrant l sl s
  | .mwaitTimeout l => Sys2Proof.Machine.execMwaitTimeout l s
  | .stashRecall l r entry inval => Sys2Proof.Machine.execStashRecall l r entry inval s
  | .ringPointerLand l h => Sys2Proof.Machine.execRingPointerLand l h s
  | .windowToggle l w => Sys2Proof.Machine.execWindowToggle l w s
  | .loadSatisfy l pos => Sys2Proof.Machine.execLoadSatisfy l pos s
  | .storeLeave l pos => Sys2Proof.Machine.execStoreLeave l pos s
  | .dieBufferDrain die k => Sys2Proof.Machine.execDieBufferDrain die k s
  | .hostDeliver => Sys2Proof.Machine.execHostDeliver s
  | .atomicPerform l pos => Sys2Proof.Machine.execAtomicPerform l pos s
  | .monarmSatisfy l pos => Sys2Proof.Machine.execMonarmSatisfy l pos s
  | .engineCommandStart l id => Sys2Proof.Machine.execEngineCommandStart l id s
  | .engineRead l id => Sys2Proof.Machine.execEngineRead l id s
  | .engineProduce l id => Sys2Proof.Machine.execEngineProduce l id s
  | .engineApply l id => Sys2Proof.Machine.execEngineApply l id s
  | .engineCount l id => Sys2Proof.Machine.execEngineCount l id s
  | .logMerge lid => Sys2Proof.Machine.execLogMerge lid s
  | .sliceRequestArrive sl id => Sys2Proof.Machine.execSliceRequestArrive sl id s
  | .sliceRequestBegin sl => Sys2Proof.Machine.execSliceRequestBegin sl s
  | .sliceDataReturn sl id => Sys2Proof.Machine.execSliceDataReturn sl id s
  | .tokenRefill sl => Sys2Proof.Machine.execTokenRefill sl s
  | .combineReply sl line => Sys2Proof.Machine.execCombineReply sl line s
  | .waymaskDrain sl t => Sys2Proof.Machine.execWaymaskDrain sl t s
  | .pageWalkComplete l va acc => Sys2Proof.Machine.execPageWalkComplete l va acc s
  | .patrolScrub line bad => Sys2Proof.Machine.execPatrolScrub line bad s
  | .linkOpenLand l d => Sys2Proof.Machine.execLinkOpenLand l d s
  | .engineStart l horiz => Sys2Proof.Machine.execEngineStart l horiz s
  | .linkCloseLand l d => Sys2Proof.Machine.execLinkCloseLand l d s
  | .directFeedPush l d => Sys2Proof.Machine.execDirectFeedPush l d s
  | .engineStep l horiz => Sys2Proof.Machine.execEngineStep l horiz s
  | .tileDrainBegin l horiz => Sys2Proof.Machine.execTileDrainBegin l horiz s
  | .tileElementApply l horiz => Sys2Proof.Machine.execTileElementApply l horiz s
  | .deliveryCount l horiz => Sys2Proof.Machine.execDeliveryCount l horiz s
  | .linkWatchdog l d => Sys2Proof.Machine.execLinkWatchdog l d s
  | .chanElementsLand l h => Sys2Proof.Machine.execChanElementsLand l h s
  | .sliceTrigger sl t tr line req => Sys2Proof.Machine.execSliceTrigger sl t tr line req s
  | .sliceInvocationStart sl => Sys2Proof.Machine.execSliceInvocationStart sl s
  | .sliceBudgetOverrun sl => Sys2Proof.Machine.execSliceBudgetOverrun sl s
  | .ldredRequestArrive l => Sys2Proof.Machine.execLdredRequestArrive l s
  | .ldredWindowExpiry k => Sys2Proof.Machine.execLdredWindowExpiry k s
  | .ldredResultArrive l => Sys2Proof.Machine.execLdredResultArrive l s
  | .asyncTrapTake l => Sys2Proof.Machine.execAsyncTrapTake l s
  | .faultRecordPost t => Sys2Proof.Machine.execFaultRecordPost t s
  | .lqtailWrite t q v => Sys2Proof.Machine.execLqtailWrite t q v s
  | .launchQueueHead t q => Sys2Proof.Machine.execLaunchQueueHead t q s
  | .launchReadRetry t q => Sys2Proof.Machine.execLaunchReadRetry t q s
  | .launchDequeue t q => Sys2Proof.Machine.execLaunchDequeue t q s
  | .schedulerPass => Sys2Proof.Machine.execSchedulerPass s
  | .plotLoadComplete lid p => Sys2Proof.Machine.execPlotLoadComplete lid p s
  | .timeSliceExpiry lid p => Sys2Proof.Machine.execTimeSliceExpiry lid p s
  | .plotSaveComplete lid p => Sys2Proof.Machine.execPlotSaveComplete lid p s
  | .launchComplete lid => Sys2Proof.Machine.execLaunchComplete lid s
  | .supcmdResume t launch core => Sys2Proof.Machine.execSupcmdResume t launch core s
  | .supcmdSave t launch core => Sys2Proof.Machine.execSupcmdSave t launch core s
  | .supcmdTerminate t who => Sys2Proof.Machine.execSupcmdTerminate t who s
  | .terminationComplete lid => Sys2Proof.Machine.execTerminationComplete lid s
  | .evsigWrite t name amt => Sys2Proof.Machine.execEvsigWrite t name amt s
  | .fqheadWrite t v => Sys2Proof.Machine.execFqheadWrite t v s
  | .irqpendWrite fn v => Sys2Proof.Machine.execIrqpendWrite fn v s
  | .qbindBind t v => Sys2Proof.Machine.execQbindBind t v s
  | .qbindUnbind t => Sys2Proof.Machine.execQbindUnbind t s
  | .quinceKeysLoaded unit slot => Sys2Proof.Machine.execQuinceKeysLoaded unit slot s
  | .hstatWrite t v => Sys2Proof.Machine.execHstatWrite t v s
  | .attestReport t nonce => Sys2Proof.Machine.execAttestReport t nonce s
  | .keyImport t blob => Sys2Proof.Machine.execKeyImport t blob s
  | .realmForm t blob => Sys2Proof.Machine.execRealmForm t blob s
  | .revocation t blob => Sys2Proof.Machine.execRevocation t blob s
  | .peerWrite t p v => Sys2Proof.Machine.execPeerWrite t p v s
  | .scaleoutFrame t p frame => Sys2Proof.Machine.execScaleoutFrame t p frame s
  | .granuleOwnerWrite g v => Sys2Proof.Machine.execGranuleOwnerWrite g v s
  | .granuleScrubDone g => Sys2Proof.Machine.execGranuleScrubDone g s
  | .flr t => Sys2Proof.Machine.execFlr t s
  | .latusWrite t v => Sys2Proof.Machine.execLatusWrite t v s
  | .registerWrite fn off v => Sys2Proof.Machine.execRegisterWrite fn off v s
  | .mgmtDrain m => Sys2Proof.Machine.execMgmtDrain m s
  | .mgmtReinitReturn m bad => Sys2Proof.Machine.execMgmtReinitReturn m bad s
  | .mgmtRetrainChannel die ch => Sys2Proof.Machine.execMgmtRetrainChannel die ch s
  | .mgmtRetrainBramble die toward => Sys2Proof.Machine.execMgmtRetrainBramble die toward s
  | .mgmtCommandComplete => Sys2Proof.Machine.execMgmtCommandComplete s
  | .brambleRetrain k => Sys2Proof.Machine.execBrambleRetrain k s
  | .brambleRetrainDone k => Sys2Proof.Machine.execBrambleRetrainDone k s
  | .brambleReroute k => Sys2Proof.Machine.execBrambleReroute k s
  | .coreFence l => Sys2Proof.Machine.execCoreFence l s
  | .firmwareSwitch => Sys2Proof.Machine.execFirmwareSwitch s
  | .powerStateEnter => Sys2Proof.Machine.execPowerStateEnter s
  | .powerWake => Sys2Proof.Machine.execPowerWake s
  | .powerExitComplete => Sys2Proof.Machine.execPowerExitComplete s
  | .powerGood ok dies failStep bad => Sys2Proof.Machine.execPowerGood ok dies failStep bad s
  | .machineInterrupt => Sys2Proof.Machine.execMachineInterrupt s
  | .tenantEnWrite t dies en => Sys2Proof.Machine.execTenantEnWrite t dies en s
  | .hostBar2Access t va data n => Sys2Proof.Machine.execHostBar2Access t va data n s

end Sys2Proof.Machine
end

