-- ==== Sys2Proof/Machine/Issue.lean ====
section
/-! DEFINITION. Sys2Proof/Machine/Issue.lean: what the looked-at thread does next (R20, R21, R65, R201, R203, R362): a latched trap, a
fetch that cannot be made, an instruction that is none, a wait for an operand, or an instruction to execute. -/

namespace Sys2Proof.Machine

/-- A slice core's invocation has spent its budget, and issues nothing more (R351). -/
def State.overBudget (s : State) (c : Core) : Bool :=
  c.loc.kind == .slice && (s.sliceAt (sliceNo c.loc)).inv.any fun v => v.spent c s.cycle

/-- The thread may try its next instruction: it runs, waits for no page walk, DELAY is over (R58), and a slice core's budget is not. -/
def State.canIssue (s : State) (c : Core) : Bool :=
  c.run == .running && (c.place.all fun p => s.placeRuns p) && c.walk.isNone && c.slowUntil.ule s.cycle && !s.overBudget c

/-- A register that an instruction names is still to be written by a load or an atomic that has not been satisfied (R20). -/
def Core.hazard (c : Core) (i : Instr) : Bool :=
  c.pq.any fun o => match o.kind with
    | .load (.x d _) => d != 0 && (xregs i).contains d
    | .load (.v d) => (vregs i).contains d
    | .atomic _ d => d != 0 && (xregs i).contains d
    | _ => false

/-- What comes next: an instruction with the state it is executed in, or a state. -/
inductive Next where
  | instr (i : Instr) (s : State)
  | other (s : State)

/-- A fetch that gives no instruction (R21, R361, R369). -/
def State.fetchFails (s : State) : Fetched → State
  | .trap t => s.takeTrap t
  | .stall code level va => s.takeStall s.core.loc code level Access.code va
  | .walk va => s.onCore fun c => { c with walk := some (va, Access.code) }
  | .wait => s
  | .poisoned base => s.onCore fun c => c.latchUncorrected 3 base 0
  | .instr _ _ => s

/-- The budget of an invocation counts from its first instruction (R351). -/
def State.startBudget (s : State) : State :=
  if s.core.loc.kind = .slice then
    s.modSlice (sliceNo s.core.loc) fun q => { q with inv := q.inv.map fun v => { v with start := v.start.or (some s.cycle) } }
  else s

/-- The state an instruction is executed in: its words and NextSeq are latched, and while it is held it is not fetched again. -/
def State.latched (s : State) (ir : Ir) (npc : W64) : State :=
  (s.onCore fun c => { c with ir := ir, npc := npc, kept := some c.pc }).startBudget

/-- What an instruction's fetch does beside giving its words (R224, R267, R368): nothing where its line stands at the thread (R291). -/
def State.fetched (s : State) : State := if s.core.stands then s else (s.readCode s.core (lineBase s.core.pc)).noteLine

/-- A captured instruction as its run reads it (R201). -/
def Core.asRun (c : Core) (ir : Ir) (i : Instr) : Instr := if ir.captured then stagger (BitVec.ofNat 5 c.repOfs) i else i

/-- An instruction meets a parity error in its registers or its pipeline (R369): the thread's registers and guards are free values, and
UNCORRECTED is latched. DESIGN CHOICE (log 108). -/
def State.lostRegs (s : State) : State :=
  if s.core.regBad then
    let n := s.cycle.toNat
    s.onCore fun c => { c with regBad := false, x := Vector.ofFn fun (i : Fin 32) => Config.lostX n i.val, g := Config.lostG n ||| 1,
                               v := Vector.ofFn fun (i : Fin 32) => Config.lostV n i.val,
                               m := Vector.ofFn fun (i : Fin 8) => Config.lostM n i.val }.latchUncorrected 2 0 0
  else s

/-- Steps 1 to 6 of R65 on fetched words. An image made invalid (R366) and a repetition state that is none (R203) are usage faults of
the first instruction. -/
def State.decoded (s : State) (ir : Ir) (npc : W64) : Next :=
  let t := s.latched ir npc
  if s.core.prog = some .badImage || (ir.captured && !s.core.repOk) then
    .other (State.takeTrap (t.onCore fun c => { c with prog := none }) (illegal t.core 9))
  else match decode s.core.loc.kind ir.head ir.tail with
    | .error e => .other (t.takeTrap (illegal t.core e.step))
    | .ok i => if s.core.hazard (s.core.asRun ir i) then .other s else .instr (s.core.asRun ir i) t.lostRegs

/-- What the looked-at thread does next. A poisoned code line latches UNCORRECTED, which the thread takes before the instruction that it
could not read (R362, R369). A captured instruction is not fetched again (R200). -/
def State.nextInstr (s : State) : Next :=
  match s.takeAsync s.core.loc with
  | some t => .other t
  | none => match s.core.capture? with
    | some k =>
      (s.onCore fun c => { c with pc := k.pc }).decoded { head := k.head, tail := k.tail, line := k.line, words := [], captured := true } k.next
    | none => match s.blockPc s.core with
      | .error f => .other (s.fetchFails f)
      | .ok pc =>
        let s1 := (s.blockFound s.core).onCore fun c => { c with pc := pc }
        if s1.fetchPoisoned s1.core then .other (s1.onCore fun c => c.latchUncorrected 3 (lineBase c.pc) 0)
        else match s1.fetch s1.core with
        | .instr ir npc => s1.fetched.decoded ir npc
        | f => .other (s1.fetchFails f)

/-! ## The main stream beside a repetition block (R202) -/

/-- The opcodes of the main-stream instructions that may issue before the last run of a block ends. -/
def aheadOp (op : Nat) : Bool := (2 ≤ op && op ≤ 0x0F) || (0x14 ≤ op && op ≤ 0x19)

/-- An instruction reads and writes no x register or guard that a captured instruction of the block names. -/
def Core.aheadFree (c : Core) (i : Instr) : Bool :=
  c.captures.all fun k => match decode c.loc.kind k.head k.tail with
    | .ok j => ((xregs i).all fun x => !(xregs j).contains x) && (guardRegs i).all fun g => !(guardRegs j).contains g
    | .error _ => false

/-- The thread as its main stream stands while the runs of a block proceed: at REPMPC, outside the block. -/
def Core.mainStream (c : Core) : Core :=
  { c with pc := c.sys.repmpc, inRep := false, kept := none, held := false, prog := none, portSince := none }

/-- The thread in its block again, after an instruction of the main stream: `old` is what it was, `next` where the main stream goes on. -/
def Core.backInBlock (c old : Core) (next : W64) : Core :=
  { c with pc := old.pc, npc := old.npc, ir := old.ir, kept := old.kept, held := old.held, prog := old.prog, portSince := old.portSince, inRep := true,
           sys := { c.sys with repmpc := next } }

/-- The instruction that the main stream of the looked-at thread may issue beside a block (R202), with the state it is executed in and NextSeq:
one that its fetch and its decoding give, of an eligible opcode, free of the block, and with no operand to wait for. -/
def State.aheadInstr (s : State) : Option (Instr × State × W64) :=
  let s1 := s.onCore Core.mainStream
  if !s.canIssue s.core || s.core.capture?.isNone || s.core.regBad || (s.takeAsync s.core.loc).isSome || s1.fetchPoisoned s1.core then none
  else match s1.fetch s1.core with
    | .instr ir npc => match decode s.core.loc.kind ir.head ir.tail with
      | .ok i => if aheadOp (headOP ir.head).toNat && s.core.aheadFree i && !s.core.hazard i then some (i, s1.fetched.latched ir npc, npc) else none
      | .error _ => none
    | _ => none

/-- An instruction of the main stream issues beside a block (R202), if it may and completes; what does not waits for the last run. DEDUCED
(log 72). -/
def State.aheadTurn (s : State) : State :=
  match s.aheadInstr with
  | some (i, t, npc) => match exec i t with
    | .next u =>
      if u.core.pc == npc && u.core.run == .running && !u.core.held && u.core.sys.intrap == s.core.sys.intrap then
        u.onCore fun c => c.backInBlock s.core npc
      else s
    | _ => s
  | none => s

/-- The looked-at thread's turn. -/
def State.issueTurn (s : State) : Host.Outcome State Fault Refusal :=
  match s.nextInstr with
  | .instr i t => exec i t
  | .other t => .next t

end Sys2Proof.Machine
end

