-- ==== Sys2Proof/Machine/Background.lean ====
section
/-! DEFINITION. Sys2Proof/Machine/Background.lean: the events that may happen by themselves in a state, from which a step without an agenda
takes one. Events whose cause is outside the machine (a register write, a fault of the hardware, a command, an expiry whose length the
manual does not fix) happen only from the agenda. -/

namespace Sys2Proof.Machine

/-- One move of the machine (R251): an event, another core being looked at, or the next instruction of a core's thread, if it may issue. An
agenda entry that is no event does nothing. -/
def State.move (s : State) : Move → Host.Outcome State Fault Refusal
  | .ev i => if i.isEvent then exec i s else .next s
  | .focus l => .next (s.focus l)
  | .issue l => if (s.focus l).canIssue (s.focus l).core then (s.focus l).issueTurn else .next (s.focus l)
  | .ahead l => .next (s.focus l).aheadTurn

/-- What a move does. -/
abbrev Act := State → Host.Outcome State Fault Refusal

/-- A move where a condition holds. -/
def when_ (b : Bool) (a : Act) : List Act := if b then [a] else []

/-- The moves of an event that something waits for (R139). -/
def State.eventMoves (s : State) (t e : Nat) : List Act := when_ (!s.isActive t e) (execEventActivate t e) ++ [execEventWake t e]

/-- The moves of one core's queues, ports, commands and waits. -/
def State.coreMoves (s : State) (c : Core) : List Act :=
  (c.pq.flatMap fun o => match o.kind with
    | .load _ => when_ (s.opReady c o).isSome (execLoadSatisfy c.loc o.pos)
    | .atomic _ _ => when_ (s.opReady c o).isSome (execAtomicPerform c.loc o.pos)
    | .monarm => when_ (s.opReady c o).isSome (execMonarmSatisfy c.loc o.pos)
    | .fence _ => []) ++
  (c.sb.flatMap fun t => when_ (s.leaving c t).isSome (execStoreLeave c.loc t.pos)) ++
  (match c.walk with
    | some (va, acc) => when_ (((s.walks c.loc.die).take 32).contains (c.tenantNo, va / 4096)) (execPageWalkComplete c.loc va acc)
    | none => []) ++
  when_ (!c.sigs.isEmpty) (execEventSignalApply c.loc) ++
  (dirs.flatMap fun d =>
    when_ ((c.fifoOf d).any fun w => !w.landed) (execWordLand c.loc d) ++
    when_ (c.port d).feed.isSome (execDirectFeedPush c.loc d)) ++
  (c.cmds.flatMap fun m =>
    if !m.started then [execEngineCommandStart c.loc m.id]
    else [(execEngineRead c.loc m.id), (execEngineProduce c.loc m.id)] ++ when_ (!m.eq.isEmpty) (execEngineApply c.loc m.id) ++
      when_ m.done (execEngineCount c.loc m.id)) ++
  (match c.prog with
    | some (.credit sl) => [execLogCreditGrant c.loc sl]
    | some (.winPub w _ _) => [execWindowToggle c.loc w]
    | some (.assist false) => [execFp6Assist c.loc]
    | some (.evtWaiting e _) => s.eventMoves c.tenantNo e
    | _ => []) ++
  when_ (!c.stage.msgs.isEmpty) (execStageUpdateArrive c.loc) ++
  when_ (0 < c.stage.ends) (execIterationEndArrive c.loc) ++
  when_ c.capture?.isSome (fun s => .next (s.focus c.loc).aheadTurn) ++
  when_ (c.run == .running && c.nextAsync.isSome && c.place.all fun p => s.placeRuns p) (execAsyncTrapTake c.loc)

/-- The arrival of a message. -/
def State.msgMoves (s : State) (m : Msg) : List Act :=
  let at_ := fun (lid i : Nat) (f : Loc → Act) => match s.coreOfIndex lid i with
    | some c => [f c.loc]
    | none => []
  match m with
  | .redReq _ _ _ _ l _ _ _ _ _ => [execLdredRequestArrive l]
  | .redRes lid i _ _ _ _ => at_ lid i fun l => execLdredResultArrive l
  | .chanData lid i h _ _ _ _ => at_ lid i fun l => execChanElementsLand l h
  | .ringPtr lid i h _ _ => at_ lid i fun l => execRingPointerLand l h
  | .firing p b desc _ => (s.allCores.find? fun c => c.memberOf p desc).toList.map fun c => execBarrierFiringArrive c.loc b

/-- The recalls of the stash entries that a begun request waits for (R224). -/
def State.recallMoves (s : State) (r : Req) : List Act :=
  s.allCores.flatMap fun c => if r.recalls c then
    (List.range 4).flatMap fun i => match c.stashes[i]?.join with
      | some t => t.entries.flatMap fun e => when_ (e.line == r.line && (r.writes || e.owned)) (execStashRecall c.loc i e.idx r.writes)
      | none => []
    else []

/-- The moves of a slice request. -/
def State.reqMoves (s : State) (r : Req) : List Act :=
  let back := when_ (2 ≤ (s.cycle - r.at_).toNat) (execSliceDataReturn r.slice r.id)
  match r.st with
  | .transit => when_ ((r.waits.isNone || !s.portWaits r) && !s.outOfTurn r) (execSliceRequestArrive r.slice r.id)
  | .queued _ => when_ (s.mayBegin r.slice) (execSliceRequestBegin r.slice)
  | .joined => s.recallMoves r
  | .answered => when_ (!s.awaited r.id) (execSliceDataReturn r.slice r.id)
  | .evicting v => [execSliceTrigger r.slice r.tenant .evict v (some r.id)]
  | .missed => execSliceTrigger r.slice r.tenant .miss r.line (some r.id) :: back ++ s.recallMoves r
  | .filling => execSliceTrigger r.slice r.tenant .fill r.line (some r.id) :: back ++ s.recallMoves r
  | .begun | .filled => back ++ s.recallMoves r

/-- The moves of a slice. -/
def State.sliceMoves (s : State) (sl : Nat) (q : Slice) : List Act :=
  when_ (q.buckets.any fun b => b.rate != 0 && b.tokens < b.depth) (execTokenRefill sl) ++
  (q.combines.flatMap fun w => when_ (s.replyReady sl w) (execCombineReply sl w.line)) ++
  (q.lines.flatMap fun l => when_ (l.dirty && !(s.wayMask l.tenant sl).getLsbD l.way) (execWaymaskDrain sl l.tenant)) ++
  when_ (q.inv.isNone && q.pass.isNone && !q.trigs.isEmpty) (execSliceInvocationStart sl) ++
  when_ q.inv.isSome (execSliceBudgetOverrun sl)

/-- The moves of a link engine: opens and closes on their way, steps, drains and deliveries. -/
def LinkEngine.moves (e : LinkEngine) : List Act :=
  ([true, false].flatMap fun west =>
    let l := engineEnd e.ref e.horiz west
    let d := engineDir e.horiz west
    when_ ((e.side west).any fun o => !o.landed) (execLinkOpenLand l d) ++
      when_ ((e.side west).any fun o => o.closePos.isSome && !o.closed) (execLinkCloseLand l d)) ++
  (match e.run with
    | some r => when_ (!r.started) (execEngineStart e.ref e.horiz) ++ [(execEngineStep e.ref e.horiz), (execTileDrainBegin e.ref e.horiz), (execTileElementApply e.ref e.horiz)]
    | none => []) ++
  when_ (!e.pending.isEmpty) (execDeliveryCount e.ref e.horiz)

/-- A launch has entries or credits that a merge is to take, or is in one. -/
def State.toMerge (s : State) (l : Launch) : Bool :=
  !(s.logOf l.id).isEmpty || !l.credits.isEmpty || ((s.coresOf l.id).any fun c => !c.credits.isEmpty) || s.slices.any fun q => q.2.pass == some l.id

/-- The moves of a launch and its plots. -/
def State.launchMoves (s : State) (l : Launch) : List Act :=
  ((List.range l.plots.length).flatMap fun i => match l.plots[i]? with
    | some p => match p.st with
      | .loading _ _ _ => [execPlotLoadComplete l.id i]
      | .saving _ _ _ => [execPlotSaveComplete l.id i]
      | .resident _ _ _ =>
        when_ ((s.tenantAt l.tenant).sliceUs * 1200 ≤ (s.cycle - p.sliceStart).toNat) (execTimeSliceExpiry l.id i)
      | _ => []
    | none => []) ++
  when_ (s.toMerge l) (execLogMerge l.id) ++
  when_ ((s.coresOf l.id).any fun c => c.stage.stepEnded) (execSuperstepAdvance l.id) ++
  [if l.ending then execTerminationComplete l.id else execLaunchComplete l.id]

/-- The events that a queue's command still waits for. -/
def LQueue.waitEvents (k : LQueue) : List Nat := (k.cur.toList.flatMap fun h => h.cmd.waits.map fun w => w.1.toNat).filter k.waitsFor

/-- The moves of a tenant's queues. -/
def State.tenantMoves (s : State) (t : Nat) (n : Tenant) : List Act :=
  when_ (!n.records.isEmpty) (execFaultRecordPost t) ++
  n.queues.flatMap fun q =>
    (q.2.waitEvents.flatMap fun e => s.eventMoves t e) ++
    when_ (q.2.head != q.2.tail && q.2.cur.isNone) (execLaunchQueueHead t q.1) ++
    when_ q.2.blocked.isSome (execLaunchReadRetry t q.1) ++
    when_ (q.2.ready) (execLaunchDequeue t q.1)

/-- Every event that may happen by itself now. DEDUCED, DESIGN CHOICE (log 1, 38, 69). -/
def State.candidates (s : State) : List Act :=
  (s.allCores.flatMap s.coreMoves) ++ (s.msgs.flatMap s.msgMoves) ++ (s.reqs.flatMap s.reqMoves) ++
  (s.slices.flatMap fun e => s.sliceMoves e.1 e.2) ++ (s.engines.flatMap LinkEngine.moves) ++
  ((List.range 4).flatMap fun d => (List.range (s.dieAt d).db.length).map fun k => (execDieBufferDrain d k)) ++
  when_ (!s.ob.isEmpty || !s.hostWrites.isEmpty || s.hostReads.any fun r => r.wait = 0) execHostDeliver ++
  (s.launches.flatMap s.launchMoves) ++ (s.tenants.flatMap fun e => s.tenantMoves e.1 e.2) ++
  when_ (!s.items.isEmpty) execSchedulerPass ++
  ((List.range s.redWins.length).flatMap fun k => match s.redWins[k]? with
    | some w => when_ (w.closed.isNone && 4096 ≤ (s.cycle - w.opened).toNat) (execLdredWindowExpiry k)
    | none => []) ++
  (s.scrubbing.map fun g => (execGranuleScrubDone g)) ++
  (s.quince.flatMap fun e => when_ e.2.2.busy (execQuinceKeysLoaded e.1 e.2.1)) ++
  (match s.mgmt.power with
    | .exiting _ => [execPowerExitComplete]
    | .at a => when_ (a == 0 && s.mgmt.phase == 2 && s.deviceIdle) execPowerStateEnter ++ when_ (a != 0 && !s.deviceIdle) execPowerWake) ++
  when_ s.mgmt.busy execMgmtCommandComplete

/-- Look at the core that has waited longest among those that may issue. -/
def State.rotate (s : State) : State :=
  match s.cores.reverse.find? s.canIssue with
  | some c => s.focus c.loc
  | none => s

/-- The next value of the counter that chooses among the events that may happen (DESIGN CHOICE: the manual fixes no order among them;
the choice is spread, so that none waits for ever while the list of events keeps changing). -/
def spread (n : Nat) : Nat := (n * 1103515245 + 12345) % 2147483648

/-- One event that may happen by itself, chosen by the counter `rot`; then another core is looked at. -/
def State.backgroundTurn (s : State) : Host.Outcome State Fault Refusal :=
  let ms := s.candidates
  match ms[(s.rot / 2048) % ms.length]? with
  | some a => match a { s with rot := spread s.rot } with
    | .next t => .next t.rotate
    | stop => stop
  | none => .next { s with rot := spread s.rot }.rotate

end Sys2Proof.Machine
end

