-- ==== Sys2Proof/Machine/Place.lean ====
section
/-! DEFINITION. Sys2Proof/Machine/Place.lean: one move of the machine with its cycle, and an instruction put where the next step fetches. -/

namespace Sys2Proof.Machine

/-- A cycle passes. DESIGN CHOICE (log 3). -/
def afterMove : Host.Outcome State Fault Refusal → Host.Outcome State Fault Refusal
  | .next s => .next { s with cycle := s.cycle + 1 }
  | .fault f => .fault f
  | .refused r => .refused r

/-- The machine's next move: the agenda's, or the looked-at thread's turn and an event by itself in alternation. DESIGN CHOICE (log 1). -/
def State.turn (s : State) : Host.Outcome State Fault Refusal :=
  match s.agenda with
  | m :: r => State.move { s with agenda := r } m
  | [] =>
    if !s.background && s.canIssue s.core then State.issueTurn { s with background := true }
    else State.backgroundTurn { s with background := false }

/-! ## An instruction placed -/

/-- The byte address of the code line of a placed instruction. -/
def placedLine (k : CoreKind) : Nat := if k = .slice then 0 else 0x40000

/-- The kind of core a placed instruction runs on: slice cores for their opcodes, the control core for those of machine level. -/
def placedKind (ws : List Half) : CoreKind :=
  match ws with
  | [] => .compute
  | h :: t =>
    if headOP h == 0xB0 || headOP h == 0xB1 then .slice
    else match decode .control h (t ++ List.replicate (headTL h - t.length) 0) with
      | .ok (.tlbinvAll _) | .ok (.ctxSave _ _ _) | .ok (.ctxLoad _ _ _) | .ok (.wfi _) => .control
      | _ => .compute

/-- A code line of one instruction: the line word, the head, and the tail at the line's end (R52, R53). -/
def placedHalves (ws : List Half) : List Half :=
  match ws with
  | [] => []
  | h :: t =>
    let tail := (t ++ List.replicate (headTL h - t.length) 0).take (headTL h)
    [0x0001, h] ++ List.replicate (30 - tail.length) 0 ++ tail

def placedBytes (ws : List Half) : List Byte := (placedHalves ws).flatMap fun h => natBytes 2 h.toNat

/-- The thread that runs a placed instruction: it issues next, from a line of its own. -/
def Core.placed (c : Core) (ws : List Half) : Core :=
  let base := placedLine c.loc.kind
  let y : SysRegs := { c.sys with repstate := c.sys.repstate &&& 0x7FFFFFFFFFFFFFFF#64, tenant := 0 }
  { c with
    run := .running, codeBase := w64 base, codeLimit := w64 (base + 64), pc := w64 (base + 2), held := false, prog := none, sys := y,
    walk := none, pq := [], uncorrected := none, linkstall := [], chanbroken := [], slowUntil := 0, kept := none, inRep := false, captures := [], regBad := false, wordErr := [],
    tlb := [{ tenant := 0, va := 0x40000, size := 0x1000, pte := 0x4000F }],
    lmem := if c.loc.kind = .slice then c.lmem.writeN base (placedBytes ws) else c.lmem }

/-- A launch with one resident plot of one core, for a placed thread of a compute core. -/
def placedLaunch (id : Nat) : Launch :=
  let cmd := parseCommand (List.replicate 128 0)
  { id := id, tenant := 0, number := 0, queue := 0, slot := 0, cmd := { cmd with w := 1, h := 1, count := 1 }, count := 1, bound := [],
    image := [], table := { rings := [], groups := [], wins := [] }, age := 0,
    plots := [{ Plot.start 0 with st := .resident 0 0 0, home := some (0, 0, 0) }], exits := [], ending := false, credits := [] }

/-- A trigger and its handler, for a placed thread of a slice core. -/
def placedInvocation (ws : List Half) : Invocation :=
  let reg : SliceReg := { tenant := 0, launch := 0, kind := .miss, lo := 0, hi := 0x1000, pages := [], budget := 512, code := placedBytes ws, codeAt := 0,
                          dataAt := 64, dlen := 0, recent := [] }
  { trig := { tenant := 0, kind := .miss, line := 0, off := 0, reqId := none, requester := none, msg := [], from_ := none }, reg := reg, start := none,
    replied := false, f0 := none, f1 := none, f2 := 0 }

/-- The core a placed instruction runs on. -/
def placedLoc (k : CoreKind) : Loc := { kind := k, die := 0, x := 0, y := 0 }

/-- An instruction stored where the next step fetches it, and the thread, the launch or the invocation, the translation and the ownership
that the fetch needs. DESIGN CHOICE (log 2). -/
def State.placeWords (s : State) (ws : List Half) : State :=
  let k := placedKind ws
  let s1 := (s.focus (placedLoc k)).onCore fun c => c.placed ws
  let s2 := { s1 with agenda := [], background := false, stale := [], plan := [] }
  if k = .slice then s2.setInv 0 (some (placedInvocation ws))
  else
    let s3 := { s2 with
      mem := s2.mem.writeN 0x40000 (placedBytes ws), owners := tabSet s2.owners 0 0, keys := tabSet s2.keys 0 0,
      scrubbing := s2.scrubbing.filter (· ≠ 0), deadGranules := s2.deadGranules.filter (· ≠ 0),
      poison := s2.poison.filter (fun e => e.1 ≠ 0x40000), badLines := s2.badLines.filter (· ≠ 0x40000),
      sealed := s2.sealed.filter fun e => e.1 ≠ 0x40000 }
    if k = .compute then
      ({ s3 with launches := s3.launches ++ [placedLaunch s3.launchNo], launchNo := s3.launchNo + 1 }).onCore fun c =>
        { c with place := some { launch := s3.launchNo, plot := 0, px := 0, py := 0 } }
    else s3.onCore fun c => { c with place := none }

end Sys2Proof.Machine
end

