-- ==== Sys2Proof/Machine/Step.lean ====
section
/-! DEFINITION. Sys2Proof/Machine/Step.lean: one step of the machine, and an instruction placed for the next one. -/

namespace Sys2Proof.Machine

/-- One step: one move, and the cycle it takes. -/
def step (s : State) : Host.Outcome State Fault Refusal := afterMove s.turn

/-- `s` with an instruction of the opcode table stored where `step` fetches next. -/
def State.withFetchWord (s : State) (nbits w : Nat) : State := s.placeWords (tableWords nbits w)

end Sys2Proof.Machine
end

