-- ==== Sys2Proof/Safety.lean ====
section
/-! DEFINITION. Sys2Proof/Safety.lean: what counts as a safe run, and the vocabulary of the statements: how an instruction ends, as
states, and what a next state keeps of the state before. -/

namespace Sys2Proof.Machine

/-! ## Invariants and runs -/

/-- Device memory and the host's memory are in their canonical form. -/
def State.memWf (s : State) : Bool := s.mem.wf && s.host.wf

/-- Every local memory is in its canonical form: those of the cores, and those of the threads saved with a plot. -/
def State.localWf (s : State) : Bool :=
  (s.allCores.all fun c => c.lmem.wf) && s.launches.all fun l => l.plots.all fun p => p.threads.all fun c => c.lmem.wf

/-- A step goes on: it ends in a next state. -/
def goesOn (s : State) : Prop := ∃ t, step s = .next t

/-- `n` steps that all go on. -/
def safeFor : Nat → State → Prop
  | 0, _ => True
  | n + 1, s => ∃ t, step s = .next t ∧ safeFor n t

/-! ## How an instruction ends (R58, R65 steps 8 and 9) -/

/-- The instruction has completed: the thread goes on at NextSeq, or in its repetition block, and DELAY counts from here. -/
def State.ended (s : State) (c : Ctl) : State := s.advance.delayed c

/-- The instruction has transferred control to `pc`. -/
def State.went (s : State) (c : Ctl) (pc : W64) : State := (s.onCore fun k => k.jumpTo pc).delayed c

/-- The instruction has trapped, without an effect of its own. -/
def State.trapped (s : State) (c : Ctl) (t : TrapInfo) : State := (s.takeTrap t).delayed c

/-- The instruction is held, and is evaluated again. -/
def State.holding (s : State) (c : Ctl) : State := (s.onCore fun k => { k with held := true }).delayed c

/-! ## What a next state keeps -/

def keepsX (s t : State) (but : List XReg) : Prop := ∀ r, r ∉ but → t.x r = s.x r
def keepsG (s t : State) (but : List GReg) : Prop := ∀ r, r ∉ but → t.core.getG r = s.core.getG r
def keepsV (s t : State) (but : List (BitVec 5)) : Prop := ∀ r, r ∉ but → t.core.getV r = s.core.getV r
def keepsM (s t : State) (but : List (BitVec 3)) : Prop := ∀ r, r ∉ but → t.core.getM r = s.core.getM r

/-- Every system register but the position in a repetition block, and every bank format register. -/
def keepsSys (s t : State) : Prop :=
  t.core.sys = { s.core.sys with repstate := t.core.sys.repstate } ∧ t.core.bankfmt = s.core.bankfmt

/-- Streams, receiving FIFOs, ports, rings, windows, counters and stashes of the thread. -/
def keepsUnits (s t : State) : Prop :=
  t.core.streams = s.core.streams ∧ t.core.fifo = s.core.fifo ∧ t.core.ports = s.core.ports ∧ t.core.rings = s.core.rings ∧
    t.core.wins = s.core.wins ∧ t.core.ctrs = s.core.ctrs ∧ t.core.stashes = s.core.stashes

/-- Every byte of device memory and of the host's reads as before. -/
def keepsMem (s t : State) : Prop := (∀ a, t.mem.read a = s.mem.read a) ∧ ∀ a, t.host.read a = s.host.read a

/-- Every byte of memory outside `n` bytes at `pa`, written through key slot `k`, reads as before: through that slot, and in other lines
than `pa`'s whichever way it is read (R241); and every byte of the host's. -/
def keepsMemBut (s t : State) (k pa n : Nat) : Prop :=
  ∀ q, t.host.read q = s.host.read q ∧ (q < pa ∨ pa + n ≤ q → t.memByte k q = s.memByte k q ∧ (q / 128 ≠ pa / 128 → t.mem.read q = s.mem.read q))

/-- Every byte of the thread's local memory reads as before. -/
def keepsLocal (s t : State) : Prop := ∀ a, t.core.lmem.read a = s.core.lmem.read a

/-- Every byte of the thread's local memory outside `n` bytes at `lo` reads as before. -/
def keepsLocalBut (s t : State) (lo n : Nat) : Prop := ∀ a, a < lo ∨ lo + n ≤ a → t.core.lmem.read a = s.core.lmem.read a

/-! ## Operands that may be used -/

/-- Every link port among some operands exists for the thread and carries no pending mismatch or diversion (R117, R131, R303, R316). -/
def portsClear (s : State) (os : List VOp) : Bool :=
  os.all fun o => match o with
    | .link d => s.portSide s.core d != .foreign && (s.core.port d).mism.isNone && (s.core.port d).divert.isNone
    | _ => true

/-- The link port `d` may be named. -/
def portClear (s : State) (d : Dir) : Bool := portsClear s [.link d]

/-- The line of a branch target is readable and not poisoned, or the one the thread stands in, and the target is a head of it, in the code
region (R22, R291, R369). -/
def targetOk (s : State) (target : W64) : Bool :=
  s.core.inCode (lineBase target) && (s.core.sameLine target || !s.codePoisoned s.core (lineBase target)) &&
    match (if s.core.sameLine target then .halves s.core.ir.words else s.codeLine s.core (lineBase target)) with
    | .halves hs => (headCheck target hs target target).isNone
    | _ => false

/-- The state a transfer to `target` is made in: the target's line has been read, unless the thread stands in it (R22, R291). -/
def State.targetRead (s : State) (target : W64) : State :=
  if s.core.sameLine target then s else s.readCode s.core (lineBase target)

/-- A global access of the looked-at thread passes alignment and translation, and its stash serves it or there is room for its request
(R104, R224, R232, R245, R246). -/
def accessOk (s : State) (va : W64) (n : Nat) (acc : Access) (pa : Nat) (pte : W64) : Prop :=
  va.toNat % n = 0 ∧ s.translate s.core va.toNat acc = .hit pa pte ∧
    (!s.core.served va.toNat pa acc && s.portBusy s.core pa pte) = false

/-- The handler of a thread takes its precise traps of a code (R25), off a slice core. -/
def trapsHere (s : State) (code : Nat) : Bool := s.core.loc.kind != .slice && s.core.handles code

/-! ## Instructions of one shape -/

/-- The register an instruction of the scalar families writes, for those that write one x register and neither trap nor draw (R90 to
R98, R101, R102, R107, R108). -/
def scalarX : Instr → Option XReg
  | .add _ d _ _ _ | .sub _ d _ _ _ | .and _ d _ _ _ | .or _ d _ _ _ | .xor _ d _ _ _ | .andn _ d _ _ _ | .shl _ d _ _ _ | .shr _ d _ _ _
  | .sar _ d _ _ _ | .rot _ d _ _ _ | .min _ d _ _ _ | .max _ d _ _ _ | .minn _ d _ _ _ | .maxn _ d _ _ _ => some d
  | .addi d _ _ _ | .andi d _ _ _ | .ori d _ _ _ | .xori d _ _ _ | .shli d _ _ _ | .shri d _ _ _ | .sari d _ _ _ | .roti d _ _ _ => some d
  | .li d _ _ | .lic d _ _ _ _ | .sel d _ _ _ _ | .gtox d _ => some d
  | .mul d _ _ _ | .mulh d _ _ _ | .mulhn d _ _ _ | .div d _ _ _ | .divn d _ _ _ | .rem d _ _ _ | .remn d _ _ _ => some d
  | .clz d _ _ | .ctz d _ _ | .popc d _ _ | .brev d _ _ | .bswap d _ _ | .bfx d _ _ _ _ | .bfxs d _ _ _ _ | .bfi d _ _ _ _ _ => some d
  | .fadd _ d _ _ _ | .fsub _ d _ _ _ | .fmul _ d _ _ _ | .fdiv _ d _ _ _ | .fsqrt _ d _ _ | .fmin _ d _ _ _ | .fmax _ d _ _ _
  | .fabs _ d _ _ | .fneg _ d _ _ | .fclass _ d _ _ | .fma _ d _ _ _ _ | .fms _ d _ _ _ _ | .fnma _ d _ _ _ _ | .fnms _ d _ _ _ _ => some d
  | .sysRd d _ _ | .ccntRd d _ _ | .ringPtr d _ _ | .whopos d _ | .whodim d _ | .whocore d _ | .whoplot d _ | .wholaunch d _ => some d
  | _ => none

/-- The guard an instruction of the scalar families writes (R99, R100, R109). -/
def scalarG : Instr → Option GReg
  | .cmp d _ _ _ _ | .cmpi d _ _ _ _ | .gand d _ _ _ | .gor d _ _ _ | .gxor d _ _ _ | .gandn d _ _ _ | .fcmp d _ _ _ _ _ => some d
  | _ => none

/-- The destination of a vector instruction that writes one vector operand under a mask (R168), and its sources in field order. -/
def masked : Instr → Option (VOp × List VOp)
  | .vadd d b a _ _ _ | .vsub d b a _ _ _ | .vmul d b a _ _ _ | .vmin d b a _ _ _ | .vmax d b a _ _ _ | .vadds d b a _ _ _
  | .vsubs d b a _ _ _ | .vand d b a _ _ _ | .vor d b a _ _ _ | .vxor d b a _ _ _ | .vandn d b a _ _ _ | .vshl d b a _ _ _
  | .vshr d b a _ _ _ | .vsar d b a _ _ _ | .vsel d b a _ _ _ _ => some (d, [a, b])
  | .vabs d a _ _ _ | .vneg d a _ _ _ | .vexp2 d a _ _ | .vlog2 d a _ _ | .vrcp d a _ _ | .vrsq d a _ _ | .vsqrt d a _ _
  | .vscanadd d a _ _ _ _ _ => some (d, [a])
  | .vfma d e b a _ _ _ | .vfms d e b a _ _ _ | .vfnma d e b a _ _ _ | .vperm d e b a _ _ _ | .vdot4 d e b a _ _
  | .vdot4n d e b a _ _ => some (d, [a, b, e])
  | _ => none

/-- The vector register an operand is, if it is one. -/
def VOp.regs : VOp → List (BitVec 5)
  | .reg r => [r]
  | _ => []

end Sys2Proof.Machine
end

