-- ==== Sys2Proof/Certificates/Slice0/Obligations.lean ====
section
/-! DEFINITION. Sys2Proof/Certificates/Slice0/Obligations.lean: the statements for the provers. An equation `exec i s = .next t` says that
the instruction or event completes and gives the whole next state, so it also says what stays as it was: `t` is written with the updates
of Sys2Proof/Machine/Ops.lean and the ends of Sys2Proof/Safety.lean. `enabled c s.core = true` is the combined guard of R57. -/

open Sys2Proof Sys2Proof.Machine

/-! ## Encoding -/

/-- Decoding the words written for a well-formed instruction gives it back, with every operand at every value (R53 to R61). -/
def Obligations.DecodeOfEncode : Prop :=
  ∀ (i : Instr) (x : Fields) (k : CoreKind), i.wf = true → encodeFields i = some x → acceptedOn k x.op.toNat = true →
    decode k x.head x.tail = .ok i

/-- Each head and tail has at most one meaning, and every bit of them counts: what decodes is encoded by the same words. -/
def Obligations.EncodeOfDecode : Prop :=
  ∀ (k : CoreKind) (h : Half) (t : List Half) (i : Instr), headTL h = t.length → decode k h t = .ok i →
    encode i = h :: t ∧ i.wf = true

/-- Words written out from the encodings of spec/ decode to the instructions they stand for, one or more for each family of opcodes, NOP's
among them. -/
def Obligations.DecodedWords : Prop :=
  ∀ p ∈ ([(.compute, [0x0040], .halt 0 none), (.compute, [0x4141, 0x0007], .li 1 7 none),
      (.compute, [0x8107, 0x4006, 0x0003], .shli 7 6 3 none), (.compute, [0x41C3, 0x3001], .div 3 0 1 none),
      (.compute, [0x42C3, 0x2207], .cmp 3 .lt 8 7 none), (.compute, [0x8649, 0x0001, 0x0016], .fcvt 9 1 .i64 .f32 .rne false none),
      (.compute, [0x8700, 0x0002, 0x0000], .call 2 none), (.compute, [0x4740, 0x001F], .jr 31 none),
      (.compute, [0xD044, 0x0081, 0x0043, 0x01B2], .vfma (.reg 4) (.reg 3) (.reg 2) (.reg 1) .f32 ⟨1, false⟩ (some 0x01B2)),
      (.slice, [0x6C40, 0x01B2], .sfma (some 0x01B2)), (.control, [0x3100], .wfi none),
      (.compute, [0x0000], .nop none), (.compute, [0x07C5], .svc 5 none), (.compute, [0x3000], .eret none),
      (.control, [0x7080, 0x2000], .tlbinvAll none), (.compute, [0x92E2, 0x0007, 0x1000], .vldl (.link .e) 7 (.ty .f16) 0 none),
      (.compute, [0x5564, 0x0001], .scfgRead 0 1 none), (.compute, [0x9500, 0x0002, 0x0021], .rep 2 1 1 none),
      (.compute, [0x5C05, 0x2000], .whocore 5 none), (.compute, [0x5CC0, 0x3008], .barSync 8 none),
      (.compute, [0x5D00, 0x1103], .evtWait 4 3 none), (.compute, [0x5D85, 0x0009], .stageNext 5 9 none),
      (.compute, [0x848E, 0x300D, 0x0000], .ld 14 13 .n64 0 none), (.compute, [0xA00C, 0x0007, 0x3040], .lda 12 7 .n64 .plot none),
      (.compute, [0xA0CA, 0x024B, 0x30C0], .amo .add 10 9 11 true .relaxed .dev none), (.compute, [0x6201, 0x00C2], .stashMap 1 3 2 none),
      (.compute, [0x6242, 0x2005], .ringWait 2 5 none), (.compute, [0x6281, 0x0206], .winInit 1 8 6 none),
      (.compute, [0xA802, 0x0005, 0x0000], .lnkOpen .e 5 0 0 0 none), (.compute, [0x6903, 0x0009], .ccntWait 3 9 none),
      (.compute, [0xA941, 0x00C2, 0x0144], .compact 1 2 3 4 5 none), (.compute, [0x6980, 0x0005], .keyq 5 none),
      (.compute, [0xAA41, 0x00C2, 0x0004], .slmsg 1 2 3 4 none), (.compute, [0x6A03, 0x1006], .chanRecv 3 6 none),
      (.slice, [0x6C00, 0x1001], .shPref 1 none), (.compute, [0x7441, 0x0207], .grpSet 1 8 7 none),
      (.compute, [0xB404, 0x0185, 0x1002], .ldred 4 5 6 2 0 true false none)] : List (CoreKind × List Half × Instr)),
    match p.2.1 with
    | h :: t => decode p.1 h t = .ok p.2.2
    | [] => False

/-- Steps 1 to 3 of R65, in their order: an opcode that is not allocated, a tail of another length than the class's or one more, an
opcode not accepted on the kind of core; and a word that passes them reaches the family's own checks. Words that are no instruction make
the thread take ILLEGAL with the head, the tail packed from the lowest half-word on, the line address and the step that failed.
Where the manual leaves a point open, it follows the model's reading: log 11. -/
def Obligations.IllegalWords : Prop :=
  (∀ (k : CoreKind) (h : Half) (t : List Half),
    (opClass (headOP h).toNat = none → decode k h t = .error .opReserved) ∧
    ∀ cl, opClass (headOP h).toNat = some cl →
      (t.length ≠ cl.base ∧ t.length ≠ cl.base + 1 → decode k h t = .error .badTail) ∧
      (t.length = cl.base ∨ t.length = cl.base + 1 →
        (acceptedOn k (headOP h).toNat = false → decode k h t = .error .wrongCore) ∧
        (acceptedOn k (headOP h).toNat = true →
          ∃ x, unpackTail cl h t = .ok x ∧ decode k h t = decodeFields x))) ∧
  (∀ (s : State) (ir : Ir) (npc : W64) (e : DecErr),
    s.core.prog ≠ some .badImage → (ir.captured = true → s.core.repOk = true) → decode s.core.loc.kind ir.head ir.tail = .error e →
    s.decoded ir npc = .other ((s.latched ir npc).takeTrap
      { code := 0x01, i0 := ir.head.setWidth 64,
        i1 := w64 ((ir.tail.zipIdx.map fun w => w.1.toNat * 2 ^ (16 * w.2)).sum), i2 := ir.line,
        i3 := match e with
          | .opReserved => 1 | .badTail => 2 | .wrongCore => 3 | .memberReserved => 4 | .operandReserved => 5 | .unusedNonzero => 6 }))

/-! ## The step -/

/-- A step runs the decoded instruction: at a machine with nothing on its agenda whose looked-at thread may issue, the half-words at the
program counter that decode to `i` make the step `exec i` on the state that has latched them and NextSeq; a step then adds one cycle.
(A thread outside a repetition block, with no latched trap, no parity error and no poisoned code line, whose words name no register that
a load has still to write. After a transfer within its line the thread makes no fetch, and goes on in the words it holds, R291. A slice
core's budget counts from its invocation's first instruction, R351. What the fetch does to the line it reads, R224, R368, is
State.readCode's.)
Where the manual leaves a point open, it follows the model's reading: log 1, and log 3 for the cycle that a step adds. -/
def Obligations.StepRunsDecoded : Prop :=
  ∀ (s : State) (hs : List Half) (i : Instr),
    s.agenda = [] → s.background = false → s.stale = [] → s.canIssue s.core = true →
    s.core.nextAsync = none → s.core.inBlock = false → s.core.prog ≠ some .badImage → s.core.regBad = false →
    s.core.inCode (lineBase s.core.pc) = true →
    (if s.core.kept = some s.core.pc ∧ s.core.ir.words ≠ [] ∧ lineBase s.core.pc = s.core.ir.line then hs = s.core.ir.words
      else s.codeLine s.core (lineBase s.core.pc) = .halves hs) →
    headCheck s.core.pc hs (lineBase s.core.pc) s.core.pc = none → s.fetchPoisoned s.core = false →
    let k := headIdx s.core.pc
    let h := hs.getD k 0
    let t := (hs.drop (tailStart hs k)).take (headTL h)
    decode s.core.loc.kind h t = .ok i → s.core.hazard i = false →
    let stands := s.core.kept = some s.core.pc ∧ s.core.ir.words ≠ [] ∧ lineBase s.core.pc = s.core.ir.line
    let v : State := { s with background := true }
    let w := if stands then v else v.readCode v.core (lineBase s.core.pc)
    let u := { w with core := { w.core with
      ir := { head := h, tail := t, line := lineBase s.core.pc, words := hs, captured := false }
      npc := nextSeq hs s.core.pc
      kept := some s.core.pc } }
    let r := exec i (if s.core.loc.kind = .slice then
        u.modSlice (sliceNo s.core.loc) fun q => { q with inv := q.inv.map fun v => { v with start := v.start.or (some s.cycle) } }
      else u)
    step s = match r with
      | .next u => .next { u with cycle := u.cycle + 1 }
      | .fault f => .fault f
      | .refused q => .refused q

/-- Every step of every state goes on: no state makes the machine stop, whatever it fetches, and however its cores, its engines and
its host stand; and so does every instruction, executed in any state. -/
def Obligations.StepOutcomes : Prop :=
  (∀ s : State, ∃ t, step s = .next t) ∧ ∀ (i : Instr) (s : State), ∃ t, exec i s = .next t

/-- Every step keeps device memory and the host's memory in their canonical form. -/
def Obligations.StepKeepsMemory : Prop := ∀ s t : State, s.memWf = true → step s = .next t → t.memWf = true

/-- Every step keeps every local memory, of the cores and of the saved threads, in its canonical form. -/
def Obligations.StepKeepsLocal : Prop := ∀ s t : State, s.localWf = true → step s = .next t → t.localWf = true

/-- What reset leaves, as R409, R411, R413 and R422 give it: the module boots, no tenant is enabled, nothing is granted, measured,
pending or running. The state after reset meets the two invariants that every step keeps.
Where the manual leaves a point open, it follows the model's reading: log 6, 7, 10. -/
def Obligations.ResetState : Prop :=
  State.reset.memWf = true ∧ State.reset.localWf = true ∧
  State.reset.mgmt.phase = 0 ∧ State.reset.mgmt.diesOk = 0 ∧ State.reset.mgmt.failStep = 0 ∧ State.reset.mgmt.busy = false ∧
  State.reset.mgmt.irqen = 0 ∧ State.reset.mgmt.irqpend = 0 ∧ State.reset.mgmt.chain = 0 ∧ State.reset.mgmt.epoch = 0 ∧
  State.reset.launches = [] ∧ State.reset.groups = [] ∧ State.reset.quince = [] ∧ State.reset.core.run = .idle ∧
  (∀ t, (State.reset.tenantAt t).en = false ∧ (State.reset.tenantAt t).chain = 0 ∧ (State.reset.tenantAt t).latUs = 0xFFFFFFFF) ∧
  (∀ a, State.reset.mem.read a = 0) ∧ ∀ l : Loc, (State.reset.coreAt l).run = .idle

/-! ## Registers, guards, privilege -/

/-- `x0` reads zero, `g0` true and `m0` all ones, and a write to one of them is discarded; a write to another register is what the next
read of it gives, and leaves the other registers. -/
def Obligations.FixedRegisters : Prop :=
  ∀ (s : State) (v : W64) (b : Bool),
    s.x 0 = 0 ∧ s.core.getG 0 = true ∧ s.core.getM 0 = BitVec.allOnes 64 ∧ s.setX 0 v = s ∧ s.setG 0 b = s ∧ s.setM 0 v = s ∧
    (∀ r q : XReg, r ≠ 0 → (s.setX r v).x q = if q = r then v else s.x q) ∧
    (∀ r q : GReg, r ≠ 0 → (s.setG r b).core.getG q = if q = r then b else s.core.getG q) ∧
    (∀ r q : BitVec 3, r ≠ 0 → (s.setM r v).core.getM q = if q = r then v else s.core.getM q) ∧
    ∀ (r q : BitVec 5) (w : V512), (s.setV r w).core.getV q = if q = r then w else s.core.getV q

/-- The combined guard as R57 computes it; an instruction whose guard is false only goes on, whatever its operands are: no effect and no
trap of its own; a transfer so skipped is one not taken, which is compared with the gang's (R126); words that are no instruction take their
trap whatever their control word is; and CTX.SAVE, CTX.LOAD, WFI, TLBINV.all and a write of TENANT below machine level take PRIV, whatever
their guard is, with the head and the tail words packed from the lowest on.
Where the manual leaves a point open, it follows the model's reading: log 73 (TLBINV.all and a write of TENANT before their guard), log 21
(a skipped transfer). -/
def Obligations.GuardsAndPrivilege : Prop :=
  (∀ (c : Core) (w : BitVec 16), enabled none c = true ∧
    let ga := (c.getG (w.extractLsb' 0 3)) != w.getLsbD 3
    let gb := (c.getG (w.extractLsb' 4 3)) != w.getLsbD 7
    enabled (some w) c = if w.getLsbD 8 then ga || gb else ga && gb) ∧
  (∀ (i : Instr) (x : Fields) (s : State), encodeFields i = some x → enabled x.c s.core = false →
    (s.core.loc.kind = .control ∨ match i with
      | .tlbinvAll _ | .ctxSave _ _ _ | .ctxLoad _ _ _ | .wfi _ | .sysWr _ .tenant _ => False
      | _ => True) →
    exec i s = .next (State.ended (match i with
      | .br _ _ _ | .jmp _ _ | .call _ _ | .jr _ _ | .callr _ _ | .loop _ _ _ | .eret _ => s.gangTransfer none
      | _ => s) x.c)) ∧
  (∀ (s : State) (ir : Ir) (npc : W64) (e : DecErr),
    s.core.prog ≠ some .badImage → (ir.captured = true → s.core.repOk = true) → decode s.core.loc.kind ir.head ir.tail = .error e →
    ∃ t : TrapInfo, t.code = 0x01 ∧ s.decoded ir npc = .other ((s.latched ir npc).takeTrap t)) ∧
  ∀ (s : State) (b a : XReg) (c : Ctl), s.core.loc.kind ≠ .control →
    ∀ i ∈ [Instr.ctxSave b a c, .ctxLoad b a c, .wfi c, .tlbinvAll c, .sysWr a .tenant c],
      let words := w64 ((s.core.ir.tail.zipIdx.map fun w => w.1.toNat * 2 ^ (16 * w.2)).sum)
      exec i s = .next (s.takeTrap { code := 0x06, i0 := s.core.ir.head.setWidth 64, i1 := words, i2 := 0, i3 := 0 })

/-! ## Integer arithmetic (R90 to R102) -/

/-- The members of opcode 0x02, computed on natural numbers and integers and reduced at the end; those of opcode 0x03 do the same on the
low 32 bits, the result sign-extended. Each is encoded with its place in the list as F; an F of 14 or 15 is no instruction. -/
def Obligations.IntegerResults : Prop :=
  (∀ (s : State) (c : Ctl) (d b a : XReg), enabled c s.core = true →
    let u := s.x a
    let v := s.x b
    let n := v.toNat % 64
    ∀ p ∈ ([(.add false d b a c, w64 (u.toNat + v.toNat)), (.sub false d b a c, w64i ((u.toNat : Int) - v.toNat)),
        (.and false d b a c, u &&& v), (.or false d b a c, u ||| v), (.xor false d b a c, u ^^^ v), (.andn false d b a c, u &&& ~~~v),
        (.shl false d b a c, w64 (u.toNat * 2 ^ n)), (.shr false d b a c, w64 (u.toNat / 2 ^ n)),
        (.sar false d b a c, w64i (u.toInt / 2 ^ n)), (.rot false d b a c, (u >>> n) ||| (u <<< (64 - n))),
        (.min false d b a c, if u.toInt < v.toInt then u else v), (.max false d b a c, if u.toInt < v.toInt then v else u),
        (.minn false d b a c, if u.toNat < v.toNat then u else v), (.maxn false d b a c, if u.toNat < v.toNat then v else u)] :
          List (Instr × W64)).zipIdx,
      exec p.1.1 s = .next ((s.setX d p.1.2).ended c) ∧ encodeFields p.1.1 = some
        { op := 0x02, d := d.setWidth 6, f := BitVec.ofNat 4 p.2, s2 := b.setWidth 6, s1 := a.setWidth 6, c := c }) ∧
  (∀ (s : State) (c : Ctl) (d b a : XReg), enabled c s.core = true →
    let u := (s.x a).setWidth 32
    let v := (s.x b).setWidth 32
    let n := v.toNat % 32
    ∀ p ∈ ([(.add true d b a c, BitVec.ofNat 32 (u.toNat + v.toNat)), (.sub true d b a c, BitVec.ofInt 32 ((u.toNat : Int) - v.toNat)),
        (.and true d b a c, u &&& v), (.or true d b a c, u ||| v), (.xor true d b a c, u ^^^ v), (.andn true d b a c, u &&& ~~~v),
        (.shl true d b a c, BitVec.ofNat 32 (u.toNat * 2 ^ n)), (.shr true d b a c, BitVec.ofNat 32 (u.toNat / 2 ^ n)),
        (.sar true d b a c, BitVec.ofInt 32 (u.toInt / 2 ^ n)), (.rot true d b a c, (u >>> n) ||| (u <<< (32 - n))),
        (.min true d b a c, if u.toInt < v.toInt then u else v), (.max true d b a c, if u.toInt < v.toInt then v else u),
        (.minn true d b a c, if u.toNat < v.toNat then u else v), (.maxn true d b a c, if u.toNat < v.toNat then v else u)] :
          List (Instr × W32)).zipIdx,
      exec p.1.1 s = .next ((s.setX d (w64i p.1.2.toInt)).ended c) ∧ encodeFields p.1.1 = some
        { op := 0x03, d := d.setWidth 6, f := BitVec.ofNat 4 p.2, s2 := b.setWidth 6, s1 := a.setWidth 6, c := c }) ∧
  opClass 0x02 = some .k1a ∧ opClass 0x03 = some .k1a ∧
  ∀ x : Fields, x.op = 0x02 ∨ x.op = 0x03 → 14 ≤ x.f.toNat → ∃ e, decodeFields x = .error e

/-- The immediate forms (R92, R93, R94), SEL (R101), GTOX and XTOG (R102), and NOP (R23): what each writes, how it is encoded, and which
fields make words of these opcodes no instruction. -/
def Obligations.ImmediateResults : Prop :=
  (∀ (s : State) (c : Ctl) (d b a : XReg) (i : BitVec 16) (n : BitVec 6) (k : BitVec 2) (g : GReg), enabled c s.core = true →
    (let u := s.x a
     let m := n.toNat
     ∀ p ∈ ([(.addi d a i c, w64i (u.toInt + i.toInt), i), (.andi d a i c, u &&& w64i i.toInt, i), (.ori d a i c, u ||| w64i i.toInt, i),
         (.xori d a i c, u ^^^ w64i i.toInt, i), (.shli d a n c, w64 (u.toNat * 2 ^ m), n.setWidth 16),
         (.shri d a n c, w64 (u.toNat / 2 ^ m), n.setWidth 16), (.sari d a n c, w64i (u.toInt / 2 ^ m), n.setWidth 16),
         (.roti d a n c, (u >>> m) ||| (u <<< (64 - m)), n.setWidth 16)] : List (Instr × W64 × BitVec 16)).zipIdx,
       exec p.1.1 s = .next ((s.setX d p.1.2.1).ended c) ∧ encodeFields p.1.1 = some
         { op := 0x04, d := d.setWidth 6, f := BitVec.ofNat 4 p.2, s1 := a.setWidth 6, i := p.1.2.2, c := c }) ∧
    exec (.li d i c) s = .next ((s.setX d (w64i i.toInt)).ended c) ∧
    encodeFields (.li d i c) = some { op := 0x05, d := d.setWidth 6, i := i, c := c } ∧
    (∃ v, exec (.lic d a k i c) s = .next ((s.setX d v).ended c) ∧
      ∀ j < 64, v.getLsbD j = if j / 16 = k.toNat then i.getLsbD (j % 16) else (s.x a).getLsbD j) ∧
    encodeFields (.lic d a k i c) = some { op := 0x06, d := d.setWidth 6, f := k.setWidth 4, s1 := a.setWidth 6, i := i, c := c } ∧
    exec (.sel d b a g c) s = .next ((s.setX d (if s.core.getG g = true then s.x a else s.x b)).ended c) ∧
    encodeFields (.sel d b a g c) = some
      { op := 0x0E, d := d.setWidth 6, s3 := g.setWidth 6, s2 := b.setWidth 6, s1 := a.setWidth 6, c := c } ∧
    (∃ v, exec (.gtox d c) s = .next ((s.setX d v).ended c) ∧
      ∀ j < 64, v.getLsbD j = (decide (j < 8) && s.core.getG (BitVec.ofNat 3 j))) ∧
    encodeFields (.gtox d c) = some { op := 0x0F, d := d.setWidth 6, c := c } ∧
    (∃ t : State, exec (.xtog a c) s = .next (t.ended c) ∧ t = { s with core := { s.core with g := t.core.g } } ∧
      ∀ r : GReg, r ≠ 0 → t.core.getG r = (s.x a).getLsbD r.toNat) ∧
    encodeFields (.xtog a c) = some { op := 0x0F, f := 1, s1 := a.setWidth 6, c := c } ∧
    exec (.nop c) s = .next (s.ended c) ∧ encodeFields (.nop c) = some { c := c }) ∧
  [0x04, 0x05, 0x06, 0x0E, 0x0F, 0x00].map opClass = [some .k2ai, some .k1i, some .k2ai, some .k2ab, some .k1a, some .k0] ∧
  ∀ x : Fields,
    (x.op = 0x04 ∧ (x.s2 ≠ 0 ∨ 8 ≤ x.f.toNat ∨ (4 ≤ x.f.toNat ∧ x.i.extractLsb' 6 10 ≠ 0))) ∨
    (x.op = 0x06 ∧ (x.s2 ≠ 0 ∨ 4 ≤ x.f.toNat)) ∨ (x.op = 0x0E ∧ (x.f ≠ 0 ∨ x.s4 ≠ 0 ∨ x.g ≠ 0 ∨ 8 ≤ x.s3.toNat)) ∨
    (x.op = 0x0F ∧ (x.s2 ≠ 0 ∨ 2 ≤ x.f.toNat ∨ (x.f = 0 ∧ x.s1 ≠ 0) ∨ (x.f = 1 ∧ x.d ≠ 0))) ∨ (x.op = 0 ∧ x.d ≠ 0) →
    ∃ e, decodeFields x = .error e

/-- Products and quotients (R95), computed on integers and natural numbers, with the corners of its table; each is encoded with its place
in the list as F, and an F from 7 on is no instruction. -/
def Obligations.MulDivResults : Prop :=
  (∀ (s : State) (c : Ctl) (d b a : XReg), enabled c s.core = true →
    let u := s.x a
    let v := s.x b
    ∀ p ∈ ([(.mul d b a c, w64i (u.toInt * v.toInt)), (.mulh d b a c, w64i (u.toInt * v.toInt / 2 ^ 64)),
        (.mulhn d b a c, w64 (u.toNat * v.toNat / 2 ^ 64)),
        (.div d b a c, if v = 0 then 0xFFFFFFFFFFFFFFFF#64 else w64i (u.toInt.tdiv v.toInt)),
        (.divn d b a c, if v = 0 then 0xFFFFFFFFFFFFFFFF#64 else w64 (u.toNat / v.toNat)),
        (.rem d b a c, if v = 0 then u else w64i (u.toInt.tmod v.toInt)),
        (.remn d b a c, if v = 0 then u else w64 (u.toNat % v.toNat))] : List (Instr × W64)).zipIdx,
      exec p.1.1 s = .next ((s.setX d p.1.2).ended c) ∧ encodeFields p.1.1 = some
        { op := 0x07, d := d.setWidth 6, f := BitVec.ofNat 4 p.2, s2 := b.setWidth 6, s1 := a.setWidth 6, c := c }) ∧
  opClass 0x07 = some .k1a ∧ ∀ x : Fields, x.op = 0x07 → 7 ≤ x.f.toNat → ∃ e, decodeFields x = .error e

/-- Bit counts (R96) and bit fields (R97, R98), bit by bit; how they are encoded, and which fields make words of these opcodes no
instruction. -/
def Obligations.BitResults : Prop :=
  (∀ (s : State) (c : Ctl) (d b a : XReg), enabled c s.core = true →
    let u := s.x a
    (∃ v, exec (.clz d a c) s = .next ((s.setX d v).ended c) ∧
      v.toNat = (((List.range 64).map fun j => u.getLsbD (63 - j)).takeWhile fun q => !q).length) ∧
    (∃ v, exec (.ctz d a c) s = .next ((s.setX d v).ended c) ∧
      v.toNat = (((List.range 64).map fun j => u.getLsbD j).takeWhile fun q => !q).length) ∧
    (∃ v, exec (.popc d a c) s = .next ((s.setX d v).ended c) ∧ v.toNat = ((List.range 64).filter fun j => u.getLsbD j).length) ∧
    (∃ v, exec (.brev d a c) s = .next ((s.setX d v).ended c) ∧ ∀ j < 64, v.getLsbD j = u.getLsbD (63 - j)) ∧
    (∃ v, exec (.bswap d a c) s = .next ((s.setX d v).ended c) ∧
      ∀ j < 8, v.extractLsb' (8 * j) 8 = u.extractLsb' (8 * (7 - j)) 8) ∧
    ∀ pos width : BitVec 6, fieldOk pos width = true →
      (let f := u.toNat / 2 ^ pos.toNat % 2 ^ width.toNat
       exec (.bfx d a pos width c) s = .next ((s.setX d (w64 f)).ended c) ∧
       exec (.bfxs d a pos width c) s = .next
         ((s.setX d (w64i (if f < 2 ^ (width.toNat - 1) then (f : Int) else (f : Int) - 2 ^ width.toNat))).ended c)) ∧
      ∃ v, exec (.bfi d b a pos width c) s = .next ((s.setX d v).ended c) ∧
        ∀ j < 64, v.getLsbD j =
          if pos.toNat ≤ j ∧ j < pos.toNat + width.toNat then u.getLsbD (j - pos.toNat) else (s.x b).getLsbD j) ∧
  (∀ (c : Ctl) (d b a : XReg) (pos width : BitVec 6),
    (∀ p ∈ [Instr.clz d a c, .ctz d a c, .popc d a c, .brev d a c, .bswap d a c].zipIdx,
      encodeFields p.1 = some { op := 0x08, d := d.setWidth 6, f := BitVec.ofNat 4 p.2, s1 := a.setWidth 6, c := c }) ∧
    ∀ x, x = BitVec.ofNat 16 (pos.toNat + 2 ^ 6 * width.toNat) →
      encodeFields (.bfx d a pos width c) = some { op := 0x09, d := d.setWidth 6, f := 0, s1 := a.setWidth 6, i := x, c := c } ∧
      encodeFields (.bfxs d a pos width c) = some { op := 0x09, d := d.setWidth 6, f := 1, s1 := a.setWidth 6, i := x, c := c } ∧
      encodeFields (.bfi d b a pos width c) = some
        { op := 0x0A, d := d.setWidth 6, f := 0, s2 := b.setWidth 6, s1 := a.setWidth 6, i := x, c := c }) ∧
  [0x08, 0x09, 0x0A].map opClass = [some .k1a, some .k2ai, some .k2ai] ∧
  ∀ x : Fields,
    let width := x.i.toNat / 2 ^ 6 % 2 ^ 6
    let bad := x.i.extractLsb' 12 4 ≠ 0 ∨ width = 0 ∨ 64 < x.i.toNat % 2 ^ 6 + width
    ((x.op = 0x08 ∧ (x.s2 ≠ 0 ∨ 5 ≤ x.f.toNat)) ∨ (x.op = 0x09 ∧ (x.s2 ≠ 0 ∨ 2 ≤ x.f.toNat)) ∨ (x.op = 0x0A ∧ x.f ≠ 0) →
      ∃ e, decodeFields x = .error e) ∧
    ((x.op = 0x09 ∧ x.f.toNat ≤ 1) ∨ (x.op = 0x0A ∧ x.f = 0) → x.d.toNat < 32 → x.s1.toNat < 32 → x.s2.toNat < 32 → bad →
      decodeFields x = .error .unusedNonzero)

/-- The compares (R99) and the operations on guards (R100); each is encoded with its place in its list as F, and which fields make words of
these opcodes no instruction. -/
def Obligations.GuardResults : Prop :=
  (∀ (s : State) (c : Ctl) (d : GReg) (b a : XReg) (i : BitVec 16) (g h : GReg), enabled c s.core = true →
    let u := s.x a
    let v := s.x b
    let p := s.core.getG g
    let q := s.core.getG h
    (∀ e ∈ ([(.cmp d .eq b a c, decide (u.toNat = v.toNat)), (.cmp d .ne b a c, decide (u.toNat ≠ v.toNat)),
        (.cmp d .lt b a c, decide (u.toInt < v.toInt)), (.cmp d .le b a c, decide (u.toInt ≤ v.toInt)),
        (.cmp d .ltn b a c, decide (u.toNat < v.toNat)), (.cmp d .len b a c, decide (u.toNat ≤ v.toNat)),
        (.cmp d .any b a c, decide (u &&& v ≠ 0)), (.cmp d .none b a c, decide (u &&& v = 0))] : List (Instr × Bool)).zipIdx,
      exec e.1.1 s = .next ((s.setG d e.1.2).ended c) ∧ encodeFields e.1.1 = some
        { op := 0x0B, d := d.setWidth 6, f := BitVec.ofNat 4 e.2, s2 := b.setWidth 6, s1 := a.setWidth 6, c := c }) ∧
    (∀ e ∈ ([(.cmpi d .eq a i c, decide (u.toInt = i.toInt)), (.cmpi d .ne a i c, decide (u.toInt ≠ i.toInt)),
        (.cmpi d .lt a i c, decide (u.toInt < i.toInt)), (.cmpi d .le a i c, decide (u.toInt ≤ i.toInt)),
        (.cmpi d .ltn a i c, decide (u.toNat < (w64i i.toInt).toNat)), (.cmpi d .len a i c, decide (u.toNat ≤ (w64i i.toInt).toNat)),
        (.cmpi d .any a i c, decide (u &&& w64 i.toNat ≠ 0)), (.cmpi d .none a i c, decide (u &&& w64 i.toNat = 0))] :
          List (Instr × Bool)).zipIdx,
      exec e.1.1 s = .next ((s.setG d e.1.2).ended c) ∧ encodeFields e.1.1 = some
        { op := 0x0C, d := d.setWidth 6, f := BitVec.ofNat 4 e.2, s1 := a.setWidth 6, i := i, c := c }) ∧
    ∀ e ∈ ([(.gand d h g c, p && q), (.gor d h g c, p || q), (.gxor d h g c, p != q), (.gandn d h g c, p && !q)] :
        List (Instr × Bool)).zipIdx,
      exec e.1.1 s = .next ((s.setG d e.1.2).ended c) ∧ encodeFields e.1.1 = some
        { op := 0x0D, d := d.setWidth 6, f := BitVec.ofNat 4 e.2, s2 := h.setWidth 6, s1 := g.setWidth 6, c := c }) ∧
  [0x0B, 0x0C, 0x0D].map opClass = [some .k1a, some .k2ai, some .k1a] ∧
  ∀ x : Fields, (x.op = 0x0B ∧ 8 ≤ x.f.toNat) ∨ (x.op = 0x0C ∧ (x.s2 ≠ 0 ∨ 8 ≤ x.f.toNat)) ∨ (x.op = 0x0D ∧ 4 ≤ x.f.toNat) ∨
    ((x.op = 0x0B ∨ x.op = 0x0C ∨ x.op = 0x0D) ∧ 8 ≤ x.d.toNat) ∨ (x.op = 0x0D ∧ (8 ≤ x.s1.toNat ∨ 8 ≤ x.s2.toNat)) →
    ∃ e, decodeFields x = .error e

/-- The frame of the instructions that write one x register, or one guard, and nothing else: whatever their operands are they complete,
and every other register, every system register but the position in a repetition block, every unit of the thread and every byte of
memory stays. -/
def Obligations.ScalarFrame : Prop :=
  ∀ (i : Instr) (s : State), scalarX i ≠ none ∨ scalarG i ≠ none →
    ∃ t, exec i s = .next t ∧ keepsX s t (scalarX i).toList ∧ keepsG s t (scalarG i).toList ∧ keepsV s t [] ∧ keepsM s t [] ∧
      keepsSys s t ∧ keepsUnits s t ∧ keepsMem s t ∧ keepsLocal s t ∧ t.tenants = s.tenants ∧ t.cores = s.cores

/-! ## Floating point (R107 to R110) -/

/-- The arithmetic members: the exact result on the decoded operands, rounded once to nearest even in the type's format; `t` is true
for f32, whose operands are bits [31:0]. -/
def Obligations.FloatResults : Prop :=
  ∀ (s : State) (c : Ctl) (t : Bool) (d e b a : XReg), enabled c s.core = true →
    let f := if t then fF32 else fF64
    let u := fdec f (s.x a).toNat
    let v := fdec f (s.x b).toNat
    let w := fdec f (s.x e).toNat
    ∀ p ∈ ([(.fadd t d b a c, u.add v), (.fsub t d b a c, u.add v.neg), (.fmul t d b a c, u.mul v), (.fdiv t d b a c, u.div v),
        (.fsqrt t d a c, u.sqrt), (.fmin t d b a c, u.fmin v), (.fmax t d b a c, u.fmax v), (.fabs t d a c, u.abs), (.fneg t d a c, u.neg),
        (.fma t d e b a c, (u.mul v).add w), (.fms t d e b a c, (u.mul v).add w.neg), (.fnma t d e b a c, (u.mul v).neg.add w),
        (.fnms t d e b a c, (u.mul v).neg.add w.neg)] : List (Instr × FVal)),
      exec p.1 s = .next ((s.setX d (w64 (fround f p.2))).ended c)

/-- What the operations on decoded values do at the corners R107 and R108 name, and that every finite encoding of a format is the
rounding of the value it stands for, so that FCVT between equal float types returns its operand, or the canonical NaN (R110).
Where the manual leaves a point open, it follows the model's reading: log 32. -/
def Obligations.FloatCorners : Prop :=
  ((∀ (n m : Bool) (k : Nat) (e d : Int), 0 < k → (FVal.fin n k e).div (.fin m 0 d) = .inf (n != m)) ∧
  (∀ (n m : Bool) (e d : Int), (FVal.fin n 0 e).div (.fin m 0 d) = .nan ∧ (FVal.inf n).div (.inf m) = .nan ∧
    (FVal.fin n 0 e).mul (.inf m) = .nan ∧ (FVal.inf m).mul (.fin n 0 e) = .nan) ∧
  (∀ e d : Int,
    (∀ x ∈ [((FVal.fin true 0 e).fmin (.fin false 0 d)), ((FVal.fin false 0 d).fmin (.fin true 0 e))], ∃ q, x = .fin true 0 q) ∧
    ∀ x ∈ [((FVal.fin true 0 e).fmax (.fin false 0 d)), ((FVal.fin false 0 d).fmax (.fin true 0 e))], ∃ q, x = .fin false 0 q) ∧
  (∀ (n m : Bool) (k j : Nat) (e d : Int), ((if n then (-(k : Int)) else (k : Int)) * 2 ^ (e - Min.min e d).toNat +
      (if m then (-(j : Int)) else (j : Int)) * 2 ^ (d - Min.min e d).toNat = 0) →
    ∃ q, (FVal.fin n k e).add (.fin m j d) = .fin (n && m) 0 q) ∧
  (∀ (k : Nat) (e : Int), 0 < k → (FVal.fin true k e).sqrt = .nan ∧ (FVal.inf true).sqrt = .nan) ∧
  (∀ e : Int, ∃ e', (FVal.fin true 0 e).sqrt = .fin true 0 e') ∧
  (∀ x : FVal, FVal.nan.fmin x = x ∧ x.fmin .nan = x ∧ FVal.nan.fmax x = x ∧ x.fmax .nan = x) ∧
  (∀ x : FVal, FVal.nan.add x = .nan ∧ x.add .nan = .nan ∧ FVal.nan.mul x = .nan ∧ FVal.nan.div x = .nan ∧ FVal.nan.neg = .nan ∧
    FVal.nan.abs = .nan) ∧
  ∀ f ∈ [fF64, fF32, fBF16, fF16], fdec f (fround f (.inf false)) = .inf false ∧ fdec f (fround f (.inf true)) = .inf true ∧
    fround f .nan = f.nan ∧ fdec f f.nan = .nan) ∧
  (∀ f ∈ [fF64, fF32, fBF16, fF16, fE4M3, fE5M2, fE3M2, fE2M3, fE2M1], ∀ bits < 2 ^ f.width,
    fround f (fdec f bits) = if fdec f bits = .nan then f.nan else bits)

/-- FCLASS sets exactly the bit of its operand's class, FCMP the guard its condition gives; a NaN makes `.un` true and the others
false. -/
def Obligations.FloatCompares : Prop :=
  ∀ (s : State) (c : Ctl) (t : Bool) (d : XReg) (g : GReg) (b a : XReg), enabled c s.core = true →
    let f := if t then fF32 else fF64
    let u := fdec f (s.x a).toNat
    let v := fdec f (s.x b).toNat
    let bits := (s.x a).toNat % 2 ^ f.width
    let exponent := bits / 2 ^ f.mb % 2 ^ f.eb
    let zero := bits % 2 ^ (f.eb + f.mb) = 0
    (∃ n, exec (.fclass t d a c) s = .next ((s.setX d (w64 (2 ^ n))).ended c) ∧
      n = match u with
        | .nan => 8
        | .inf neg => if neg then 0 else 7
        | .fin neg _ _ => if zero then (if neg then 3 else 4) else if exponent = 0 then (if neg then 2 else 5) else if neg then 1 else 6) ∧
    (u = .nan ∨ v = .nan → ∀ cc : FCond, exec (.fcmp g t cc b a c) s = .next ((s.setG g (decide (cc = .un))).ended c)) ∧
    (u ≠ .nan ∧ v ≠ .nan → ∀ p ∈ ([(.eq, decide (u.cmp v = 0)), (.lt, decide (u.cmp v < 0)), (.le, decide (u.cmp v ≤ 0)), (.un, false)] :
        List (FCond × Bool)),
      exec (.fcmp g t p.1 b a c) s = .next ((s.setG g p.2).ended c))

/-- FCVT converts the decoded source; with `.rs` it draws exactly one number, the next of R79 from SEED, which it also leaves there. -/
def Obligations.Conversions : Prop :=
  ∀ (s : State) (c : Ctl) (d a : XReg) (src dst : SType) (rm : RM) (sat : Bool), enabled c s.core = true →
    let v := (SType.ntype src).dec (s.x a).toNat
    let put := fun (bits : Nat) => match (SType.ntype dst) with
      | .flt _ => w64 bits
      | .int w true => w64i (BitVec.ofNat w bits).toInt
      | .int w false => w64 (bits % 2 ^ w)
    (rm ≠ .rs → exec (.fcvt d a src dst rm sat c) s = .next ((s.setX d (put (convert (SType.ntype dst) rm sat 0 v))).ended c)) ∧
    let x1 := s.core.sys.seed.setWidth 32 ^^^ (s.core.sys.seed.setWidth 32 <<< 13 : W32)
    let x2 := x1 ^^^ (x1 >>> 17)
    let x3 := x2 ^^^ (x2 <<< 5)
    exec (.fcvt d a src dst .rs sat c) s = .next
      ((({ s with core := { s.core with sys := { s.core.sys with seed := x3.setWidth 64 } } } : State).setX d
        (put (convert (SType.ntype dst) .rs sat x3.toNat v))).ended c)

/-! ## Local loads and stores (R103) -/

/-- LDL and STL: MISALIGN, then PROTECT, then the access, of bytes in ascending order, the least significant at the lowest address. -/
def Obligations.LocalAccesses : Prop :=
  ∀ (s : State) (c : Ctl) (d a : XReg) (ls : LdSize) (ss : StSize) (off : BitVec 16), enabled c s.core = true →
    let at_ := s.x a + w64i off.toInt
    let go := fun (i : Instr) (n : Nat) (t : State) =>
      (at_.toNat % n ≠ 0 → exec i s = .next (s.trapped c { code := 0x07, i0 := 0, i1 := 0, i2 := at_, i3 := 0 })) ∧
      (at_.toNat % n = 0 → 0x30000 ≤ at_.toNat →
        exec i s = .next (s.trapped c { code := 0x09, i0 := 0, i1 := 0, i2 := at_, i3 := 0 })) ∧
      (at_.toNat % n = 0 → at_.toNat < 0x30000 → s.core.inStash at_.toNat n = true →
        exec i s = .next (s.trapped c { code := 0x09, i0 := 0, i1 := 0, i2 := at_, i3 := 0 })) ∧
      (at_.toNat % n = 0 → at_.toNat < 0x30000 → s.core.inStash at_.toNat n = false → s.handlerOk at_.toNat n = true →
        exec i s = .next (t.ended c))
    go (.ldl d a ls off c) (LdSize.bytes ls)
      ((s.setX d (loadValue ls (s.core.readLmem at_.toNat (LdSize.bytes ls)))).noteBad at_.toNat (LdSize.bytes ls)) ∧
    go (.stl d a ss off c) (StSize.bytes ss)
      { s with core := { s.core with lmem := s.core.lmem.writeN at_.toNat (natBytes (StSize.bytes ss) (s.x d).toNat) } } ∧
    (s.core.loc.kind ≠ .slice → ∀ n, s.handlerOk at_.toNat n = true) ∧
    (s.core.badLocal = [] → ∀ n, s.core.readLmem at_.toNat n = s.core.lmem.readN at_.toNat n ∧
      (s.core.soft = [] → s.noteBad at_.toNat n = s)) ∧
    ∀ bs : List Byte, ∀ v, v = leNat bs →
      loadValue .n8 bs = w64 v ∧ loadValue .n16 bs = w64 v ∧ loadValue .n32 bs = w64 v ∧ loadValue .n64 bs = w64 v ∧
      loadValue .i8 bs = w64i (BitVec.ofNat 8 v).toInt ∧ loadValue .i16 bs = w64i (BitVec.ofNat 16 v).toInt ∧
      loadValue .i32 bs = w64i (BitVec.ofNat 32 v).toInt

/-- The frame of LDL and STL: LDL changes no register but its destination and no memory, STL no register, and of memory only the bytes
at the address it computes, which then hold the low bytes of its register. -/
def Obligations.LocalFrame : Prop :=
  ∀ (s t : State) (c : Ctl) (d a : XReg) (ls : LdSize) (ss : StSize) (off : BitVec 16), s.core.lmem.wf = true →
    (exec (.ldl d a ls off c) s = .next t → keepsX s t [d] ∧ keepsG s t [] ∧ keepsV s t [] ∧ keepsM s t [] ∧ keepsMem s t ∧ keepsLocal s t) ∧
    (exec (.stl d a ss off c) s = .next t →
      let at_ := (s.x a + w64i off.toInt).toNat
      keepsX s t [] ∧ keepsG s t [] ∧ keepsV s t [] ∧ keepsM s t [] ∧ keepsMem s t ∧ keepsLocalBut s t at_ (StSize.bytes ss) ∧
      (enabled c s.core = true → at_ % (StSize.bytes ss) = 0 → at_ < 0x30000 → s.core.inStash at_ (StSize.bytes ss) = false →
        s.handlerOk at_ (StSize.bytes ss) = true → ∀ j < (StSize.bytes ss), t.core.lmem.read (at_ + j) = (s.x d).extractLsb' (8 * j) 8))

/-! ## Control transfer and traps (R22, R25, R111 to R116, R363, R381) -/

/-- A transfer whose target passes R22 takes effect: the PC becomes the target, CALL and CALLR write NextSeq to `lr`, LOOP the count. A
branch whose condition is false, and a LOOP whose count has reached one, go on at NextSeq and check no target. The outcome is compared
with the gang's (R126). The target's line has been read for the check, unless it is the one the transfer stands in, where it makes no
fetch (R291).
Where the manual leaves a point open, it follows the model's reading: log 21. -/
def Obligations.Transfers : Prop :=
  (∀ (s : State) (c : Ctl) (d a : XReg) (g : BitVec 4) (i : BitVec 16) (off : BitVec 32), enabled c s.core = true →
    let near := s.core.pc + w64i (2 * i.toInt)
    let far := s.core.pc + w64i (2 * off.toInt)
    let moved := fun (t : State) (pc : W64) =>
      ((t.gangTransfer (some pc)).onCore fun k => { k with kept := if s.core.sameLine pc then some pc else none }).went c pc
    let called := fun (pc : W64) => moved ((s.targetRead pc).setX 31 s.core.npc) pc
    ((s.core.getG (g.setWidth 3) != g.getLsbD 3) = true → targetOk s near = true →
      exec (.br g i c) s = .next (moved (s.targetRead near) near)) ∧
    (targetOk s far = true → exec (.jmp off c) s = .next (moved (s.targetRead far) far) ∧
      exec (.call off c) s = .next (called far)) ∧
    (targetOk s (s.x a) = true → exec (.jr a c) s = .next (moved (s.targetRead (s.x a)) (s.x a)) ∧
      exec (.callr a c) s = .next (called (s.x a))) ∧
    (s.x d ≠ 1 → targetOk s near = true →
      exec (.loop d i c) s = .next (moved ((s.targetRead near).setX d (s.x d - 1)) near)) ∧
    (s.core.gang = none → ∀ out, s.gangTransfer out = s)) ∧
  (∀ (s : State) (c : Ctl) (d : XReg) (g : BitVec 4) (i : BitVec 16), enabled c s.core = true →
    ((s.core.getG (g.setWidth 3) != g.getLsbD 3) = false → exec (.br g i c) s = .next ((s.gangTransfer none).ended c)) ∧
    (s.x d = 1 → exec (.loop d i c) s = .next (((s.setX d 0).gangTransfer none).ended c)))

/-- What R22 does with a target, in its order, for every transfer and for ERET: FETCHLIM outside the code region, BADLINE for an invalid
line word, RUNOFF for N = 0, BADTARGET for a position that is no head or an odd address; each precise at the branch, XINFO2 the target,
without an effect of the branch. A target in the line that the branch stands in is checked on the words the thread holds (R291); of any
other the line is fetched: a refused translation stalls the branch, one in no TLB is walked for, and a poisoned line latches UNCORRECTED,
which the thread takes before the branch.
Where the manual leaves a point open, it follows the model's reading: log 36 (a poisoned line). -/
def Obligations.TargetChecks : Prop :=
  ∀ (s : State) (c : Ctl) (d a : XReg) (g : BitVec 4) (i : BitVec 16) (off : BitVec 32), enabled c s.core = true →
    ∀ p ∈ ([(.br g i c, s.core.pc + w64i (2 * i.toInt), s.core.getG (g.setWidth 3) != g.getLsbD 3),
        (.jmp off c, s.core.pc + w64i (2 * off.toInt), true), (.call off c, s.core.pc + w64i (2 * off.toInt), true),
        (.jr a c, s.x a, true), (.callr a c, s.x a, true), (.loop d i c, s.core.pc + w64i (2 * i.toInt), decide (s.x d ≠ 1)),
        (.eret c, s.core.sys.xpc, s.core.sys.intrap)] : List (Instr × W64 × Bool)),
      p.2.2 = true →
      let line := w64 (p.2.1.toNat / 64 * 64)
      let trap := fun (code : Nat) => exec p.1 s = .next (s.trapped c { code := code, i0 := 0, i1 := 0, i2 := p.2.1, i3 := 0 })
      let stands := s.core.ir.words ≠ [] ∧ line = s.core.ir.line
      let checks := fun (hs : List Half) =>
        let n := (hs.headD 0).toNat % 32
        let valid := (hs.headD 0).toNat < 32 ∧ n + 1 + (((hs.drop 1).take n).map headTL).sum ≤ 32
        let pos := p.2.1.toNat % 64 / 2
        (¬valid → trap 0x02) ∧ (valid → n = 0 → trap 0x03) ∧
        (valid → n ≠ 0 → ¬(p.2.1.toNat % 2 = 0 ∧ 1 ≤ pos ∧ pos ≤ n) → trap 0x05)
      (¬(s.core.codeBase.toNat ≤ line.toNat ∧ line.toNat < s.core.codeLimit.toNat) → trap 0x04) ∧
      (s.core.codeBase.toNat ≤ line.toNat ∧ line.toNat < s.core.codeLimit.toNat →
        (stands → checks s.core.ir.words) ∧
        (¬stands →
          (∀ code level, s.codeLine s.core line = .refuse code level →
            exec p.1 s = .next ((s.takeStall s.core.loc code level Access.code line.toNat).delayed c)) ∧
          (s.codeLine s.core line = .miss → exec p.1 s = .next
            (({ s with core := { s.core with held := true, walk := some (line.toNat, Access.code) } } : State).delayed c)) ∧
          (∀ hs, s.codeLine s.core line = .halves hs →
            (s.codePoisoned s.core line = false → checks hs) ∧
            (s.codePoisoned s.core line = true → exec p.1 s = .next ((s.onCore fun k => k.latchUncorrected 3 line 0).holding c)))))

/-- SVC and BRK take their trap with the code and NextSeq. ERET outside a handler is a usage fault; in one it returns to XPC, once XPC
passes the target checks, and clears INTRAP, a transfer as the others are (R22, R126, R291); a repetition block in progress is taken up
again by the next fetch (R203). -/
def Obligations.SvcBrkEret : Prop :=
  (∀ (s : State) (c : Ctl) (code : BitVec 6), enabled c s.core = true →
    exec (.svc code c) s = .next (s.trapped c { code := 0x17, i0 := w64 code.toNat, i1 := s.core.npc, i2 := 0, i3 := 0 }) ∧
    exec (.brk code c) s = .next (s.trapped c { code := 0x16, i0 := w64 code.toNat, i1 := s.core.npc, i2 := 0, i3 := 0 })) ∧
  (∀ (s : State) (c : Ctl), enabled c s.core = true →
    (s.core.sys.intrap = false → exec (.eret c) s = .next (s.trapped c (illegal s.core 9))) ∧
    (s.core.sys.intrap = true → targetOk s s.core.sys.xpc = true →
      let pc := s.core.sys.xpc
      let back := (s.targetRead pc).onCore fun k => { k with sys := { k.sys with intrap := false }, inRep := k.sys.repstate.getLsbD 63 }
      exec (.eret c) s = .next
        (((back.gangTransfer (some pc)).onCore fun k => { k with kept := if s.core.sameLine pc then some pc else none }).went c pc)))

/-- Taking a trap into the thread's handler: XPC, XCAUSE, XINFO0 to XINFO3 and INTRAP are written, the PC is TVEC with bit 0 cleared, the
thread runs on outside every gang, and nothing is recorded. A trap the handler may not take writes the same registers, leaves INTRAP,
stops the thread on its instruction, and queues one KIND 1 record for its tenant. A stall on a refused translation leaves the trap
registers and the PC, and queues one KIND 2 record with the access kind, the address and the level.
Where the manual leaves a point open, it follows the model's reading: log 15, 18. -/
def Obligations.TrapTaking : Prop :=
  (∀ (s : State) (t : TrapInfo), s.core.loc.kind ≠ .slice → t.code < 256 →
    t.code ∉ [0x08, 0x14, 0x15] → s.core.sys.tvec.getLsbD 0 = true → s.core.sys.intrap = false →
    let u := s.takeTrap t
    u.core.sys = { s.core.sys with xpc := s.core.pc, xcause := w64 t.code, xinfo := #v[t.i0, t.i1, t.i2, t.i3], intrap := true } ∧
    u.core.pc = s.core.sys.tvec &&& ~~~1 ∧ u.core.run = s.core.run ∧ u.core.gang = none ∧ u.tenants = s.tenants) ∧
  (∀ (s : State) (t : TrapInfo), s.core.loc.kind ≠ .slice → t.code < 256 →
    t.code ∈ [0x08, 0x14, 0x15] ∨ s.core.sys.tvec.getLsbD 0 = false ∨ s.core.sys.intrap = true →
    let u := s.takeTrap t
    u.core.sys = { s.core.sys with xpc := s.core.pc, xcause := w64 t.code, xinfo := #v[t.i0, t.i1, t.i2, t.i3] } ∧
    u.core.pc = s.core.pc ∧ u.core.run = .stopped ∧ u.core.gang = none ∧
    ∃ r : Record, r.kind = 1 ∧ r.code.toNat = t.code ∧ r.xpc = s.core.pc ∧ r.xinfo = #v[t.i0, t.i1, t.i2, t.i3] ∧
      (u.tenantAt s.core.tenantNo).records = (s.tenantAt s.core.tenantNo).records ++ [r]) ∧
  (∀ (s : State) (code level va : Nat) (acc : Access), s.core.loc.kind ≠ .slice → code < 256 →
    let u := s.takeStall s.core.loc code level acc va
    u.core.sys = s.core.sys ∧ u.core.pc = s.core.pc ∧ u.core.run = .stalled ∧ u.core.gang = none ∧
    ∃ r : Record, r.kind = 2 ∧ r.code.toNat = code ∧ r.xpc = s.core.pc ∧
      r.xinfo = #v[w64 ((if acc.atomic then 4 else if acc.write then 1 else 0) + if acc.fetch then 2 else 0), 0, w64 va, w64 level] ∧
      (u.tenantAt s.core.tenantNo).records = (s.tenantAt s.core.tenantNo).records ++ [r])

/-- Neither a trap nor a stall changes a general register, a guard, a vector or mask register, or a byte of any memory. -/
def Obligations.TrapFrame : Prop :=
  ∀ (s : State) (t : TrapInfo) (code level va : Nat) (acc : Access),
    ∀ u ∈ [s.takeTrap t, s.takeStall s.core.loc code level acc va],
      keepsX s u [] ∧ keepsG s u [] ∧ keepsV s u [] ∧ keepsM s u [] ∧ keepsMem s u ∧ keepsLocal s u ∧
      u.core.bankfmt = s.core.bankfmt ∧ u.core.streams = s.core.streams ∧ u.core.fifo = s.core.fifo ∧ u.core.ctrs = s.core.ctrs ∧
      u.core.rings = s.core.rings ∧ u.core.wins = s.core.wins

/-! ## System registers (R194, R203, R377 to R380, R18) -/

/-- SYS.RD gives the value of the register it names: STATUS with the level of the core's kind, CYCLE the cycle of issue, HDRFLD the field
HDRSEL selects. SYS.WR writes what the register's map lets be written, and no other register; it rejects a bad HDRFLD or XCAUSE with a
usage fault. SYS.WR and BANKF.SET write a bank format register, a reserved format taking FMTRESERVED, and BANKF.GET reads it. -/
def Obligations.SystemRegisters : Prop :=
  (∀ (s : State) (c : Ctl) (d : XReg) (i : BitVec 2) (b : Fin 12), enabled c s.core = true →
    let y := s.core.sys
    let level := if s.core.loc.kind = .control then 3 else 0
    ∀ p ∈ ([(.xpc, y.xpc), (.xcause, y.xcause), (.xinfo i, y.xinfo[i.toNat]), (.tvec, y.tvec), (.lpc, y.lpc),
        (.status, w64 (64 * level + (if y.demoted then 2 else 0) + if y.intrap then 1 else 0)), (.cycle, s.cycle), (.seed, y.seed),
        (.tenant, w64 y.tenant.toNat), (.repstate, y.repstate), (.reppc, y.reppc), (.repmpc, y.repmpc), (.hdrsel, y.hdrsel),
        (.hdrfld, w64 (y.hdrfld[(y.hdrsel.extractLsb' 0 7).toNat]?.getD 0).toNat), (.cecnt, w64 y.cecnt.toNat),
        (.bankfmt b, s.core.bankfmt[b])] : List (SysReg × W64)),
      exec (.sysRd d p.1 c) s = .next ((s.setX d p.2).ended c)) ∧
  (∀ (s : State) (c : Ctl) (a : XReg) (i : BitVec 2), enabled c s.core = true →
    let v := s.x a
    let y := s.core.sys
    let f : W32 := v.setWidth 32 &&& 0xC1FF1F0F#32
    ∀ p ∈ ([(.xpc, true, { y with xpc := v }), (.xcause, decide (v.toNat < 256), { y with xcause := v }),
        (.xinfo i, true, { y with xinfo := y.xinfo.set i.toNat v }), (.tvec, true, { y with tvec := v }),
        (.lpc, true, { y with lpc := v &&& ~~~1 }),
        (.status, true, { y with demoted := y.demoted && v.getLsbD 1, intrap := v.getLsbD 0 }),
        (.seed, true, { y with seed := if v.setWidth 32 = (0 : W32) then 1 else w64 (v.toNat % 2 ^ 32) }),
        (.tenant, decide (s.core.loc.kind = .control), { y with tenant := v.setWidth 6 }),
        (.repstate, true, { y with repstate := v &&& 0x801FFFCFFFFFFFFF#64 }), (.reppc, true, { y with reppc := v }),
        (.repmpc, true, { y with repmpc := v }), (.hdrsel, true, { y with hdrsel := v &&& 0x7F#64 }),
        (.hdrfld, !(f.getLsbD 31 && decide (512 < (f.extractLsb' 16 9).toNat + (f.extractLsb' 8 5).toNat + 1)),
          { y with hdrfld := y.hdrfld.setIfInBounds (y.hdrsel.extractLsb' 0 7).toNat f })] : List (SysReg × Bool × SysRegs)),
      p.2.1 = true → exec (.sysWr a p.1 c) s = .next (({ s with core := { s.core with sys := p.2.2 } } : State).ended c)) ∧
  (∀ (s : State) (c : Ctl) (d b a : XReg) (k : Fin 12), enabled c s.core = true →
    let v := s.x a
    let f : W32 := v.setWidth 32
    let good := fun (v : W64) => v.toNat < 32 ∧ (v.toNat % 16 ≤ 10 ∨ v.toNat % 16 = 15) ∧
      (v.toNat < 16 ∨ v.toNat % 16 ∈ [3, 4, 7, 10])
    let put := fun (k : Fin 12) (v : W64) => ({ s with core := { s.core with bankfmt := s.core.bankfmt.set k v } } : State)
    let bad : TrapInfo := { code := 0x0C, i0 := 0, i1 := 0, i2 := 0, i3 := 0 }
    (256 ≤ v.toNat → exec (.sysWr a .xcause c) s = .next (s.trapped c (illegal s.core 9))) ∧
    (f.getLsbD 31 = true → 512 < (f.extractLsb' 16 9).toNat + (f.extractLsb' 8 5).toNat + 1 →
      exec (.sysWr a .hdrfld c) s = .next (s.trapped c (illegal s.core 9))) ∧
    (good v → exec (.sysWr a (.bankfmt k) c) s = .next ((put k v).ended c)) ∧
    (¬good v → exec (.sysWr a (.bankfmt k) c) s = .next (s.trapped c bad)) ∧
    (12 ≤ v.toNat → exec (.bankfSet b a c) s = .next (s.trapped c (illegal s.core 9)) ∧
      exec (.bankfGet d a c) s = .next (s.trapped c (illegal s.core 9))) ∧
    ∀ h : v.toNat < 12,
      (good (s.x b) → exec (.bankfSet b a c) s = .next ((put ⟨v.toNat, h⟩ (s.x b)).ended c)) ∧
      (¬good (s.x b) → exec (.bankfSet b a c) s = .next (s.trapped c bad)) ∧
      exec (.bankfGet d a c) s = .next ((s.setX d (s.core.bankfmt[v.toNat])).ended c))

/-! ## Vector instructions (R166 to R199) -/

/-- What a vector operand reads and writes: a register; null, which reads zero and takes nothing; a link port in word mode, its oldest
landed word popped, a stall where none has landed, LINKMODE in a contract's mode; a stream port, the element at its next address read
or written and its count raised by one, a usage fault without a stream of that direction or past its last element, PROTECT at an element
outside local memory. Where the manual leaves a point open, it follows the model's reading: log 40, and log 127 (a push past the last). -/
def Obligations.VectorOperands : Prop :=
  ∀ (s : State) (r : BitVec 5) (d : Dir) (q : BitVec 2) (w : V512),
    (readV s (.reg r) = .ok (some (s.core.getV r, s)) ∧ readV s .null = .ok (some (0, s)) ∧
      writeV s (.reg r) w = .ok (some (s.setV r w)) ∧ writeV s .null w = .ok (some s)) ∧
    ((s.core.port d).mode ≠ .word →
      readV s (.link d) = .error (.trap { code := 0x10, i0 := w64 d.index, i1 := 0, i2 := 0, i3 := 0 })) ∧
    ((s.core.port d).mode = .word → s.core.wordErr = [] → ∀ v rest, s.core.fifoOf d = v :: rest → v.landed = true →
      readV s (.link d) = .ok (some (v.data, { s with core := s.core.setFifo d rest }))) ∧
    ((s.core.port d).mode = .word → (∀ v ∈ (s.core.fifoOf d).head?, v.landed = false) → readV s (.link d) = .ok none) ∧
    ((s.core.port d).mode = .word → s.portSide s.core d = .usable → ∀ n, neighbour s.core.loc d = some n →
      writeV s (.link d) w =
        if ((s.coreAt n).fifoOf d.opp).length < 8 then
          .ok (some (s.modCore n fun c => c.setFifo d.opp ((s.coreAt n).fifoOf d.opp ++ [{ data := w, landed := false, pusher := s.core.place }])))
        else .ok none) ∧
    ((s.core.port d).mode = .word → s.portSide s.core d = .detached → writeV s (.link d) w = .ok none) ∧
    ((s.core.port d).mode = .direct → writeV s (.link d) w = .error (.trap (illegal s.core 9))) ∧
    ((s.core.port d).mode = .instr → writeV s (.link d) w =
      if (s.core.port d).w ≤ (s.core.port d).fed then .error (.trap (illegal s.core 9))
      else if s.linkFenced (engineOf s.core.loc d).1 (engineOf s.core.loc d).2.1 ∨
        8 ≤ (s.engineAt (engineOf s.core.loc d).1 (engineOf s.core.loc d).2.1).fill (engineOf s.core.loc d).2.2 s.core.place then .ok none
      else .ok (some (s.feedWord s.core.loc d w))) ∧
    let p := s.core.streams[q.toNat]
    let a := p.desc.addr p.n
    let bad := Res.trap { code := 0x09, i0 := w64 (36 + q.toNat), i1 := 0, i2 := w64i a, i3 := 0 }
    let ok := 0 ≤ a ∧ a ≤ 0x2FFC0 ∧ s.core.inStash a.toNat 64 = false
    (p.mode ≠ .load ∨ p.desc.total ≤ p.n → readV s (.stream q) = .error (.trap (illegal s.core 9))) ∧
    (p.mode = .load → p.n < p.desc.total → (¬ok → readV s (.stream q) = .error bad) ∧
      (ok → s.core.badLocal = [] → s.core.soft = [] → readV s (.stream q) = .ok (some (BitVec.ofNat 512 (leNat (s.core.lmem.readN a.toNat 64)),
        { s with core := { s.core with streams := s.core.streams.set q.toNat { p with n := p.n + 1 } } })))) ∧
    (p.mode ≠ .store ∨ p.desc.total ≤ p.n → writeV s (.stream q) w = .error (.trap (illegal s.core 9))) ∧
    (p.mode = .store → p.n < p.desc.total → (¬ok → writeV s (.stream q) w = .error bad) ∧
      (ok → writeV s (.stream q) w = .ok (some
        { s with core := { s.core with
          streams := s.core.streams.set q.toNat { p with n := p.n + 1 }
          lmem := s.core.lmem.writeN a.toNat (natBytes 64 w.toNat) } })))

/-- The masked instructions on two sources: each active lane its value, an inactive lane zero or what the destination held; floats are
computed exactly and rounded once to nearest even, integers by their signedness, the low bits kept. `vs` are the sources read. -/
def Obligations.VectorResults : Prop :=
  ∀ (s : State) (c : Ctl) (d b a : VOp) (t : VType) (m : MaskOp) (k : BitVec 3), enabled c s.core = true →
    let w := VType.bits t
    let A := fun (vs : List V512) (j : Nat) => laneOf w (vs.getD 0 0) j
    let B := fun (vs : List V512) (j : Nat) => laneOf w (vs.getD 1 0) j
    let put := fun (val : List V512 → Nat → Nat) (vs : List V512) =>
      ofLanes w ((List.range (512 / w)).map fun j =>
        if (s.core.getM m.m).getLsbD j then val vs j else if m.z then 0 else laneOf w (oldV s d) j)
    let go := fun (i : Instr) (srcs : List VOp) (val : List V512 → Nat → Nat) =>
      ∀ vs s1 s2, portsClear s (srcs ++ [d]) = true → readAll s srcs = .ok (some (vs, s1)) →
        writeV s1 d (put val vs) = .ok (some s2) → exec i s = .next (s2.ended c)
    (∀ f, VType.ntype t = .flt f →
      let F := fun (g : FVal → FVal → FVal) (vs : List V512) (j : Nat) => fround f (g (fdec f (A vs j)) (fdec f (B vs j)))
      let F1 := fun (g : FVal → FVal) (vs : List V512) (j : Nat) => fround f (g (fdec f (A vs j)))
      go (.vadd d b a t m c) [a, b] (F FVal.add) ∧ go (.vsub d b a t m c) [a, b] (F fun x y => x.add y.neg) ∧
      go (.vmul d b a t m c) [a, b] (F FVal.mul) ∧ go (.vmin d b a t m c) [a, b] (F FVal.fmin) ∧
      go (.vmax d b a t m c) [a, b] (F FVal.fmax) ∧ go (.vabs d a t m c) [a] (F1 FVal.abs) ∧ go (.vneg d a t m c) [a] (F1 FVal.neg)) ∧
    (∀ n sg, VType.ntype t = .int n sg →
      let lo : Int := if sg then -2 ^ (n - 1) else 0
      let hi : Int := if sg then 2 ^ (n - 1) - 1 else 2 ^ n - 1
      let I := fun (g : Int → Int → Int) (vs : List V512) (j : Nat) => (g (intDec n sg (A vs j)) (intDec n sg (B vs j)) % 2 ^ n).toNat
      let clamp := fun (x : Int) => if x < lo then lo else if hi < x then hi else x
      go (.vadd d b a t m c) [a, b] (I fun x y => x + y) ∧ go (.vsub d b a t m c) [a, b] (I fun x y => x - y) ∧
      go (.vmul d b a t m c) [a, b] (I fun x y => x * y) ∧ go (.vmin d b a t m c) [a, b] (I fun x y => if x < y then x else y) ∧
      go (.vmax d b a t m c) [a, b] (I fun x y => if x < y then y else x) ∧ go (.vabs d a t m c) [a] (I fun x _ => if x < 0 then -x else x) ∧
      go (.vneg d a t m c) [a] (I fun x _ => -x) ∧ go (.vadds d b a t m c) [a, b] (I fun x y => clamp (x + y)) ∧
      go (.vsubs d b a t m c) [a, b] (I fun x y => clamp (x - y))) ∧
    go (.vand d b a t m c) [a, b] (fun vs j => A vs j &&& B vs j) ∧ go (.vor d b a t m c) [a, b] (fun vs j => A vs j ||| B vs j) ∧
    go (.vxor d b a t m c) [a, b] (fun vs j => A vs j ^^^ B vs j) ∧
    go (.vandn d b a t m c) [a, b] (fun vs j => A vs j &&& (2 ^ w - 1 - B vs j)) ∧
    go (.vshl d b a t m c) [a, b] (fun vs j => A vs j * 2 ^ (B vs j % w) % 2 ^ w) ∧
    go (.vshr d b a t m c) [a, b] (fun vs j => A vs j / 2 ^ (B vs j % w)) ∧
    go (.vsar d b a t m c) [a, b] (fun vs j => (intDec w true (A vs j) / 2 ^ (B vs j % w) % 2 ^ w).toNat) ∧
    go (.vsel d b a k t m c) [a, b] (fun vs j => if (s.core.getM k).getLsbD j then A vs j else B vs j)

/-- The masked instructions on three sources and those on one that are not lane by lane: the fused multiply-adds, VPERM, the dot
products of bytes, and VSCANADD, whose lane is the sum from lane 0 on, an inactive lane adding zero. -/
def Obligations.VectorResults3 : Prop :=
  ∀ (s : State) (c : Ctl) (d e b a : VOp) (x : XReg) (rm : RM) (t : VType) (m : MaskOp), enabled c s.core = true →
    let lane := fun (w : Nat) (vs : List V512) (i j : Nat) => laneOf w (vs.getD i 0) j
    let go := fun (i : Instr) (w : Nat) (srcs : List VOp) (val : List V512 → Nat → Nat) =>
      ∀ vs s1 s2, portsClear s (srcs ++ [d]) = true → readAll s srcs = .ok (some (vs, s1)) →
        writeV s1 d (ofLanes w ((List.range (512 / w)).map fun j =>
          if (s.core.getM m.m).getLsbD j then val vs j else if m.z then 0 else laneOf w (oldV s d) j)) = .ok (some s2) →
        exec i s = .next (s2.ended c)
    let w := VType.bits t
    (∀ f, VType.ntype t = .flt f →
      let P := fun (vs : List V512) (j : Nat) => (fdec f (lane w vs 0 j)).mul (fdec f (lane w vs 1 j))
      let E := fun (vs : List V512) (j : Nat) => fdec f (lane w vs 2 j)
      go (.vfma d e b a t m c) w [a, b, e] (fun vs j => fround f ((P vs j).add (E vs j))) ∧
      go (.vfms d e b a t m c) w [a, b, e] (fun vs j => fround f ((P vs j).add (E vs j).neg)) ∧
      go (.vfnma d e b a t m c) w [a, b, e] (fun vs j => fround f ((P vs j).neg.add (E vs j))) ∧
      go (.vscanadd d a x rm t m c) w [a] (fun vs j => ((List.range (j + 1)).foldl (fun acc i =>
        fenc f rm false 0 ((fdec f acc).add (fdec f (if (s.core.getM m.m).getLsbD i then lane w vs 0 i else 0)))) ((s.x x).toNat % 2 ^ w)))) ∧
    (∀ n sg, VType.ntype t = .int n sg →
      let P := fun (vs : List V512) (j : Nat) => intDec n sg (lane w vs 0 j) * intDec n sg (lane w vs 1 j)
      let E := fun (vs : List V512) (j : Nat) => intDec n sg (lane w vs 2 j)
      go (.vfma d e b a t m c) w [a, b, e] (fun vs j => ((P vs j + E vs j) % 2 ^ n).toNat) ∧
      go (.vfms d e b a t m c) w [a, b, e] (fun vs j => ((P vs j - E vs j) % 2 ^ n).toNat) ∧
      go (.vfnma d e b a t m c) w [a, b, e] (fun vs j => ((E vs j - P vs j) % 2 ^ n).toNat) ∧
      go (.vscanadd d a x rm t m c) w [a] (fun vs j => ((s.x x).toNat +
        ((List.range (j + 1)).map fun i => if (s.core.getM m.m).getLsbD i then lane w vs 0 i else 0).sum) % 2 ^ w)) ∧
    go (.vperm d e b a t m c) w [a, b, e] (fun vs j =>
      let k := lane w vs 2 j % (2 * (512 / w))
      if k < 512 / w then lane w vs 0 k else lane w vs 1 (k - 512 / w)) ∧
    (let dot := fun (sg : Bool) (vs : List V512) (j : Nat) =>
       (((lane 32 vs 2 j : Int) + ((List.range 4).map fun i =>
         intDec 8 sg (lane 8 vs 0 (4 * j + i)) * intDec 8 sg (lane 8 vs 1 (4 * j + i))).sum) % 2 ^ 32).toNat
     go (.vdot4 d e b a m c) 32 [a, b, e] (dot true) ∧ go (.vdot4n d e b a m c) 32 [a, b, e] (dot false)) ∧
    let fn := fun (g : FVal → FVal) (vs : List V512) (j : Nat) => fround fF32 (g (fdec fF32 (lane 32 vs 0 j)))
    go (.vexp2 d a m c) 32 [a] (fn FVal.exp2) ∧ go (.vlog2 d a m c) 32 [a] (fn FVal.log2) ∧
    go (.vrcp d a m c) 32 [a] (fn fun v => (FVal.fin false 1 0).div v) ∧ go (.vsqrt d a m c) 32 [a] (fn FVal.sqrt) ∧
    go (.vrsq d a m c) 32 [a] (fn FVal.rsq)

/-- The frame of the masked instructions: they change no x register, guard or mask, no memory but the local bytes a stream destination
stores to, and no vector register but their destination. -/
def Obligations.VectorFrame : Prop :=
  ∀ (i : Instr) (s t : State) (d : VOp) (srcs : List VOp), masked i = some (d, srcs) → exec i s = .next t →
    keepsX s t [] ∧ keepsG s t [] ∧ keepsM s t [] ∧ keepsV s t (VOp.regs d) ∧ keepsMem s t ∧ t.core.sys.seed = s.core.sys.seed ∧
    t.core.bankfmt = s.core.bankfmt ∧
    ((∀ q, d ≠ .stream q) → keepsLocal s t) ∧ ∀ q, d = .stream q →
      let a := ((s.core.streams[q.toNat]).desc.addr (s.core.streams[q.toNat]).n).toNat
      keepsLocalBut s t a 64

/-- VCMP, VBCAST, VEXTR, VINS, VISECT, VCPRS, the header fields, VMOV and VFWD: what each writes, lane by lane or bit by bit. -/
def Obligations.VectorMoves : Prop :=
  ∀ (s : State) (c : Ctl) (d e b a : VOp) (x y z : XReg) (r : BitVec 5) (k q : BitVec 3) (cc : VCond) (t : VType) (m : MaskOp)
    (da db : Dir) (ob : Option (BitVec 5)), enabled c s.core = true →
    let w := VType.bits t
    let n := 512 / w
    let lanes := fun (w : Nat) (v : V512) (f : Nat → Nat) => ∀ j < 512 / w, laneOf w v j = f j
    let reads := fun (srcs : List VOp) (vs : List V512) (s1 : State) =>
      portsClear s srcs = true ∧ readAll s srcs = .ok (some (vs, s1))
    (∀ vs s1, reads [a, b] vs s1 → ∃ v : W64, exec (.vcmp k cc b a t m c) s = .next ((s1.setM k v).ended c) ∧
      ∀ j < 64, v.getLsbD j = (decide (j < n) && if (s.core.getM m.m).getLsbD j then
        (match VType.ntype t with
         | .flt f =>
           let p := fdec f (laneOf w (vs.getD 0 0) j)
           let o := fdec f (laneOf w (vs.getD 1 0) j)
           let ordered := !p.isNan && !o.isNan
           (match cc with
            | .eq => ordered && decide (p.cmp o = 0)
            | .ne => !(ordered && decide (p.cmp o = 0))
            | .lt => ordered && decide (p.cmp o < 0)
            | .le => ordered && decide (p.cmp o ≤ 0))
         | .int i sg =>
           let p := intDec i sg (laneOf w (vs.getD 0 0) j)
           let o := intDec i sg (laneOf w (vs.getD 1 0) j)
           (match cc with
            | .eq => decide (p = o) | .ne => decide (p ≠ o) | .lt => decide (p < o) | .le => decide (p ≤ o)))
        else !m.z && (s.core.getM k).getLsbD j)) ∧
    (portsClear s [d] = true → ∃ v, lanes w v (fun _ => (s.x x).toNat % 2 ^ w) ∧
      ∀ s2, writeV s d v = .ok (some s2) → exec (.vbcast d t x c) s = .next (s2.ended c)) ∧
    (let code := (s.x y).toNat / 256 % 16
     let lane := (s.x y).toNat % 128
     (∀ u ∈ [(0, VType.f32), (1, .f16), (2, .bf16), (3, .i32), (4, .i16), (5, .i8), (6, .n32), (7, .n16), (8, .n8)],
       code = u.1 → lane < 512 / VType.bits u.2 →
       let val := fun (bits : Nat) => match VType.ntype u.2 with
         | .int i true => w64i (BitVec.ofNat i bits).toInt
         | _ => w64 bits
       (∀ vs s1, reads [a] vs s1 →
         exec (.vextr x y a c) s = .next ((s1.setX x (val (laneOf (VType.bits u.2) (vs.getD 0 0) lane))).ended c)) ∧
       ∃ v, exec (.vins r y z c) s = .next ((s.setV r v).ended c) ∧ lanes (VType.bits u.2) v fun j =>
         if j = lane then (s.x z).toNat % 2 ^ VType.bits u.2 else laneOf (VType.bits u.2) (s.core.getV r) j) ∧
     (8 < code ∨ (∃ u, typeOfCode code = some u ∧ 512 / VType.bits u ≤ lane) → portsClear s [a] = true →
       exec (.vextr x y a c) s = .next (s.trapped c (illegal s.core 9)) ∧
       exec (.vins r y z c) s = .next (s.trapped c (illegal s.core 9)))) ∧
    (let u := s.x z
     let v := s.x y
     let both := (List.range 16).filter fun j => u.getLsbD j && v.getLsbD j
     let below := fun (p : W64) (j : Nat) => ((List.range j).filter fun i => p.getLsbD i).length
     let offA := (s.x x).toNat % 2 ^ 32
     let offB := (s.x x).toNat / 2 ^ 32
     portsClear s [d] = true → ∃ o, lanes 32 o (fun j => match both[j]? with
         | some p => (offB + below v p) % 2 ^ 16 * 2 ^ 16 + (offA + below u p) % 2 ^ 16
         | none => 0) ∧
       ∀ s2, writeV s d o = .ok (some s2) → exec (.visect d x y z q c) s = .next
         (((s2.setM q (w64 (2 ^ both.length - 1))).setX x
           (w64 ((offB + below v 16) % 2 ^ 32 * 2 ^ 32 + (offA + below u 16) % 2 ^ 32))).ended c)) ∧
    (∀ vs s1, reads [a] vs s1 → portsClear s [a, d] = true →
      (let on := (List.range n).filter fun j => (s.core.getM q).getLsbD j
       ∃ o, lanes w o (fun j => match on[j]? with
           | some p => laneOf w (vs.getD 0 0) p
           | none => 0) ∧
         ∀ s2, writeV s1 d o = .ok (some s2) → exec (.vcprs d a x t q c) s = .next ((s2.setX x (w64 on.length)).ended c)) ∧
      (∀ s2, writeV s1 d (vs.getD 0 0) = .ok (some s2) → exec (.vmov d a c) s = .next (s2.ended c))) ∧
    (∀ v s1 s2, reads [.link da] [v] s1 → portsClear s [.link da, .link db] = true → writeV s1 (.link db) v = .ok (some s2) →
      exec (.vfwd db da ob c) s = .next ((match ob with
        | some r => s2.setV r v
        | none => s2).ended c)) ∧
    (let fields := ((List.range 8).map fun i => s.core.sys.hdrfld[8 * ((s.x x).toNat % 16) + i]?.getD 0).filter fun f => f.getLsbD 31
     let width := fun (f : W32) => f.toNat / 256 % 32 + 1
     let bit := fun (f : W32) (j : Nat) =>
       let off := f.toNat / 65536 % 512
       if f.getLsbD 30 then 8 * ((off + width f - 1 - j) / 8) + (7 - (off + width f - 1 - j) % 8) else off + j
     (∀ vs s1, reads [a] vs s1 → portsClear s [a, d] = true → ∃ o : V512,
       (∀ l < 16, ∀ j < 32, o.getLsbD (32 * l + j) = match fields.reverse.find? fun f => f.toNat % 16 == l with
         | some f => decide (j < width f) && (vs.getD 0 0).getLsbD (bit f j)
         | none => false) ∧
       ∀ s2, writeV s1 d o = .ok (some s2) → exec (.vhdrP d a x c) s = .next (s2.ended c)) ∧
     (∀ vs s1, reads [a, e] vs s1 → portsClear s [a, e, d] = true → ∃ o : V512,
       (∀ p < 512, o.getLsbD p = ((fields.reverse.findSome? fun f => ((List.range (width f)).find? fun j => bit f j == p).map fun j =>
         (vs.getD 0 0).getLsbD (32 * (f.toNat % 16) + j)).getD ((vs.getD 1 0).getLsbD p))) ∧
       ∀ s2, writeV s1 d o = .ok (some s2) → exec (.vhdrA d e a x c) s = .next (s2.ended c)))

/-- The reductions fold the lanes by the tree of R87, an inactive lane contributing the neutral value; VCVT converts sixteen elements of
one position into sixteen of another, with `.rs` drawing one number for each in ascending order, and is held for its assist when a side
is a 6-bit format.
Where the manual leaves a point open, it follows the model's reading: log 90, and log 91 for VCVT to a 6-bit
destination, which rounds the exact value once. -/
def Obligations.VectorFolds : Prop :=
  ∀ (s : State) (c : Ctl) (d : VOp) (a : VOp) (x : XReg) (t : VType) (rm : RM) (k : BitVec 3) (sp dp : BitVec 2) (src dst : CType)
    (sat : Bool), enabled c s.core = true →
    let w := VType.bits t
    let ext := fun (bits : Nat) => match VType.ntype t with
      | .int i true => w64i (BitVec.ofNat i bits).toInt
      | _ => w64 bits
    let go := fun (i : Instr) (f : Nat → Nat → Nat) (fill : Nat) =>
      ∀ vs s1, portsClear s [a] = true → readAll s [a] = .ok (some (vs, s1)) →
        ∀ T : Nat → Nat → Nat,
          (∀ l, T 0 l = if (s.core.getM k).getLsbD l then laneOf w (vs.getD 0 0) l else fill) →
          (∀ n l, T (n + 1) l = f (T n l) (T n (l + 2 ^ n))) →
          ∀ n, 2 ^ n = 512 / w → exec i s = .next ((s1.setX x (ext (T n 0))).ended c)
    (∀ f, VType.ntype t = .flt f →
      let fl := fun (g : FVal → FVal → FVal) (u v : Nat) => fround f (g (fdec f u) (fdec f v))
      go (.vredadd x a rm t k c) (fun u v => fenc f rm false 0 ((fdec f u).add (fdec f v))) 0 ∧
      go (.vredmin x a t k c) (fl FVal.fmin) (fround f (.inf false)) ∧ go (.vredmax x a t k c) (fl FVal.fmax) (fround f (.inf true))) ∧
    (∀ n sg, VType.ntype t = .int n sg →
      let I := fun (g : Int → Int → Int) (u v : Nat) => (g (intDec n sg u) (intDec n sg v) % 2 ^ n).toNat
      go (.vredadd x a rm t k c) (fun u v => (u + v) % 2 ^ n) 0 ∧
      go (.vredmin x a t k c) (I fun u v => if u < v then u else v) (if sg then 2 ^ (n - 1) - 1 else 2 ^ n - 1) ∧
      go (.vredmax x a t k c) (I fun u v => if u < v then v else u) (if sg then 2 ^ (n - 1) else 0)) ∧
    let st := CType.ntype src
    let dt := CType.ntype dst
    let fp6 := CType.isFp6 src || CType.isFp6 dst
    (fp6 = true → s.core.prog ≠ some (.assist true) → exec (.vcvt d a sp dp src dst rm sat c) s = .next
      (({ s with core := { s.core with prog := some (.assist false) } } : State).holding c)) ∧
    (fp6 = false ∨ s.core.prog = some (.assist true) → ∀ vs s1, portsClear s [a, d] = true → readAll s [a] = .ok (some (vs, s1)) →
      let drawn := if rm = .rs then draws 16 (s.core.sys.seed.setWidth 32) else ([], s.core.sys.seed.setWidth 32)
      ∃ o, (∀ j < 512 / dt.width, laneOf dt.width o j =
          if 16 * dp.toNat ≤ j ∧ j < 16 * dp.toNat + 16 then
            let i := j - 16 * dp.toNat
            convert dt rm sat (drawn.1.getD i 0) (st.dec (laneOf st.width (vs.getD 0 0) (16 * sp.toNat + i))) % 2 ^ dt.width
          else laneOf dt.width (oldV s d) j) ∧
        o.toNat / 2 ^ (dt.width * (512 / dt.width)) = (oldV s d).toNat / 2 ^ (dt.width * (512 / dt.width)) ∧
        ∀ s2, writeV s1 d o = .ok (some s2) → exec (.vcvt d a sp dp src dst rm sat c) s = .next
          ((if rm = .rs then { s2 with core := { s2.core with sys := { s2.core.sys with seed := drawn.2.setWidth 64 } } } else s2).ended c))

/-! ## Vector memory (R184 to R188), streams and the repetition buffer (R197 to R203) -/

/-- VLDL and VSTL on a core without a bad block, a load correcting the single-bit errors it reads (R368): the checks of R184 in their order;
64 bytes in a lane type; sixteen elements in the format of the bank with `auto`, each encoded or decoded by R185, with its usage faults and
its assist.
Where the manual leaves a point open, it follows the model's reading: log 90. -/
def Obligations.VectorLocal : Prop :=
  ∀ (s : State) (c : Ctl) (d : VOp) (a : XReg) (t : VType) (off : BitVec 12), enabled c s.core = true → s.core.badLocal = [] →
    portsClear s [d] = true →
    let at_ := s.x a + w64i off.toInt
    let A := at_.toNat
    let both := fun (mt : MType) (u : State) => exec (.vldl d a mt off c) s = .next u ∧ exec (.vstl d a mt off c) s = .next u
    let trap := fun (code : Nat) => s.trapped c { code := code, i0 := 0, i1 := 0, i2 := at_, i3 := 0 }
    let fmt := (s.core.bankfmt[A / 0x4000]?.getD 0).toNat % 16
    let scaled := (s.core.bankfmt[A / 0x4000]?.getD 0).getLsbD 4
    (∀ mt, 0x30000 ≤ A → both mt (trap 0x09)) ∧
    (A < 0x30000 → A % 64 ≠ 0 → both (.ty t) (trap 0x07)) ∧
    (A < 0x30000 → A % 64 = 0 → s.core.inStash A 64 = true → both (.ty t) (trap 0x09)) ∧
    (A < 0x30000 → A % 64 = 0 → s.core.inStash A 64 = false →
      (∀ s2, writeV s d (BitVec.ofNat 512 (leNat (s.core.lmem.readN A 64))) = .ok (some s2) →
        exec (.vldl d a (.ty t) off c) s = .next ((s2.noteBad A 64).ended c)) ∧
      ∀ v s1, readV s d = .ok (some (v, s1)) → exec (.vstl d a (.ty t) off c) s = .next
        (({ s1 with core := { s1.core with lmem := s1.core.lmem.writeN A (natBytes 64 v.toNat) } } : State).ended c)) ∧
    ∀ p ∈ [(0, 64, 64), (1, 32, 32), (2, 32, 32), (3, 16, 16), (4, 16, 16), (5, 12, 4), (6, 12, 4), (7, 8, 8), (8, 16, 16), (9, 8, 8),
        (10, 8, 8), (15, 16, 16)], fmt = p.1 → A < 0x30000 →
      let n := p.2.1
      let w := n / 2
      (A % p.2.2 ≠ 0 → both .auto (trap 0x07)) ∧
      (A % p.2.2 = 0 → s.core.inStash A n = true → both .auto (trap 0x09)) ∧
      (A % p.2.2 = 0 → s.core.inStash A n = false →
        (A / 0x4000 ≠ (A + n - 1) / 0x4000 → both .auto (s.trapped c (illegal s.core 9))) ∧
        (A / 0x4000 = (A + n - 1) / 0x4000 →
          (fmt = 5 ∨ fmt = 6 → s.core.prog ≠ some (.assist true) → both .auto
            (({ s with core := { s.core with prog := some (.assist false) } } : State).holding c)) ∧
          (¬(fmt = 5 ∨ fmt = 6) ∨ s.core.prog = some (.assist true) →
            let bs := leNat (s.core.lmem.readN A n)
            let elem := fun (j : Nat) => bs / 2 ^ (w * j) % 2 ^ w
            (∃ v, (∀ j < 16, laneOf 32 v j =
                if fmt = 0 then elem j
                else if fmt = 10 then
                  let q := i4xPair (bs / 2 ^ (8 * (j / 2)) % 256)
                  fround fF32 (if j % 2 = 1 then q.2 else q.1)
                else match fmtType fmt with
                  | some (.flt f) => fround fF32 (fdec f (elem j))
                  | some (.int i sg) => (intDec i sg (elem j) % 2 ^ 32).toNat
                  | none => elem j) ∧
              ∀ s2, writeV s d v = .ok (some s2) → exec (.vldl d a .auto off c) s = .next ((s2.noteBad A n).ended c)) ∧
            (fmt = 7 ∨ fmt = 10 ∨ (scaled = true ∧ (fmt = 3 ∨ fmt = 4)) →
              exec (.vstl d a .auto off c) s = .next (s.trapped c (illegal s.core 9))) ∧
            (¬(fmt = 7 ∨ fmt = 10 ∨ (scaled = true ∧ (fmt = 3 ∨ fmt = 4))) → ∀ v s1, readV s d = .ok (some (v, s1)) →
              ∃ out : List Byte, out.length = n ∧
                (∀ j < 16, leNat out / 2 ^ (w * j) % 2 ^ w = match fmtType fmt with
                  | some (.flt f) => if fmt = 0 then laneOf 32 v j else fround f (fdec fF32 (laneOf 32 v j)) % 2 ^ w
                  | _ => laneOf 32 v j % 2 ^ w) ∧
                exec (.vstl d a .auto off c) s = .next
                  (({ s1 with core := { s1.core with lmem := s1.core.lmem.writeN A out } } : State).ended c)))))

/-- VLDLS and VSTLS: after the checks of the base, the first lane whose element fails traps with its lane and address; where none fails
lane j moves `w` bytes at a + j·x[S2], stores in ascending lane order.
Where the manual leaves a point open, it follows the model's reading: log 43. -/
def Obligations.VectorStrided : Prop :=
  ∀ (s : State) (c : Ctl) (d : VOp) (a b : XReg) (t : VType) (off : BitVec 12), enabled c s.core = true → s.core.badLocal = [] →
    portsClear s [d] = true →
    let base := s.x a + w64i off.toInt
    let w := VType.bits t / 8
    let n := 64 / w
    let el := fun (j : Nat) => (base + w64 j * s.x b).toNat
    let inside := fun (j : Nat) => el j < 0x30000 ∧ s.core.inStash (el j) w = false
    base.toNat % w = 0 → base.toNat < 0x30000 → s.core.inStash base.toNat w = false →
    (∀ j < n, (∀ i < j, el i % w = 0 ∧ inside i) → ∀ i ∈ [Instr.vldls d a b t off c, .vstls d a b t off c],
      (el j % w ≠ 0 → exec i s = .next (s.trapped c { code := 0x07, i0 := w64 j, i1 := 0, i2 := w64 (el j), i3 := 0 })) ∧
      (el j % w = 0 → ¬inside j → exec i s = .next (s.trapped c { code := 0x09, i0 := w64 j, i1 := 0, i2 := w64 (el j), i3 := 0 }))) ∧
    ((∀ j < n, el j % w = 0 ∧ inside j) →
      (∃ v, (∀ j < n, laneOf (8 * w) v j = leNat (s.core.lmem.readN (el j) w)) ∧
        ∀ s2, writeV s d v = .ok (some s2) → exec (.vldls d a b t off c) s = .next
          (((List.range n).foldl (fun (u : State) j => u.noteBad (el j) w) s2).ended c)) ∧
      let stored := fun (v : V512) (m : Memory) =>
        (List.range n).foldl (fun (m : Memory) j => m.writeN (el j) (natBytes w (laneOf (8 * w) v j))) m
      ∀ v s1, readV s d = .ok (some (v, s1)) → exec (.vstls d a b t off c) s = .next
        (({ s1 with core := { s1.core with lmem := stored v s1.core.lmem } } : State).ended c))

/-- VGATL and VSCATL: sixteen elements at a + idx·e, the indices of v[S2] unsigned and the addresses exact, a 4-bit element a nibble; the
first element outside local memory traps PROTECT with its lane and index; loads widen, stores narrow, in ascending lane order. With
`auto` the format is that of the base's bank, a 6-bit one a usage fault.
Where the manual leaves a point open, it follows the model's reading: log 43. -/
def Obligations.VectorGather : Prop :=
  ∀ (s : State) (c : Ctl) (d : VOp) (a : XReg) (ix : BitVec 5) (t : VType) (off : BitVec 12), enabled c s.core = true →
    s.core.badLocal = [] → portsClear s [d] = true →
    let base := s.x a + w64i off.toInt
    let idx := fun (j : Nat) => laneOf 32 (s.core.getV ix) j
    let bank := s.core.bankfmt[base.toNat / 0x4000]?.getD 0
    let fmt := bank.toNat % 16
    let both := fun (mt : MType) (u : State) => exec (.vgatl d a ix mt off c) s = .next u ∧ exec (.vscatl d a ix mt off c) s = .next u
    let trap := fun (code : Nat) (x0 x1 x2 : W64) => s.trapped c { code := code, i0 := x0, i1 := x1, i2 := x2, i3 := 0 }
    -- `w` bits an element; a load's lane from the element's bytes, a store's bits from the lane, and whether stores are allowed
    let go := fun (mt : MType) (w : Nat) (widen : Nat → Bool → Nat) (narrow : Nat → Nat) (stores : Bool) =>
      let e := if w = 4 then 1 else w / 8
      let el := fun (j : Nat) => if w = 4 then base.toNat + idx j / 2 else base.toNat + idx j * e
      let odd := fun (j : Nat) => decide (w = 4 ∧ idx j % 2 = 1)
      let inside := fun (j : Nat) => el j < 0x30000 ∧ s.core.inStash (el j) e = false
      (base.toNat < 0x30000 → base.toNat % e ≠ 0 → both mt (trap 0x07 0 0 base)) ∧
      (base.toNat < 0x30000 → base.toNat % e = 0 →
        (∀ j < 16, (∀ i < j, inside i) → ¬inside j → both mt (trap 0x09 (w64 j) (w64 (idx j)) (w64 (el j)))) ∧
        ((∀ j < 16, inside j) →
          (∃ v, (∀ j < 16, laneOf 32 v j = widen (leNat (s.core.lmem.readN (el j) e)) (odd j)) ∧
            ∀ s2, writeV s d v = .ok (some s2) → exec (.vgatl d a ix mt off c) s = .next
              (((List.range 16).foldl (fun (u : State) j => u.noteBad (el j) e) s2).ended c)) ∧
          (stores = false → exec (.vscatl d a ix mt off c) s = .next (s.trapped c (illegal s.core 9))) ∧
          (stores = true →
            let put := fun (m : Memory) (j : Nat) (bits : Nat) =>
              if w = 4 then
                let old := (m.read (el j)).toNat
                m.write (el j) (BitVec.ofNat 8 (if odd j then old % 16 + 16 * bits else old / 16 * 16 + bits))
              else m.writeN (el j) (natBytes e bits)
            let stored := fun (v : V512) (m : Memory) =>
              (List.range 16).foldl (fun (m : Memory) j => put m j (narrow (laneOf 32 v j))) m
            ∀ v s1, readV s d = .ok (some (v, s1)) → exec (.vscatl d a ix mt off c) s = .next
              (({ s1 with core := { s1.core with lmem := stored v s1.core.lmem } } : State).ended c))))
    (∀ mt, 0x30000 ≤ base.toNat → both mt (trap 0x09 0 0 base)) ∧
    go (.ty t) (VType.bits t)
      (fun bits _ => match t with
        | .f16 => fround fF32 (fdec fF16 bits)
        | .bf16 => fround fF32 (fdec fBF16 bits)
        | .i16 => (intDec 16 true bits % 2 ^ 32).toNat
        | .i8 => (intDec 8 true bits % 2 ^ 32).toNat
        | _ => bits)
      (fun lane => match t with
        | .f16 => fround fF16 (fdec fF32 lane)
        | .bf16 => fround fBF16 (fdec fF32 lane)
        | _ => lane) true ∧
    (base.toNat < 0x30000 → fmt = 5 ∨ fmt = 6 → both .auto (s.trapped c (illegal s.core 9))) ∧
    (fmt ∈ [0, 1, 2, 3, 4, 7, 8, 9, 10, 15] → go .auto (fmtBits fmt)
      (fun bytes odd =>
        let bits := if fmtBits fmt = 4 then (if odd then bytes / 16 else bytes % 16) else bytes
        if fmt = 0 then bits
        else if fmt = 10 then fround fF32 (if odd then (i4xPair bytes).2 else (i4xPair bytes).1)
        else match fmtType fmt with
          | some (.flt f) => fround fF32 (fdec f bits)
          | some (.int i sg) => (intDec i sg bits % 2 ^ 32).toNat
          | none => bits)
      (fun lane => match fmtType fmt with
        | some (.flt f) => if fmt = 0 then lane else fround f (fdec fF32 lane)
        | _ => lane % 2 ^ fmtBits fmt)
      (!(decide (fmt = 7 ∨ fmt = 10) || (bank.getLsbD 4 && decide (fmt = 3 ∨ fmt = 4)))))

/-- SCFG configures a stream from the descriptor it reads, after MISALIGN, PROTECT and its reserved bits; its read corrects the single-bit
errors it meets, whatever becomes of the instruction; element n of a stream is at the address R197 gives; SCFG.stop makes the port idle and
gives the number of elements moved.
Where the manual leaves a point open, it follows the model's reading: log 118 (MISALIGN before PROTECT), log 119 (the read of an SCFG that
traps). -/
def Obligations.Streams : Prop :=
  ∀ (s : State) (c : Ctl) (q : BitVec 2) (a b : XReg), enabled c s.core = true → s.core.badLocal = [] →
    let at_ := s.x a
    let num := fun (o n : Nat) => leNat (s.core.lmem.readN (at_.toNat + o) n)
    let desc : StreamDesc := { base := num 0 4, counts := (List.range 4).map fun l => num (8 + 2 * l) 2 + 1,
                               strides := (List.range 4).map fun l => intDec 32 true (num (16 + 4 * l) 4) }
    let ok := num 4 4 = 0 ∧ num 0 4 % 64 = 0 ∧ ∀ l < 4, num (16 + 4 * l) 4 % 64 = 0
    let read := s.noteBad at_.toNat 32
    (∀ p ∈ [(Instr.scfgRead q a c, StreamMode.load), (.scfgWrite q a c, .store)],
      (at_.toNat % 32 ≠ 0 → exec p.1 s = .next (s.trapped c { code := 0x07, i0 := 0, i1 := 0, i2 := at_, i3 := 0 })) ∧
      (at_.toNat % 32 = 0 → 0x30000 ≤ at_.toNat ∨ s.core.inStash at_.toNat 32 = true →
        exec p.1 s = .next (s.trapped c { code := 0x09, i0 := 0, i1 := 0, i2 := at_, i3 := 0 })) ∧
      (at_.toNat % 32 = 0 → at_.toNat < 0x30000 → s.core.inStash at_.toNat 32 = false →
        (¬ok → exec p.1 s = .next (read.trapped c (illegal s.core 9))) ∧
        (ok → exec p.1 s = .next (({ read with core := { read.core with
          streams := s.core.streams.set q.toNat { mode := p.2, desc := desc, n := 0 } } } : State).ended c)))) ∧
    (∀ n, desc.addr n =
      let c0 := num 8 2 + 1
      let c1 := num 10 2 + 1
      let c2 := num 12 2 + 1
      let t := fun (l : Nat) => intDec 32 true (num (16 + 4 * l) 4)
      (num 0 4 : Int) + (n % c0 : Nat) * t 0 + (n / c0 % c1 : Nat) * t 1 + (n / c0 / c1 % c2 : Nat) * t 2 +
        (n / c0 / c1 / c2 % (num 14 2 + 1) : Nat) * t 3) ∧
    exec (.scfgStop q b c) s = .next
      ((({ s with core := { s.core with streams := s.core.streams.set q.toNat Stream.start } } : State).setX b
        (if (s.core.streams[q.toNat]).mode = .idle then 0 else w64 (s.core.streams[q.toNat]).n)).ended c)

/-- REP with a block that may be captured: a count of zero goes past the block; otherwise the thread goes on at its first instruction with
REPSTATE active, REPPC and REPMPC. A captured instruction is followed by the next of the block, then by the next run with the register
offset advanced by STAG, and after the last run by the main stream. The lines of the block are read as a fetch reads them. A count of 2^32
or more, or a member that may not be captured, is a usage fault. A block in progress is not fetched again: what comes next is the captured
instruction at POS, its registers staggered by OFS.
Where the manual leaves a point open, it follows the model's reading: log 72, 103, 105. -/
def Obligations.RepetitionBlocks : Prop :=
  ∀ (s : State) (c : Ctl) (a : XReg) (n stag : BitVec 5), enabled c s.core = true →
    let i := Instr.rep a n stag c
    let count := (s.x a).toNat
    (2 ^ 32 ≤ count → exec i s = .next (s.trapped c (illegal s.core 9))) ∧
    (count < 2 ^ 32 → ∀ blk after, captureWalk s n.toNat s.core.npc = .ok (blk, after) →
      ((∀ p ∈ blk, captured s.core.loc.kind (headOP p.head).toNat = true) →
        let read := s.readLines s.core (blk.map Capture.line)
        (count = 0 → exec i s = .next (read.went c after)) ∧
        (count ≠ 0 → exec i s = .next (({ read with core := { read.core with inRep := true, captures := blk, sys := { read.core.sys with
          repstate := w64 (2 ^ 63 + n.toNat * 2 ^ 48 + stag.toNat * 2 ^ 43 + count), reppc := s.core.npc, repmpc := after } } } : State).went
            c s.core.npc))) ∧
      ∀ pre p post, blk = pre ++ p :: post → (∀ q ∈ pre, captured s.core.loc.kind (headOP q.head).toNat = true) → captured s.core.loc.kind (headOP p.head).toNat = false →
        exec i s = .next (s.trapped c { illegal s.core 9 with i2 := p.pc })) ∧
    (s.core.ir.captured = false → (s.ended none).core.pc = s.core.npc ∧ (s.ended none).core.sys = s.core.sys) ∧
    (s.core.ir.captured = true →
      let r := s.core.sys.repstate.toNat
      let size := r / 2 ^ 48 % 32
      let st := r / 2 ^ 43 % 32
      let ofs := r / 2 ^ 38 % 32
      let pos := r / 2 ^ 32 % 16
      let rem := r % 2 ^ 32
      let word := fun (ofs pos rem : Nat) => size * 2 ^ 48 + st * 2 ^ 43 + ofs % 32 * 2 ^ 38 + pos % 16 * 2 ^ 32 + rem
      let u := (s.ended none).core
      (pos + 1 < size → u.pc = s.core.npc ∧ u.sys.repstate = w64 (2 ^ 63 + word ofs (pos + 1) rem)) ∧
      (size ≤ pos + 1 → 1 < rem → u.pc = s.core.sys.reppc ∧ u.sys.repstate = w64 (2 ^ 63 + word (ofs + st) 0 (rem - 1))) ∧
      (size ≤ pos + 1 → rem ≤ 1 → u.pc = s.core.sys.repmpc ∧ u.sys.repstate = w64 (word ofs 0 0))) ∧
    ∀ (k : Capture) (j : Instr), s.core.inRep = true → s.core.sys.repstate.getLsbD 63 = true → s.core.repOk = true →
      s.core.captures.length = s.core.sys.repstate.toNat / 2 ^ 48 % 32 → s.core.captures.head?.map Capture.pc = some s.core.sys.reppc →
      s.core.captures[s.core.sys.repstate.toNat / 2 ^ 32 % 16]? = some k → decode s.core.loc.kind k.head k.tail = .ok j →
      s.core.nextAsync = none → s.core.prog ≠ some .badImage → s.core.regBad = false → s.core.loc.kind ≠ .slice →
      let run := stagger (BitVec.ofNat 5 (s.core.sys.repstate.toNat / 2 ^ 38 % 32)) j
      s.core.hazard run = false →
        s.issueTurn = exec run { s with
          core := { s.core with
            pc := k.pc, npc := k.next, kept := some k.pc
            ir := { head := k.head, tail := k.tail, line := k.line, words := [], captured := true } } }

/-! ## Global memory (R104, R248 to R290) -/

/-- The accesses that complete: aligned, translated and with room for their request, each sends its request and issues its operation, at
the position, the scope and with the ordering its instruction gives; without DEMOTE or TRAP in force on what it releases. LOG sends its
request to the home slice also from a stash range.
Where the manual leaves a point open, it follows the model's reading: log 89. -/
def Obligations.GlobalAccesses : Prop :=
  ∀ (s : State) (c : Ctl) (d e b a : XReg) (ls : LdSize) (ss : StSize) (sc : Scope) (o : Ord) (wide : Bool) (op : AmoOp) (lop : LogOp)
    (lt : LogTy) (off : BitVec 16) (off12 : BitVec 12) (r : BitVec 5) (t : VType) (pa : Nat) (pte : W64), enabled c s.core = true →
    let free := sc ≠ .sys ∨ (s.tenantAt s.core.tenantNo).policy = 0
    let sent := fun (va : W64) (rk : ReqKind) =>
      if (s.access va pa pte rk (hintOf c)).reqNo = s.reqNo then none else some s.reqNo
    let issues := fun (i : Instr) (va : W64) (n : Nat) (acc : Access) (rk : ReqKind) (kind : OpKind) (acq rel : Bool) (sc : Scope) =>
      accessOk s va n acc pa pte → exec i s = .next (((s.access va pa pte rk (hintOf c)).issueOp fun pos =>
        { pos := pos, kind := kind, va := va.toNat, pa := pa, n := n, acq := acq, rel := rel, scope := sc, key := pteKey pte,
          req := sent va rk }).ended c)
    let stores := fun (i : Instr) (va : W64) (data : List Byte) (rel : Bool) (sc : Scope) =>
      accessOk s va data.length Access.store pa pte → exec i s = .next (((s.access va pa pte .partialWrite (hintOf c)).issueStore fun pos =>
        { pos := pos, va := va.toNat, pa := pa, data := data, scope := sc, rel := rel, key := pteKey pte, req := sent va .partialWrite,
          log := none }).ended c)
    let near := s.x a + w64i off.toInt
    let vnear := s.x a + w64i off12.toInt
    let n := if wide then 8 else 4
    issues (.ld d a ls off c) near (LdSize.bytes ls) Access.read .read (.load (.x d ls)) false false .core ∧
    issues (.lda d a ls sc c) (s.x a) (LdSize.bytes ls) Access.read .read (.load (.x d ls)) true false sc ∧
    stores (.st d a ss off c) near (natBytes (StSize.bytes ss) (s.x d).toNat) false .sys ∧
    (free → stores (.strl d a ss sc c) (s.x a) (natBytes (StSize.bytes ss) (s.x d).toNat) true sc) ∧
    (isHost pa = false → Ord.rel o = false ∨ free →
      issues (.amo op d b a wide o sc c) (s.x a) n Access.amo .atomic (.atomic (.amo op (s.x b)) d) (Ord.acq o) (Ord.rel o) sc ∧
      issues (.cas d e b a wide o sc c) (s.x a) n Access.amo .atomic (.atomic (.cas (s.x b) (s.x e)) d) (Ord.acq o) (Ord.rel o) sc) ∧
    (s.core.prog = none → s.core.loadingPort = false →
      issues (.vld (.reg r) a t off12 c) vnear 64 Access.read .read (.load (.v r)) false false .core) ∧
    stores (.vst (.reg r) a t off12 c) vnear (natBytes 64 (s.core.getV r).toNat) false .sys ∧
    (accessOk s (s.x a) 1 Access.read pa pte →
      exec (.monarm a c) s = .next (((s.access (s.x a) pa pte .read (hintOf c)).issueOp fun pos =>
        { pos := pos, kind := .monarm, va := (s.x a).toNat, pa := pa / 128 * 128, n := 128, acq := true, rel := false, scope := .core,
          key := pteKey pte, req := sent (s.x a) .read }).ended c)) ∧
    let sl := homeSlice pte pa
    (accessOk s (s.x a) (LogTy.bytes lt) Access.store pa pte → s.portBusy s.core pa pte = false → isHost pa = false →
      0 < tabGet 0 s.core.credits sl →
      let s1 : State := { s with core := { s.core with credits := tabSet s.core.credits sl (tabGet 0 s.core.credits sl - 1),
                                                       logSeq := s.core.logSeq + 1 } }
      exec (.log lop b a lt c) s = .next
        (((s1.sendReq s1.core (s.x a).toNat pa pte .log (hintOf c)).issueStore fun pos =>
          { pos := pos, va := (s.x a).toNat, pa := pa, data := natBytes (LogTy.bytes lt) (s.x b).toNat, scope := .dev, rel := false,
            key := pteKey pte, req := none, log := some (logEntry s (s.x a).toNat pa pte lop lt (s.x b)) }).ended c))

/-- What a load, a store and an atomic do at once in a thread with nothing outstanding and no deferral chosen, where no slice has a handler
registered, no other core's stash holds the line and no request has the number of the access's own: the register receives the bytes of the
thread's view, extended by the size; the bytes stored, or the value AMO and CAS compute, are in memory, and every other byte reads as before
through the page's key, and outside the line through any. (The store or atomic is not held by a locked page, a scrub or a combining window,
its page is not a combining one, and its physical address is a multiple of its size, as every walk's is.)
Where the manual leaves a point open, it follows the model's reading: log 1, 34, 46, 89. -/
def Obligations.AccessEffects : Prop :=
  ∀ (s t : State) (c : Ctl) (d e b a : XReg) (ls : LdSize) (ss : StSize) (off : BitVec 16) (wide : Bool) (o : Ord) (op : AmoOp)
    (pa : Nat) (pte : W64), enabled c s.core = true → s.core.pq = [] → s.core.sb = [] → s.plan = [] → s.mem.wf = true →
    s.isPoisoned pa = false → d ≠ 0 → (∀ k, (s.sliceAt k).regs = []) →
    s.core.barred = [] → (∀ r ∈ s.reqs, r.id ≠ s.reqNo) → (∀ k, ∀ w ∈ (s.sliceAt k).combines, s.reqNo ∉ w.joined) →
    (∀ k ∈ s.allCores, k.loc ≠ s.core.loc → ∀ e ∈ k.entries, e.line ≠ lineOf pa) →
    (let va := s.x a + w64i off.toInt
     let n := LdSize.bytes ls
     accessOk s va n Access.read pa pte → exec (.ld d a ls off c) s = .next t →
       t.x d = loadValue ls ((List.range n).map fun j => s.dieByte s.core.loc.die (pteKey pte) (pa + j)) ∧ keepsX s t [d]) ∧
    (isDevice pa = true → s.windowed pa = false → (∀ q ∈ (s.dieAt s.core.loc.die).db, ∀ j < q.data.length, q.pa + j < pa ∨ pa + 8 ≤ q.pa + j) →
      (let va := s.x a + w64i off.toInt
       let n := StSize.bytes ss
       accessOk s va n Access.store pa pte → exec (.st d a ss off c) s = .next t →
         pteCmb pte = false → s.withheld s.core.tenantNo va.toNat pa true = false → pa % n = 0 →
         (∀ j < n, t.memByte (pteKey pte) (pa + j) = (s.x d).extractLsb' (8 * j) 8) ∧ keepsMemBut s t (pteKey pte) pa n) ∧
      (let n := if wide then 8 else 4
       let read := fun (u : State) => leNat ((List.range n).map fun j => u.memByte (pteKey pte) (pa + j))
       let old := read s
       let m := 2 ^ (8 * n)
       let v := (s.x b).toNat % m
       let signed := fun (v : Nat) => if v < m / 2 then (v : Int) else (v : Int) - m
       accessOk s (s.x a) n Access.amo pa pte → Ord.rel o = false → pteCmb pte = false →
       s.withheld s.core.tenantNo (s.x a).toNat pa true = false → pa % n = 0 →
         (exec (.amo op d b a wide o .dev c) s = .next t → t.x d = w64 old ∧ keepsMemBut s t (pteKey pte) pa n ∧ read t = match op with
           | .add => (old + v) % m
           | .min => if signed old ≤ signed v then old else v
           | .max => if signed old ≤ signed v then v else old
           | .minn => Nat.min old v
           | .maxn => Nat.max old v
           | .and => old &&& v
           | .or => old ||| v
           | .xor => old ^^^ v
           | .swap => v) ∧
         (exec (.cas d e b a wide o .dev c) s = .next t → t.x d = w64 old ∧ keepsMemBut s t (pteKey pte) pa n ∧
           read t = if old = v then (s.x e).toNat % m else old)))

/-- A thread sees its own store at once, wherever it stands: in the store buffer, the buffer of the host aperture, or memory. -/
def Obligations.OwnStoresSeen : Prop :=
  ∀ (s t : State) (c : Ctl) (d a : XReg) (ss : StSize) (off : BitVec 16) (pa : Nat) (pte : W64), enabled c s.core = true →
    s.mem.wf = true → accessOk s (s.x a + w64i off.toInt) (StSize.bytes ss) Access.store pa pte → pa % StSize.bytes ss = 0 →
    exec (.st d a ss off c) s = .next t →
      ∀ j < StSize.bytes ss, t.viewByte t.core t.core.pos (pteKey pte) (pa + j) = (s.x d).extractLsb' (8 * j) 8

/-- The frame of the global accesses, however they end: a load changes no register but its destination and no byte of memory, a store no
register, an atomic no register but its destination, and of memory only the bytes at the address the translation gives: every other
byte reads as before through the page's key, and outside the line through any.
Where the manual leaves a point open, it follows the model's reading: log 34. -/
def Obligations.AccessFrame : Prop :=
  ∀ (s t : State) (c : Ctl) (d e b a : XReg) (ls : LdSize) (ss : StSize) (sc : Scope) (off : BitVec 16) (wide : Bool) (o : Ord)
    (op : AmoOp), s.mem.wf = true →
    let writesAt := fun (va : W64) (n : Nat) (acc : Access) =>
      (∀ pa pte, s.translate s.core va.toNat acc = .hit pa pte → keepsMemBut s t (pteKey pte) pa n) ∧
      ((∀ pa pte, s.translate s.core va.toNat acc ≠ .hit pa pte) → keepsMem s t)
    let near := s.x a + w64i off.toInt
    let n := if wide then 8 else 4
    (∀ i ∈ [Instr.ld d a ls off c, .lda d a ls sc c], exec i s = .next t →
      keepsX s t [d] ∧ keepsG s t [] ∧ keepsV s t [] ∧ keepsM s t [] ∧ keepsMem s t ∧ keepsLocal s t) ∧
    (∀ p ∈ [(Instr.st d a ss off c, near), (.strl d a ss sc c, s.x a)], exec p.1 s = .next t →
      keepsX s t [] ∧ keepsG s t [] ∧ keepsV s t [] ∧ keepsM s t [] ∧ keepsLocal s t ∧
      writesAt p.2 (StSize.bytes ss) Access.store) ∧
    ∀ i ∈ [Instr.amo op d b a wide o sc c, .cas d e b a wide o sc c], exec i s = .next t →
      keepsX s t [d] ∧ keepsG s t [] ∧ keepsV s t [] ∧ keepsM s t [] ∧ keepsLocal s t ∧ writesAt (s.x a) n Access.amo

/-- What a global access meets first, in its order: MISALIGN with its address; a translation refused stalls the thread with its code,
level and access kind; one not in a TLB is walked for; one waiting for LOCK or a scrub, or served by no stash (for LOG, with a credit
and wherever it is served) and without room for its request, holds the instruction, the wait for a queue entry counting from its first
cycle (R292).
Where the manual leaves a point open, it follows the model's reading: log 18, 47. -/
def Obligations.AccessChecks : Prop :=
  ∀ (s : State) (c : Ctl) (d e b a : XReg) (ls : LdSize) (ss : StSize) (o : Ord) (wide : Bool) (op : AmoOp) (lop : LogOp)
    (lt : LogTy) (off : BitVec 16) (off12 : BitVec 12) (r : BitVec 5) (t : VType) (sc : Scope), enabled c s.core = true →
    s.core.prog = none → s.core.loadingPort = false → sc ≠ .sys →
    let near := s.x a + w64i off.toInt
    let vnear := s.x a + w64i off12.toInt
    let n := if wide then 8 else 4
    ∀ p ∈ ([(.ld d a ls off c, near, LdSize.bytes ls, Access.read), (.st d a ss off c, near, StSize.bytes ss, Access.store),
        (.lda d a ls sc c, s.x a, LdSize.bytes ls, Access.read), (.strl d a ss sc c, s.x a, StSize.bytes ss, Access.store),
        (.amo op d b a wide o sc c, s.x a, n, Access.amo), (.cas d e b a wide o sc c, s.x a, n, Access.amo),
        (.log lop b a lt c, s.x a, LogTy.bytes lt, Access.store), (.monarm a c, s.x a, 1, Access.read),
        (.vld (.reg r) a t off12 c, vnear, 64, Access.read), (.vst (.reg r) a t off12 c, vnear, 64, Access.store)] :
          List (Instr × W64 × Nat × Access)),
      let va := p.2.1
      let acc := p.2.2.2
      (va.toNat % p.2.2.1 ≠ 0 → exec p.1 s = .next (s.trapped c { code := 0x07, i0 := 0, i1 := 0, i2 := va, i3 := 0 })) ∧
      (va.toNat % p.2.2.1 = 0 →
        (∀ code level, s.translate s.core va.toNat acc = .refuse code level →
          exec p.1 s = .next ((s.takeStall s.core.loc code level acc va.toNat).delayed c)) ∧
        (s.translate s.core va.toNat acc = .miss → exec p.1 s = .next
          (({ s with core := { s.core with held := true, walk := some (va.toNat, acc) } } : State).delayed c)) ∧
        (s.translate s.core va.toNat acc = .wait → exec p.1 s = .next (s.holding c)) ∧
        ∀ pa pte, s.translate s.core va.toNat acc = .hit pa pte → s.portBusy s.core pa pte = true →
          (match p.1 with
            | .log _ _ _ _ _ => 0 < tabGet 0 s.core.credits (homeSlice pte pa)
            | _ => s.core.served va.toNat pa acc = false) →
          exec p.1 s = .next ((s.stallPort pa pte).holding c))

/-- What a leaf of a TLB grants (R245, R246, R408, R412): PROTECT for a write without W, a fetch without X, a reserved physical address, a
granule or a key slot of another tenant; a write waits for LOCK; otherwise the physical address PFN + (va − base). -/
def Obligations.TranslationGrants : Prop :=
  ∀ (s : State) (t va : Nat) (acc : Access) (e : TlbEntry),
    let pa := (e.pte.toNat / 4096 % 2 ^ 36) * 4096 + (va - e.va)
    let level := if e.size ≤ 65536 then 4 else 3
    let device := pa < 0x2000000000 ∨ (0x8000000000 ≤ pa ∧ pa < 0x10000000000)
    let host := 0x400000000000 ≤ pa ∧ pa < 0x800000000000
    let foreign := (device ∧ (tabGet 0xFF s.owners (pa / 0x10000000)).toNat ≠ t) ∨ tabGet 255 s.keys (pteKey e.pte) ≠ t
    let denied := (acc.write = true ∧ e.pte.getLsbD 1 = false) ∨ (acc.fetch = true ∧ e.pte.getLsbD 2 = false) ∨ ¬(device ∨ host) ∨ foreign
    (denied → s.grant t va acc e = .refuse 0x09 level) ∧
    (¬denied → s.scrubbing = [] →
      (acc.write = true → e.pte.getLsbD 6 = true → s.grant t va acc e = .wait) ∧
      (¬(acc.write = true ∧ e.pte.getLsbD 6 = true) → s.grant t va acc e = .hit pa e.pte))

/-- The tenant's scope policy on a release, a fence that names an ordering, and an IFENCE at `.sys`; and what FENCE, IFENCE, MWAIT, MDISARM
and PREF do: a fence enters the program queue; IFENCE waits for every access the thread has issued, then takes the current view as the
bound of its fetches; DEMOTED is set by what completes demoted, not by an IFENCE that is held; MWAIT and MDISARM wait for an acquire or an
arm that is not yet satisfied; PREF is dropped where its translation would not grant it or its stash serves it, waits for room, for a
walker, and for a locked leaf with ownership, and never traps.
Where the manual leaves a point open, it follows the model's reading: log 17, 28. -/
def Obligations.FencesAndMonitors : Prop :=
  ∀ (s : State) (c : Ctl) (d a : XReg) (ss : StSize) (sc : Scope) (k : BitVec 4) (own : Bool) (off : BitVec 16), enabled c s.core = true →
    let policy := (s.tenantAt s.core.tenantNo).policy
    let demoted := fun (t : State) => ({ t with core := { t.core with sys := { t.core.sys with demoted := true } } } : State)
    let scopetrap := s.trapped c { code := 0x13, i0 := 0, i1 := 0, i2 := 0, i3 := 0 }
    exec (.fence sc 0 c) s = .next (s.ended c) ∧
    (k ≠ 0 → (sc ≠ .sys ∨ policy = 0 → exec (.fence sc k c) s = .next ((s.issueFence k sc).ended c)) ∧
      (policy = 1 → exec (.fence .sys k c) s = .next ((demoted (s.issueFence k .tenant)).ended c)) ∧
      (policy = 2 → exec (.fence .sys k c) s = .next scopetrap)) ∧
    (policy = 2 → exec (.ifence .sys c) s = .next scopetrap ∧
      ((s.x a).toNat % StSize.bytes ss = 0 → exec (.strl d a ss .sys c) s = .next scopetrap)) ∧
    (sc ≠ .sys ∨ policy = 0 →
      (s.released s.core sc = true → exec (.ifence sc c) s = .next 
        (({ s with core := { s.core with fenceAt := s.cycle, fencePos := s.core.pos } } : State).ended c)) ∧
      (s.released s.core sc = false → exec (.ifence sc c) s = .next (s.holding c))) ∧
    (policy = 1 →
      (s.released s.core .tenant = true → exec (.ifence .sys c) s = .next
        ((demoted { s with core := { s.core with fenceAt := s.cycle, fencePos := s.core.pos } }).ended c)) ∧
      (s.released s.core .tenant = false → exec (.ifence .sys c) s = .next (s.holding c))) ∧
    let acquiring := ∃ o ∈ s.core.pq, o.acq = true
    (acquiring → exec (.mwait d a c) s = .next (s.holding c) ∧ exec (.mdisarm c) s = .next (s.holding c)) ∧
    (¬acquiring →
      exec (.mdisarm c) s = .next (({ s with core := { s.core with mon := none, trig := false } } : State).ended c) ∧
      (s.core.trig = true ∨ s.core.mon = none → exec (.mwait d a c) s = .next ((s.setX d 1).ended c)) ∧
      (s.core.trig = false → s.core.mon ≠ none → s.core.prog = none → exec (.mwait d a c) s = .next
        (({ s with core := { s.core with prog := some (.mwait s.cycle false) } } : State).holding c)) ∧
      (s.core.trig = false → s.core.mon ≠ none → ∀ start out, s.core.prog = some (.mwait start out) →
        exec (.mwait d a c) s = .next (if s.x a ≠ 0 ∧ (out = true ∨ (s.x a).toNat ≤ (s.cycle - start).toNat)
          then (s.setX d 0).ended c else s.holding c))) ∧
    let va := s.x a + w64i off.toInt
    let acc := if own then Access.store else Access.read
    let t := s.agentWalk s.core.loc s.core.tlb s.core.tenantNo va.toNat 1
    let tr := t.agentTr t.core va.toNat acc
    let i := Instr.pref own a off c
    (∀ code level, tr = .refuse code level → exec i s = .next (t.ended c)) ∧
    (tr = .miss → exec i s = .next (t.holding c)) ∧
    (tr = .wait → exec i s = .next (if own then t.holding c else t.ended c)) ∧
    ∀ pa pte, tr = .hit pa pte →
      let served := t.core.served va.toNat pa { write := own, fetch := false, atomic := false }
      (isHost pa = true ∨ served = true → exec i s = .next (t.ended c)) ∧
      (isHost pa = false → served = false →
        (t.portBusy t.core pa pte = true → exec i s = .next ((t.stallPort pa pte).holding c)) ∧
        (t.portBusy t.core pa pte = false →
          let u := t.request .core t.core.loc t.core.tenantNo va.toNat pa pte (if own then .own else .read) (hintOf c) true
          exec i s = .next ((if hintOf c = 1 then u else
            { u with core := u.core.touchStash va.toNat pa (homeSlice pte pa) false own }).ended c)))

/-! ## Stashes, caches, rings and windows (R223 to R230, R284 to R289) -/

/-- STASH.MAP maps a free region under the limits of R223, and is a usage fault otherwise; STASH.CLEAN writes the region's entries back, so
that their lines are dirty in their home slices, or in the stack where the home slice holds no line, and keeps them; STASH.DROP writes them
back and unmaps it, its local range then reading zero; both wait for the thread's own stores and atomics to the region. CCLEAN and CINV
reach every copy of the lines of a range of the tenant, and no memory: a count above 2^32 is a usage fault, 0 does nothing.
Where the manual leaves a point open, it follows the model's reading: log 30, and log 124 (a write-back without a home line). -/
def Obligations.StashesAndCaches : Prop :=
  ∀ (s : State) (c : Ctl) (r : BitVec 2) (b a : XReg), enabled c s.core = true →
    let k := s.core
    let geo := (s.x b).toNat
    let g := (s.x a).toNat
    let l := geo % 2 ^ 18
    let pages := geo / 2 ^ 32 % 32
    let n := 4096 * pages
    let with_ := fun (v : Vector (Option Stash) 4) => ({ s with core := { k with stashes := v } } : State)
    let back := fun (t : Stash) => t.entries.foldl (fun (u : State) e => if e.dirty = true then u.lineBack e.home e.line else u) s
    let inside := fun (t : Stash) (va : Nat) => t.gbase ≤ va ∧ va < t.gbase + 4096 * t.pages
    let busy := fun (t : Stash) => (∃ o ∈ k.sb, o.log = none ∧ inside t o.va) ∨ ∃ o ∈ k.pq, o.kind.isAtomic = true ∧ inside t o.va
    let ok := k.stashes[r.toNat] = none ∧ geo / 2 ^ 37 = 0 ∧ geo / 2 ^ 18 % 2 ^ 14 = 0 ∧ 1 ≤ pages ∧ pages ≤ 16 ∧ l % 4096 = 0 ∧
      g % 4096 = 0 ∧ g < 2 ^ 48 ∧ l + n ≤ 0x30000 ∧ (k.stashRanges.map Prod.snd).sum + n ≤ 65536 ∧
      (∀ q ∈ k.stashRanges ++ k.ringRanges 8 ++ k.winRanges 16, overlaps l n q.1 q.2 = false) ∧
      ∀ t, some t ∈ k.stashes.toList → overlaps g n t.gbase (4096 * t.pages) = false
    (ok → exec (.stashMap r b a c) s =
      .next ((with_ (k.stashes.set r.toNat (some { lbase := l, gbase := g, pages := pages, entries := [] }))).ended c)) ∧
    (¬ok → exec (.stashMap r b a c) s = .next (s.trapped c (illegal k 9))) ∧
    (k.stashes[r.toNat] = none → exec (.stashClean r c) s = .next (s.ended c)) ∧
    (∀ t, k.stashes[r.toNat] = some t → ¬busy t → exec (.stashClean r c) s = .next (({ back t with
      core := { (back t).core with
        stashes := (back t).core.stashes.set r.toNat (some { t with entries := t.entries.map fun e => { e with dirty := false } }) } } :
          State).ended c)) ∧
    (k.stashes[r.toNat] = none → exec (.stashDrop r c) s = .next (s.ended c)) ∧
    (∀ t, k.stashes[r.toNat] = some t → ¬busy t → ∃ m : Memory,
      exec (.stashDrop r c) s = .next (({ back t with
        core := { (back t).core with stashes := (back t).core.stashes.set r.toNat none, lmem := m } } : State).ended c) ∧
      ∀ q, m.read q = if t.lbase ≤ q ∧ q < t.lbase + 4096 * t.pages then 0 else k.lmem.read q) ∧
    (∀ t, k.stashes[r.toNat] = some t → busy t → ∀ i ∈ [Instr.stashClean r c, .stashDrop r c], exec i s = .next (s.holding c)) ∧
    (∀ (u : State) (home line : Nat),
      let here := fun (ln : SliceLine) => ln.line = line ∧ ln.copy = false
      ((∃ ln ∈ (u.sliceAt home).lines, here ln) → u.lineBack home line = u.modSlice home fun q =>
        { q with lines := q.lines.map fun ln => if ln.line == line && !ln.copy then { ln with dirty := true } else ln }) ∧
      ((∀ ln ∈ (u.sliceAt home).lines, ¬here ln) → u.lineBack home line = u.stackFill (home / 16) line true)) ∧
    ∀ p ∈ [(Instr.cclean b a c, false), (.cinv b a c, true)],
      (2 ^ 32 < geo → exec p.1 s = .next (s.trapped c (illegal k 9))) ∧
      (geo = 0 → exec p.1 s = .next (s.ended c)) ∧
      (geo ≠ 0 → geo ≤ 2 ^ 32 →
        let u := s.cleanRange k g geo p.2
        exec p.1 s = .next (u.ended c) ∧ keepsMem s u ∧
        ∀ sl ln, ln ∈ (u.sliceAt sl).lines → s.lineInRange k (s.entriesOf k) g geo ln.line = true → p.2 = false ∧ ln.dirty = false)

/-- The rings: RING.INIT's checks and the empty ring; RSV waits for room and WAIT for elements; ADVP and ADVC move T and H modulo 2n, ADVC
of a channel also telling its producer; PTR reads both pointers with the addresses of their slots. A k of 0 or above n, an uninitialised
ring, and a channel for the members that are not its own are usage faults. The windows: INIT's checks, PUB once every write that had
begun before it, as it found them then, is complete, BACK and FRONT.
Where the manual leaves a point open, it follows the model's reading: log 25, 26, 29. -/
def Obligations.RingsAndWindows : Prop :=
  ∀ (s : State) (c : Ctl) (h : BitVec 3) (w : BitVec 4) (d b a : XReg), enabled c s.core = true →
    let k := s.core
    let u := s.trapped c (illegal k 9)
    let r := k.rings[h.toNat]
    let q := (s.x a).toNat
    let v := (s.x b).toNat
    let filled := (r.t + 2 * r.n - r.h) % (2 * r.n)
    let ring := fun (r' : Ring) => ({ s with core := { k with rings := k.rings.set h.toNat r' } } : State)
    let win := fun (x : Window) => ({ s with core := { k with wins := k.wins.set w.toNat x } } : State)
    (let sz := v % 2 ^ 16
     let n := v / 2 ^ 16 % 2 ^ 9
     let ok := r.isChan = false ∧ v / 2 ^ 25 = 0 ∧ q % 64 = 0 ∧ sz ≠ 0 ∧ sz % 64 = 0 ∧ sz ≤ 4096 ∧ 2 ≤ n ∧ n ≤ 256 ∧ q + n * sz ≤ 0x30000 ∧
       ∀ e ∈ k.stashRanges ++ k.ringRanges h.toNat ++ k.winRanges 16, overlaps q (n * sz) e.1 e.2 = false
     (ok → exec (.ringInit h b a c) s = .next ((ring { Ring.start with kind := .ring, base := q, slot := sz, n := n }).ended c)) ∧
     (¬ok → exec (.ringInit h b a c) s = .next u)) ∧
    (r.kind = .none ∨ q = 0 ∨ r.n < q →
      ∀ i ∈ [Instr.ringRsv h a c, .ringWait h a c, .ringAdvp h a c, .ringAdvc h a c], exec i s = .next u) ∧
    (r.isChan = true → ∀ i ∈ [Instr.ringRsv h a c, .ringAdvp h a c], exec i s = .next u) ∧
    (r.kind ≠ .none → 1 ≤ q → q ≤ r.n → r.isChan = false →
      exec (.ringRsv h a c) s = .next (if q ≤ r.n - filled then s.ended c else s.holding c) ∧
      exec (.ringAdvp h a c) s = .next (if r.n - filled < q then u else (ring { r with t := (r.t + q) % (2 * r.n) }).ended c)) ∧
    (r.kind ≠ .none → 1 ≤ q → q ≤ r.n →
      r.isChan = false ∨ (r.broken = false ∧ (s.chanPeer k h.toNat true).isSome = true) →
      let h' := (r.h + q) % (2 * r.n)
      exec (.ringWait h a c) s = .next (if q ≤ filled ∧ ¬(r.isChan = true ∧ ∃ o ∈ k.pq, o.acq = true) then s.ended c else s.holding c) ∧
      (filled < q → exec (.ringAdvc h a c) s = .next u) ∧
      (q ≤ filled →
        (s.chanPeer k h.toNat true = none → exec (.ringAdvc h a c) s = .next ((ring { r with h := h' }).ended c)) ∧
        ∀ lid i, s.chanPeer k h.toNat true = some (lid, i) → exec (.ringAdvc h a c) s =
          .next (({ ring { r with h := h' } with msgs := s.msgs ++ [.ringPtr lid i h.toNat h' k.loc.die] } : State).ended c))) ∧
    exec (.ringPtr d h c) s = .next ((s.setX d (if r.kind = .none then 0
      else w64 (r.h * 2 ^ 45 + r.t * 2 ^ 36 + (r.base + r.h % r.n * r.slot) * 2 ^ 18 + (r.base + r.t % r.n * r.slot)))).ended c) ∧
    (let ok := q % 64 = 0 ∧ v % 64 = 0 ∧ 64 ≤ v ∧ v ≤ 65536 ∧ q + 2 * v ≤ 0x30000 ∧ s.winContract k.loc w.toNat = false ∧
       s.winCmd k.loc w.toNat = false ∧
       ∀ e ∈ k.stashRanges ++ k.ringRanges 8 ++ k.winRanges w.toNat, overlaps q (2 * v) e.1 e.2 = false
     (ok → exec (.winInit w b a c) s = .next
       ((win { k.wins[w.toNat] with init := true, side := false, base := q, half := v }).ended c)) ∧
     (¬ok → exec (.winInit w b a c) s = .next u)) ∧
    let x := k.wins[w.toNat]
    (x.init = false → ∀ i ∈ [Instr.winPub w c, .winBack d w c, .winFront d w c], exec i s = .next u) ∧
    (x.init = true →
      ((∃ o ∈ k.pq, o.acq = true) → exec (.winPub w c) s = .next (s.holding c)) ∧
      ((∀ o ∈ k.pq, o.acq = false) → ∀ drains cmds,
        (k.prog = some (.winPub w.toNat drains cmds) ∨
          k.prog = none ∧ drains = s.drainsInto k.loc w.toNat ∧ cmds = s.cmdsInto k.loc w.toNat) →
        (s.winQuiet k.loc w.toNat drains cmds = true → exec (.winPub w c) s = .next ((win { x with side := !x.side }).ended c)) ∧
        (s.winQuiet k.loc w.toNat drains cmds = false → exec (.winPub w c) s = .next
          (({ s with core := { k with prog := some (.winPub w.toNat drains cmds) } } : State).holding c))) ∧
      exec (.winBack d w c) s = .next ((s.setX d (w64 (if x.side then x.base else x.base + x.half))).ended c) ∧
      exec (.winFront d w c) s = .next ((s.setX d (w64 (if x.side then x.base + x.half else x.base))).ended c))

/-! ## Threads together (R117 to R150, R204 to R218) -/

/-- WHO's values (R206), the shapes and the formation of a gang (R207), SPLIT (R208), SSTEP, which releases at
`.dev`, ends the step once and returns in the next one, also where a save or a trap came between (R214, R250), YIELD (R218) and HALT (R24).
Where the manual leaves a point open, it follows the model's reading: log 21, 27, 85. -/
def Obligations.ThreadsTogether : Prop :=
  ∀ (s : State) (c : Ctl) (d : XReg) (p : Place) (l : Launch) (ht wd : BitVec 5) (code : BitVec 6), enabled c s.core = true →
    s.core.place = some p → s.launchAt p.launch = some l →
    let k := s.core
    let W := l.cmd.w
    let H := l.cmd.h
    let chain := if l.cmd.chain = 2 then p.px * H + p.py
      else if l.cmd.chain = 1 then p.py * W + p.px else if p.py % 2 = 0 then p.py * W + p.px else p.py * W + (W - 1 - p.px)
    let die := ((List.range k.loc.die).filter fun i => (s.tenantAt k.tenantNo).dies.getLsbD i).length
    (∀ e ∈ [(Instr.whopos d c, p.px + p.py * 2 ^ 8 + k.loc.x * 2 ^ 16 + k.loc.y * 2 ^ 24 + die * 2 ^ 32 + chain * 2 ^ 40),
        (.whodim d c, W + H * 2 ^ 8 + l.cmd.chain * 2 ^ 16 + (if l.cmd.throttle = 0 then W * H else l.cmd.throttle) * 2 ^ 24),
        (.whocore d c, p.plot * (W * H) + p.py * W + p.px), (.whoplot d c, p.plot + l.count * 2 ^ 32),
        (.wholaunch d c, l.number.toNat + l.queue * 2 ^ 32 + l.slot * 2 ^ 36 + (if l.cmd.cores = true then 2 ^ 48 else 0))],
      exec e.1 s = .next ((s.setX d (w64 e.2)).ended c)) ∧
    (let desc := ((0 : BitVec 6) ++ ht) ++ wd
     let ok := (wd.toNat, ht.toNat) ∈ [(1, 2), (2, 1), (2, 2), (2, 4), (4, 2)] ∧ W % wd.toNat = 0 ∧ H % ht.toNat = 0
     let s0 := s.dissolve k.loc
     (¬ok → exec (.gang ht wd c) s = .next (s.trapped c (illegal k 9))) ∧
     (ok → (s0.gangReady desc p s0.core.pc = none → exec (.gang ht wd c) s = .next
         ((s0.onCore fun k => { k with prog := some (.gang desc) }).holding c)) ∧
       ∀ forms, s0.gangReady desc p s0.core.pc = some forms →
         let g : Option Gang := if forms then some { desc := desc, outs := [] } else none
         let go := fun (k' : Core) => match k'.place with
           | some q => if k'.loc ≠ k.loc ∧ sameShape desc p q = true ∧ k'.held = true ∧ k'.prog = some (.gang desc)
             then { k'.advance with gang := g } else k'
           | none => k'
         exec (.gang ht wd c) s = .next (({ s0 with core := { s0.core with gang := g }, cores := s0.cores.map go } : State).ended c))) ∧
    exec (.split c) s = .next ((s.dissolve k.loc).ended c) ∧
    (let g := k.stage
     let s1 : State := { s with core := { k with
       prog := some .stepEnd
       stage := { g with stepEnded := true, sstepAt := if g.stepEnded then g.sstepAt else some k.pc } } }
     (l.cmd.cores = false → exec (.sstep c) s = .next (s.trapped c (illegal k 9))) ∧
     (l.cmd.cores = true → g.stepEnded = false → g.sstepAt = some k.pc →
       exec (.sstep c) s = .next (({ s with core := { k with stage := { g with sstepAt := none } } } : State).ended c)) ∧
     (l.cmd.cores = true → g.stepEnded = false → g.sstepAt ≠ some k.pc → s.released k .dev = false →
       exec (.sstep c) s = .next (s.holding c)) ∧
     (l.cmd.cores = true → g.stepEnded = true ∨ (g.sstepAt ≠ some k.pc ∧ s.released k .dev = true) →
       (s1.superstep l.id (some k.loc) = none → exec (.sstep c) s = .next (s1.holding c)) ∧
       ∀ t, s1.superstep l.id (some k.loc) = some t → exec (.sstep c) s = .next (t.ended c))) ∧
    (let s1 := ({ s with core := { k with yielded := true } } : State).advance
     (s1.allYielded l p.plot = false → exec (.yield c) s = .next (s1.went c s1.core.pc)) ∧
     (s1.allYielded l p.plot = true → l.cmd.cores = true →
       let s2 := (List.range l.plots.length).foldl (fun (t : State) (j : Nat) => t.sliceEnd p.launch j) s1
       exec (.yield c) s = .next (s2.went c s2.core.pc)) ∧
     (s1.allYielded l p.plot = true → l.cmd.cores = false →
       let s2 := s1.sliceEnd p.launch p.plot
       exec (.yield c) s = .next (s2.went c s2.core.pc))) ∧
    let s1 := s.dropFences k.loc
    (s1.haltReady s1.core = false → exec (.halt code c) s = .next (s1.holding c)) ∧
    (s1.haltReady s1.core = true →
      let s2 := ((s1.endThread k.loc (code.setWidth 8)).haltRecords s1.core (code.setWidth 8)).tryRetire p.launch p.plot
      exec (.halt code c) s = .next (s2.went c s2.core.pc) ∧
      (∀ q, s2.core.place = some q → s2.core.run = .halted (code.setWidth 8)) ∧
      ∀ l', s2.launchAt p.launch = some l' → (s.coreIndex k, code.setWidth 8) ∈ l'.exits)

/-- Barriers (R209 to R211), named events (R212, R213) and staged loops (R215 to R217): their checks, what they wait for, and what they do
when they need not wait; a wait returns for no acquire that is not satisfied, and BAR.WAIT only on a firing after the core's latest arrival.
An arrival counts at the barrier's home; when every member has arrived or halted the phase advances there.
Where the manual leaves a point open, it follows the model's reading: log 16, 93. -/
def Obligations.BarriersEventsStages : Prop :=
  ∀ (s : State) (c : Ctl) (d : XReg) (gd : GReg) (b a : XReg), enabled c s.core = true →
    let k := s.core
    let u := s.trapped c (illegal k 9)
    let p := k.placeOr
    let l := s.launchOf k
    let id := (s.x a).toNat
    let w := s.x b
    let bd := k.binding id
    let ready := bd.pend = false ∧ s.plotReleased k = true
    let acquiring := ∃ o ∈ k.pq, o.acq = true
    let seen := fun (t : State) => let q := t.core.binding id
      if ¬(∃ o ∈ t.core.pq, o.acq = true) ∧ q.observed < q.reached ∧ q.after < q.reached
      then (t.onCore fun k => k.setBinding { q with observed := q.reached, sync := none }).ended c else t.holding c
    (2047 < id → ∀ i ∈ [Instr.barInit b a c, .barArrive a c, .barWait a c, .barSync a c], exec i s = .next u) ∧
    (id ≤ 2047 →
      (let desc : BitVec 16 := w.setWidth 16
       let ok := bitsOf w 63 33 = 0 ∧ desc.toNat / 1024 = 0 ∧ descW desc ≠ 0 ∧ descH desc ≠ 0 ∧ l.cmd.w % descW desc = 0 ∧
         l.cmd.h % descH desc = 0 ∧ (p.px, p.py) ∉ ((s.coreAt (s.homeOf p bd.desc)).homeRec id bd.desc).arrived
       let ph := ((s.coreAt (s.homeOf p desc)).homeRec id desc).phase
       let new : Binding := { id := id, desc := desc, even := w.getLsbD 32, evname := w.extractLsb' 16 16, observed := ph, reached := ph,
                              after := ph, pend := false, sync := none }
       (ok → exec (.barInit b a c) s = .next (({ s with core := k.setBinding new } : State).ended c)) ∧
       (¬ok → exec (.barInit b a c) s = .next u)) ∧
      (ready → exec (.barArrive a c) s = .next ((s.arrive id none).ended c)) ∧
      (¬ready → exec (.barArrive a c) s = .next (s.holding c)) ∧
      exec (.barWait a c) s = .next (seen s) ∧
      (bd.sync = some k.pc → exec (.barSync a c) s = .next (seen s)) ∧
      (bd.sync ≠ some k.pc → ready → exec (.barSync a c) s = .next (seen (s.arrive id (some k.pc)))) ∧
      (bd.sync ≠ some k.pc → ¬ready → exec (.barSync a c) s = .next (s.holding c))) ∧
    (∀ sync, let home := s.homeOf p bd.desc
      let h := (s.coreAt home).homeRec id bd.desc
      let rest := (members bd.desc p.px p.py).filter fun q => q ≠ (p.px, p.py) && !h.arrived.contains q && !s.memberHalted p q
      ((s.arrive id sync).coreAt home).homeRec id bd.desc =
        if rest = [] then { h with phase := h.phase + 1, arrived := [] } else { h with arrived := (p.px, p.py) :: h.arrived }) ∧
    (let count := s.eventSeen id
     let n : W32 := w.setWidth 32
     let met := (count - n).toNat < 2 ^ 31
     (0xFFFF < id → ∀ i ∈ [Instr.evtSig b a c, .evtWait b a c, .evtTest gd b a c], exec i s = .next u) ∧
     (id ≤ 0xFFFF →
       exec (.evtSig b a c) s = .next (({ s with core := { k with sigs := k.sigs ++ [{ pos := k.pos, ev := id, amt := n }],
                                                                  pos := k.pos + 1 } } : State).ended c) ∧
       (acquiring → exec (.evtWait b a c) s = .next (s.holding c) ∧ exec (.evtTest gd b a c) s = .next (s.holding c)) ∧
       (¬acquiring → (k.prog = some .evtSatisfied ∨ met → exec (.evtWait b a c) s = .next (s.ended c)) ∧
         (k.prog ≠ some .evtSatisfied → ¬met → exec (.evtWait b a c) s = .next
           ((({ s with core := { k with prog := some (.evtWaiting id n) } } : State).enrol k.tenantNo id).holding c)) ∧
         exec (.evtTest gd b a c) s = .next ((s.setG gd (decide met)).ended c)))) ∧
    let g := k.stage
    let t := s.endIteration k.loc
    let i := (t.chainOf t.core).1 + (t.chainOf t.core).2 * t.core.stage.taken
    let free := g.cur = none ∨ g.ctr = 255 ∨ s.plotReleased k = true
    let stage := fun (t : State) (g : Stage) => ({ t with core := { t.core with stage := g } } : State)
    (2 ^ 63 ≤ id → exec (.stageNext d a c) s = .next u) ∧
    (id < 2 ^ 63 → ¬free → exec (.stageNext d a c) s = .next (s.holding c)) ∧
    (id < 2 ^ 63 → free →
      (t.core.stage.exhausted = true ∨ id ≤ i → exec (.stageNext d a c) s = .next
        (((stage t { t.core.stage with cur := none, exhausted := true }).setX d 0xFFFFFFFFFFFFFFFF#64).ended c)) ∧
      (t.core.stage.exhausted = false → i < id →
        let may := (i = 0 ∨ i ≤ t.core.stage.begun) ∧ i < t.core.stage.ended + (t.launchOf t.core).throttle
        (may → exec (.stageNext d a c) s = .next
          ((((stage t { t.core.stage with cur := some i, ctr := 0, taken := t.core.stage.taken + 1 }).stageSend k.loc).setX d
            (w64 i)).ended c)) ∧
        (¬may → exec (.stageNext d a c) s = .next (t.holding c)))) ∧
    (let ok := id ≤ 255 ∧ g.cur ≠ none ∧ g.ctr ≠ 255
     (¬ok → exec (.stageAdv a c) s = .next u) ∧
     (ok → exec (.stageAdv a c) s = .next (if s.plotReleased k = true
       then ((stage s { g with ctr := BitVec.ofNat 8 (Nat.min (g.ctr.toNat + id) 254) }).stageSend k.loc).ended c else s.holding c))) ∧
    (g.cur = none → ∀ i ∈ [Instr.stageWaitl a c, .stageEnd c], exec i s = .next u) ∧
    (∀ j, g.cur = some j →
      (254 < id → exec (.stageWaitl a c) s = .next u) ∧
      (id ≤ 254 →
        let past := j = 0 ∨ g.pred.halted = true ∨ j < g.begun ∨
          ∃ q, g.pred.iter = some q ∧ (j ≤ q ∨ (q + 1 = j ∧ id < g.pred.ctr.toNat))
        (past ∧ ¬acquiring → exec (.stageWaitl a c) s = .next (s.ended c)) ∧ (¬past ∨ acquiring → exec (.stageWaitl a c) s = .next (s.holding c))) ∧
      (g.ctr = 255 → exec (.stageEnd c) s = .next (s.ended c)) ∧
      (g.ctr ≠ 255 → exec (.stageEnd c) s = .next (if s.plotReleased k = true then t.ended c else s.holding c)))

/-! ## Links, engines and channels (R117 to R132, R294 to R345, R390 to R394) -/

/-- A link port that may be named: OPEN under all its checks (R301), CLOSE (R305), both also at a port that an earlier contract's mismatch or
diversion has put in word mode, STAT (R319), CANCEL (R318; at the partner's cancellation in the cycle before, which counts as the same
one, both see reason 7); and WAIT (R311), which takes the oldest delivery of a window.
Where the manual leaves a point open, it follows the model's reading: log 13, 80, 107. -/
def Obligations.LinkInstructions : Prop :=
  ∀ (s : State) (c : Ctl) (dir : Dir) (w : BitVec 4) (a b e f : XReg) (feed : Option StreamDesc), enabled c s.core = true →
    let k := s.core
    let u := s.trapped c (illegal k 9)
    let p := k.port dir
    let at_ := engineOf k.loc dir
    let eng := s.engineAt at_.1 at_.2.1
    let west := at_.2.2
    let with_ := fun (eng : LinkEngine) (k : Core) => ({ s.setEngine eng with core := k } : State)
    (portClear s dir = true →
      (let blk := (parseBlock (k.readLmem (s.x a).toNat 32)).1
       let sparse := (parseBlock (k.readLmem (s.x a).toNat 32)).2.1
       let zero := (parseBlock (k.readLmem (s.x a).toNat 32)).2.2
       let fmt := blk.fmt.toNat
       let meta_ := blk.sparse = true ∧ blk.role = true
       let live := p.isOpen = true ∧ p.closed = false
       p.mode = .word → ¬live → (s.x a).toNat % 32 = 0 → localOk k (s.x a).toNat 32 = true → zero = true → blk.tx ≤ 17 → blk.ty ≤ 17 →
         comboOk blk sparse = true → (b ≠ 0 ↔ meta_) →
         (meta_ → (s.x b).toNat % 16 = 0 ∧ localOk k (s.x b).toNat (16 * (blk.k / 4)) = true) →
         (e = 0 → fmt ≠ 7 ∧ fmt ≠ 10) →
         (e ≠ 0 → (fmt = 3 ∨ fmt = 4 ∨ fmt = 7 ∨ fmt = 10) ∧ ¬(blk.byp = true ∧ blk.role = false) ∧
           scaleOk (s.x e).toNat (if blk.role then blk.n else blk.m) blk.k = true) →
         (f = 0 → feed = none) →
         (f ≠ 0 → ∃ ds, readDesc s (s.x f) = .ok ds ∧ ds.total = blk.words ∧ badElem k ds = none ∧ feed = some ds) →
         (fmt = 5 ∨ fmt = 6 → k.prog = some (.assist true)) → k.badLocal = [] → k.soft = [] →
         exec (.lnkOpen dir a b e f c) s = .next ((with_ (eng.setSide west (eng.side west ++
             [{ seq := p.seq + 1, party := k.placeOr, partner := (neighbour k.loc dir).bind (s.placeAt k.placeOr.launch), block := blk,
                metaBase := (s.x b).toNat, scaleBase := if e = 0 then 0x30000 else (s.x e).toNat, landed := false, words := [],
                closePos := none, closed := false, kept := none }]))
           (k.setPort dir { p with mode := if feed.isSome then .direct else .instr, seq := p.seq + 1, id := blk.id, isOpen := true,
                                   closed := false, restart := blk.restart, fed := 0, w := blk.words, feed := feed })).ended c)) ∧
      (p.mode ≠ .word ∨ (p.isOpen = true ∧ p.closed = false) → exec (.lnkOpen dir a b e f c) s = .next u) ∧
      (p.mode = .word → ¬(p.isOpen = true ∧ p.closed = false) → exec (.lnkClose dir c) s = .next u) ∧
      (p.mode = .instr → p.fed < p.w → exec (.lnkClose dir c) s = .next u) ∧
      (p.mode = .direct → p.fed < p.w → exec (.lnkClose dir c) s = .next (s.holding c)) ∧
      ((p.mode ≠ .word ∧ p.w ≤ p.fed) ∨ (p.mode = .word ∧ p.isOpen = true ∧ p.closed = false) → exec (.lnkClose dir c) s = .next
        ((with_ (eng.setSide west ((eng.side west).map fun o => if o.isOf k.place p.seq then { o with closePos := some k.pos } else o))
          { k.setPort dir { p with mode := .word, closed := true, feed := none } with pos := k.pos + 1 }).ended c)) ∧
      (p.isOpen = true → (∃ o ∈ eng.side west, o.isOf k.place p.seq = true) → exec (.lnkCancel dir c) s =
        .next ((s.cancelContract k.loc dir 3 fun q => { q.withdrawn with reason := 7 }).ended c)) ∧
      (p.isOpen = false ∨ (∀ o ∈ eng.side west, o.isOf k.place p.seq = false) → exec (.lnkCancel dir c) s = .next (s.ended c))) ∧
    (p.mism = none → p.divert ≠ none → p.mark = p.seq → p.cancelled = some (s.cycle - 1) → exec (.lnkCancel dir c) s =
      .next (({ s with core := k.setPort dir { p.reset with reason := 7 } } : State).ended c)) ∧
    (s.portSide k dir ≠ .foreign → exec (.lnkStat a dir c) s = .next ((s.setX a (w64 (eng.fill west k.place +
      eng.fill (!west) (s.placeAt k.placeOr.launch (engineEnd at_.1 at_.2.1 (!west))) * 2 ^ 4 +
      p.fed % 2 ^ 24 * 2 ^ 8 + p.reason.toNat * 2 ^ 32 + p.result.toNat * 2 ^ 40 + portState s k dir * 2 ^ 44 + p.id.toNat * 2 ^ 48))).ended c)) ∧
    let win := k.wins[w.toNat]
    (win.init = false → exec (.lnkWait w c) s = .next u) ∧
    (win.init = true → win.queue = [] ∨ (∃ o ∈ k.pq, o.acq = true) → exec (.lnkWait w c) s = .next (s.holding c)) ∧
    ∀ r rest, win.init = true → (∀ o ∈ k.pq, o.acq = false) → win.queue = r :: rest →
      let t : State := { s with core := { k with wins := k.wins.set w.toNat { win with queue := rest } } }
      let ref := w64 (r.refx + r.refy * 256)
      (r.result = 1 → exec (.lnkWait w c) s = .next (t.ended c)) ∧
      (r.result = 3 → exec (.lnkWait w c) s = .next ((t.onCore fun k => k.latchUncorrected 5 ref (r.id.setWidth 64)).ended c)) ∧
      (r.result = 2 → exec (.lnkWait w c) s = .next
        (t.trapped c { code := 0x12, i0 := w64 r.row, i1 := w64 r.col, i2 := ref, i3 := r.id.setWidth 64 })) ∧
      (r.result ≠ 1 → r.result ≠ 2 → r.result ≠ 3 → exec (.lnkWait w c) s = .next
        (t.trapped c { code := 0x0F, i0 := 13, i1 := 0, i2 := ref, i3 := r.id.setWidth 64 }))

/-- The completion counters (R328): WAIT takes ENGINEFAULT with the record of a faulted counter, goes on when the count is reached and waits
otherwise. The engine commands: one whose checks pass is in flight behind those before it, with the HINT of its control word where it may carry one
for its requests (R58), or is held while 32 are, a CHAN.SEND whose slot has not landed counting among them (R326). The channels:
SEND sends a slot once everything earlier is performed and there is room, and while fewer than 32 are in flight; RECV gives the address of the
oldest slot (R338). Where the manual leaves a point open, it follows the model's reading: log 39, and log 114 (a TOPK from 65 to 127 runs). -/
def Obligations.EngineInstructions : Prop :=
  ∀ (s : State) (c : Ctl) (n : BitVec 3) (d : XReg) (h : BitVec 3) (w : BitVec 4) (a b e f : XReg) (ix : BitVec 5) (m : BitVec 3)
    (esz : Fin 7) (dir : BitVec 2) (df sf : BitVec 4), enabled c s.core = true →
    let k := s.core
    let u := s.trapped c (illegal k 9)
    let t := k.ctrs[n.toNat]
    let counter := fun (t : Counter) => ({ s with core := { k with ctrs := k.ctrs.set n.toNat t } } : State)
    let issued := fun (ctr opc : Nat) (kind : CmdKind) (hint : Nat) (s : State) => if 32 ≤ s.inFlight k then s.holding c else
      ({ s with core := { s.core with
          cmds := k.cmds ++ [{ id := k.cmdNo, pos := k.pos, ctr := ctr, opc := opc, pc := k.pc, kind := kind, started := false, idx := 0, kept := 0,
                               buf := none, src := [], dst := [], key := none, made := 0, hint := hint, req := [], wreq := [], eq := [],
                               done := false, paused := false }],
          cmdNo := k.cmdNo + 1, pos := k.pos + 1 } } : State).ended c
    let acquiring := ∃ o ∈ k.pq, o.acq = true
    (acquiring → exec (.ccntWait n a c) s = .next (s.holding c)) ∧
    (¬acquiring → t.fault = true → exec (.ccntWait n a c) s = .next ((counter { t with fault := false }).trapped c
      { code := 0x19, i0 := t.record[0], i1 := t.record[1], i2 := t.record[2], i3 := t.record[3] })) ∧
    (¬acquiring → t.fault = false → exec (.ccntWait n a c) s = .next
      (if (t.count - (s.x a).setWidth 32).toNat < 2 ^ 31 then s.ended c else s.holding c)) ∧
    exec (.ccntRd d n c) s = .next ((s.setX d (w64 (t.count.toNat + (k.cmds.filter fun m => m.ctr = n.toNat).length * 2 ^ 32 +
      (if t.fault then 2 ^ 40 else 0) + t.fcount.toNat * 2 ^ 48))).ended c) ∧
    exec (.ccntSet n a c) s = .next ((counter { t with
      count := (s.x a).setWidth 32, fault := t.fault && !(s.x a).getLsbD 40, fcount := if (s.x a).getLsbD 40 then 0 else t.fcount }).ended c) ∧
    (let v := s.x e
     let dst := (s.x a).toNat
     let src := (s.x b).toNat
     let cnt := bitsOf v 23 0
     let F := sideFmt k (v.getLsbD 28) sf.toNat src
     let G := sideFmt k (v.getLsbD 29) df.toNat dst
     let plain := fun (f : Nat × Bool) => f.2 = false ∧ (fmtType f.1).isSome = true
     let size := fun (f : Nat) => cnt * fmtBits f / 8
     let fits := fun (glob bank : Bool) (lo len : Nat) => glob = true ∨ (lo < 0x30000 ∧ lo + len ≤ 0x30000 ∧ k.inStash lo len = false ∧
       (bank = true → len ≠ 0 → lo / 0x4000 = (lo + len - 1) / 0x4000))
     v.toNat / 2 ^ 30 = 0 → bitsOf v 26 24 < 4 → (v.getLsbD 28 = true → dir.getLsbD 0 = false ∧ sf = 0) →
       (v.getLsbD 29 = true → dir.getLsbD 1 = false ∧ df = 0) → fmtReserved F.1 = false → fmtReserved G.1 = false →
       (F = G ∨ (plain F ∧ plain G)) → cnt * fmtBits F.1 % 8 = 0 → cnt * fmtBits G.1 % 8 = 0 → (fmtBits F.1 = 6 → cnt % 4 = 0) →
       (fmtBits G.1 = 6 → cnt % 4 = 0) → dst % fmtAlign G.1 = 0 → src % fmtAlign F.1 = 0 →
       fits (dir.getLsbD 1) (v.getLsbD 29) dst (size G.1) → fits (dir.getLsbD 0) (v.getLsbD 28) src (size F.1) →
       (dir.getLsbD 0 = dir.getLsbD 1 → overlaps dst (size G.1) src (size F.1) = false) →
       (fmtBits F.1 = 6 ∨ fmtBits G.1 = 6 → k.prog = some (.assist true)) →
       exec (.xcopy n a b e dir df sf c) s = .next (issued n.toNat 0xA1 (.xcopy dst src cnt dir (BitVec.ofNat 4 G.1) (BitVec.ofNat 4 F.1)
         (match bitsOf v 26 24 with | 0 => .rne | 1 => .rz | 2 => .ru | _ => .rd) (v.getLsbD 27)) (hintOf c) s)) ∧
    (let sz := 2 ^ esz.val
     let q := parseAcc (k.lmem.readN (s.x e).toNat 32)
     let l := s.launchOf k
     let buf := (s.x a).toNat
     let lanes := ((List.range 16).filter fun i => (k.getM m).getLsbD i).map fun i =>
       (i, lane32 (k.getV ix) i, (q.base + lane32 (k.getV ix) i * q.stride) % 2 ^ 64)
     k.badLocal = [] → k.soft = [] → (s.x e).toNat % 32 = 0 → localOk k (s.x e).toNat 32 = true → q.mbz = true → q.kind ≠ 3 →
       (q.kind ≠ 0 → q.core < l.count * l.cmd.w * l.cmd.h) → buf % sz = 0 → localOk k buf (16 * sz) = true →
       (∀ x ∈ lanes, x.2.1 < q.bound ∧ x.2.2 % sz = 0 ∧ (q.kind = 1 → x.2.2 + sz ≤ 0x30000)) →
       let places := lanes.map fun x => (x.1, x.2.2)
       exec (.getx n a ix e m esz c) s = .next (issued n.toNat 0xA2 (.getx buf sz q.kind q.core q.win places) (hintOf c) s) ∧
       exec (.placex n a ix e m esz c) s = .next (issued n.toNat 0xA3 (.placex buf sz q.kind q.core q.win places) (hintOf c) s)) ∧
    (let sh := s.x e
     let at_ := s.x f
     let rows := bitsOf sh 5 0 + 1
     let rb := 64 * (bitsOf sh 13 8 + 1)
     let dst := bitsOf at_ 17 0
     let lst := bitsOf at_ 49 32
     let win := k.wins[w.toNat]
     let clear := fun (lo len : Nat) => localOk k lo len = true ∧ overlaps lo len win.base (2 * win.half) = false
     let ok := bitsOf sh 7 6 = 0 ∧ bitsOf sh 63 14 = 0 ∧ bitsOf at_ 31 18 = 0 ∧ bitsOf at_ 63 50 = 0 ∧ win.init = true ∧ rows * rb ≤ win.half ∧
       dst % 64 = 0 ∧ lst % 2 = 0 ∧ clear dst (rows * rb) ∧ clear lst (2 * (rows + 1)) ∧ overlaps dst (rows * rb) lst (2 * (rows + 1)) = false
     (ok → exec (.compact n w b e f c) s = .next (issued n.toNat 0xA5 (.compact w.toNat rows rb (s.x b) dst lst) 0 s)) ∧
     (¬ok → exec (.compact n w b e f c) s = .next u)) ∧
    (∀ g : Bool, let bs := k.readLmem (s.x a).toNat 64
      let q := (parseKey bs g).1
      let win := k.wins[q.owin]?.getD Window.start
      k.badLocal = [] → k.soft = [] → (s.x a).toNat % 64 = 0 → localOk k (s.x a).toNat 64 = true → q.qaddr % 64 = 0 → q.vbase % 64 = 0 → (g = true → q.gaddr % 64 = 0) →
        (parseKey bs g).2 = true → q.topk ≠ 0 → 16 ≤ q.dh → q.wmode ≠ 3 → (s.tenantAt k.tenantNo).physDie q.unit ≠ none →
        q.vfmt.toNat ≤ 4 → q.qfmt.toNat ∈ [1, 3, 4] → localOk k q.qaddr (2 * q.dh * (fmtBits q.qfmt.toNat / 8)) = true →
        (g = true → localOk k q.gaddr (4 * q.rl) = true) → win.init = true →
        (if g then roundUp64 (8 * q.dh) else roundUp64 (4 * q.rl) + roundUp64 (8 * q.topk)) ≤ win.half →
        (g = false → exec (.keyq a c) s = .next (issued (keyCounter bs) 0xA6 (.keyq q) (hintOf c) s)) ∧
        (g = true → s.inFlight k < 32 → exec (.keyg a c) s = .next (issued (keyCounter bs) 0xA7 (.keyg q k.logSeq) (hintOf c)
          { s with core := { k with logSeq := k.logSeq + BitVec.ofNat 32 q.seqs } })) ∧
        (g = true → 32 ≤ s.inFlight k → exec (.keyg a c) s = .next (s.holding c))) ∧
    ((s.x a).toNat % 64 = 0 → (s.x e).toNat % 64 = 0 → localOk k (s.x a).toNat 64 = true → localOk k (s.x e).toNat 64 = true →
      (s.x b).toNat < 64 → ∀ die, (s.tenantAt k.tenantNo).physDie ((s.x b).toNat / 16) = some die →
      exec (.slmsg n a b e c) s = .next (issued n.toNat 0xA9 (.slmsg (s.x a).toNat (s.x e).toNat (16 * die + (s.x b).toNat % 16)) 0 s)) ∧
    let r := k.rings[h.toNat]
    (s.chanPeer k h.toNat false = none ∨ r.broken = true → exec (.chanSend h a c) s = .next u) ∧
    (s.chanPeer k h.toNat true = none ∨ r.broken = true → exec (.chanRecv h a c) s = .next u) ∧
    (r.broken = false → s.chanPeer k h.toNat true ≠ none → exec (.chanRecv h a c) s = .next
      (if (r.t + 2 * r.n - r.h) % (2 * r.n) = 0 ∨ acquiring then s.holding c else (s.setX a (w64 (r.base + r.h % r.n * r.slot))).ended c)) ∧
    ∀ lid i q, r.broken = false → s.chanPeer k h.toNat false = some (lid, i) → s.coreOfIndex lid i = some q → (s.x a).toNat % 64 = 0 →
      localOk k (s.x a).toNat r.slot = true →
      let go := s.inFlight k < 32 ∧ s.released k .dev = true ∧ (r.prodT + 2 * r.n - r.prodH) % (2 * r.n) < r.n ∧ s.pathHeld k.loc.die q.loc.die = false
      (¬go → exec (.chanSend h a c) s = .next (s.holding c)) ∧
      (go → k.badLocal = [] → k.soft = [] → exec (.chanSend h a c) s = .next (({ s with
        msgs := s.msgs ++ [.chanData lid i h.toNat (s.coreIndex k) r.prodT (k.lmem.readN (s.x a).toNat r.slot) k.loc.die]
        core := { k with rings := k.rings.set h.toNat { r with prodT := (r.prodT + 1) % (2 * r.n) } } } : State).ended c))

/-! ## Slice cores, translation maintenance, contexts and reductions (R268, R346 to R355, R382 to R384, R397 to R404) -/

/-- SH and SFMA in a running invocation of a slice core (R352, R353): a line of the handler's range is translated, its walk filling the
die's TLB, is fetched into its home slice with the control word's HINT, or touched there (R58, R234), waited for, and read or bound; a reply
is sent once; a forward reaches a window and counts; DONE ends the invocation while its budget is not spent; a reply and a forward wait for
a retraining link on their way (R389); and SFMA adds 16 products to the accumulator.
Where the manual leaves a point open, it follows the model's reading: log 19 (the walk is one move with the access), log 34 (the key pair a
line is read by), log 89 (the request is waited for). -/
def Obligations.SliceInstructions : Prop :=
  ∀ (s : State) (c : Ctl) (d b a : XReg) (n : Bool) (v : Invocation), enabled c s.core = true →
    let sl := sliceNo s.core.loc
    let die := s.core.loc.die
    let at_ := (s.x a).toNat
    let stop := s.trapped c { code := 0x09, i0 := 0, i1 := 0, i2 := 0, i3 := 0 }
    let put := fun (v : Invocation) => s.modSlice sl fun q => { q with inv := some v }
    (s.sliceAt sl).inv = some v →
    let va := (v.reg.lo + at_) / 128 * 128
    let t := s.agentWalk s.core.loc [] v.trig.tenant va 1
    let tr := t.dieTr die v.trig.tenant va Access.read
    let inRange := at_ < v.reg.hi - v.reg.lo
    let held := fun (t : State) => exec (.shLineX d b a c) s = .next (t.holding c) ∧ exec (.shLineF n a c) s = .next (t.holding c)
    (∀ pa pte, inRange → tr = .hit pa pte → t.isPoisoned pa = false →
      let here := isHost pa = true ∨ (v.trig.kind = .miss ∧ v.trig.line = pa)
      let got := (t.checkLine pa).shareLine (pa / 128 * 128) (some s.core.loc)
      let value := fun (u : State) =>
        let line := some (u.dieN die (pteKey pte) pa 128, 0)
        exec (.shLineX d b a c) s = .next
          ((u.setX d (w64 (leNat ((List.range 8).map fun j =>
            u.dieByte die (pteKey pte) (pa + 8 * ((s.x b).toNat % 16) + j))))).ended c) ∧
        exec (.shLineF n a c) s = .next
          ((u.modSlice sl fun q => { q with inv := some (if n then { v with f1 := line } else { v with f0 := line }) }).ended c)
      (∀ id, s.core.prog = some (.shFetch id) →
        let pending := ∃ r, t.reqAt id = some r ∧ r.st ≠ .answered
        (pending → held t) ∧ (¬pending → value got)) ∧
      ((∀ id, s.core.prog ≠ some (.shFetch id)) →
        (here → value got) ∧
        (¬here → t.inSlice pa = true → value (got.modSlice (homeSlice pte pa) fun q => q.touch pa (hintOf c))) ∧
        (¬here → t.inSlice pa = false → held ((t.request .slice s.core.loc v.trig.tenant va pa pte .read (hintOf c) true).onCore
          fun k => { k with prog := some (.shFetch t.reqNo) })))) ∧
    (∀ pa pte, inRange → tr = .hit pa pte → exec (.shPref a c) s = .next ((if t.inSlice pa = true
      then t.modSlice (homeSlice pte pa) fun q => q.touch pa (hintOf c)
      else t.request .slice s.core.loc v.trig.tenant va pa pte .read (hintOf c) true).ended c)) ∧
    (∀ pa pte, inRange → tr = .hit pa pte → t.isPoisoned pa = true →
      let found := (t.findBad (pa / 128 * 128)).trapped c { code := 0x09, i0 := 0, i1 := 0, i2 := 0, i3 := 0 }
      exec (.shLineX d b a c) s = .next found ∧ exec (.shLineF n a c) s = .next found) ∧
    (inRange → (∀ pa pte, tr ≠ .hit pa pte) → exec (.shPref a c) s = .next (t.ended c) ∧
      (tr = .wait ∨ tr = .miss → held t) ∧
      (∀ code level, tr = .refuse code level → exec (.shLineX d b a c) s = .next stop ∧ exec (.shLineF n a c) s = .next stop)) ∧
    (v.reg.hi - v.reg.lo ≤ at_ → ∀ i ∈ [Instr.shLineX d b a c, .shLineF n a c, .shPref a c], exec i s = .next stop) ∧
    (let ok := v.trig.kind = .msg ∧ v.replied = false ∧ at_ % 64 = 0 ∧ at_ + 64 ≤ 0x8000
     (ok → s.replyHeld sl v.trig.from_ = true → exec (.shReply a c) s = .next (s.holding c)) ∧
     (ok → s.replyHeld sl v.trig.from_ = false → exec (.shReply a c) s = .next
       ((State.modSlice ((s.noteBad at_ 64).slReply v.trig.from_ (s.core.readLmem at_ 64)) sl fun q =>
         { q with inv := some { v with replied := true } }).ended c)) ∧
     (¬ok → exec (.shReply a c) s = .next stop)) ∧
    (v.spent s.core s.cycle = false → s.endHeld sl v = false →
      exec (.shDone c) s = .next ((s.endInv sl v).ended c) ∧ ((s.endInv sl v).sliceAt sl).inv = none) ∧
    (v.spent s.core s.cycle = false → s.endHeld sl v = true → exec (.shDone c) s = .next (s.shWait.holding c)) ∧
    (v.spent s.core s.cycle = true → exec (.shDone c) s = .next stop) ∧
    (0x8000 < at_ + 64 → exec (.shFwdMem b a c) s = .next stop) ∧
    (let f2 := natBytes 64 v.f2.toNat
     let sel := s.x b
     let idx := bitsOf sel 31 0
     let off := 64 * bitsOf sel 47 36
     let ctr := bitsOf sel 50 48
     (∀ t, s.core.prog ≠ some (.shAway t)) → ∀ l t, s.launchAt v.reg.launch = some l → bitsOf sel 63 51 = 0 → idx < l.count * l.cmd.w * l.cmd.h → s.coreOfIndex l.id idx = some t →
       (t.run.isHalted = true → exec (.shFwdAcc b c) s = .next (s.ended c)) ∧
       (t.run.isHalted = false → s.pathHeld die t.loc.die = true → exec (.shFwdAcc b c) s = .next (s.shWait.holding c)) ∧
       (t.run.isHalted = false → s.pathHeld die t.loc.die = false →
         let w := t.wins[bitsOf sel 35 32]?.getD Window.start
         (w.init = false ∨ w.half < off + 64 → exec (.shFwdAcc b c) s = .next ((s.setCore (t.recordFault ctr
           #v[0x09, w64 (0xB0 * 65536 + ctr * 2 ^ 24), w64 off, s.core.pc])).ended c)) ∧
         (w.init = true → off + 64 ≤ w.half →
           let landed := fun (bs : List Byte) =>
             let q := t.ctrs[ctr]?.getD Counter.start
             s.setCore { t with lmem := t.lmem.writeN ((if w.side then w.base else w.base + w.half) + off) bs
                                ctrs := t.ctrs.setIfInBounds ctr { q with count := q.count + 1 } }
           exec (.shFwdAcc b c) s = .next ((landed f2).ended c) ∧
           (at_ + 64 ≤ 0x8000 → s.core.badLocal = [] → s.core.soft = [] →
            exec (.shFwdMem b a c) s = .next ((landed (s.core.lmem.readN at_ 64)).ended c))))) ∧
    (∀ b0 p0 b1 p1, v.f0 = some (b0, p0) → v.f1 = some (b1, p1) → p0 < 128 → p1 < 128 →
      let x := fun (bs : List Byte) (p i : Nat) => fdec fF32 (leNat ((bs.drop (p + 4 * i)).take 4))
      exec (.sfma c) s = .next ((put { v with
        f2 := ofLanes 32 ((List.range 16).map fun i => fround fF32 ((fdec fF32 (laneOf 32 v.f2 i)).add ((x b0 p0 i).mul (x b1 p1 i))))
        f0 := some (b0, p0 + 64), f1 := some (b1, p1 + 64) }).ended c)) ∧
    (v.f0 = none ∨ v.f1 = none → exec (.sfma c) s = .next stop)

/-- TLBINV once earlier acquires are satisfied and earlier stores performed at `.dev`: no TLB then holds an entry it names, and it completes
when the accesses that such entries had translated have been made (R268, R382). WFI, CTX.SAVE and CTX.LOAD at machine level (R383, R384):
the plot is stopped and held, and its image written when it is saved, once no combining window of its lines is open (R236); an image is read
as any read of memory is (R224, R368, R369) and taken up, and the plot loads, a co-resident launch whole; a reserved physical address of the
image is PROTECT (R221).
Where the manual leaves a point open, it follows the model's reading: log 31, 53, 54, 67, log 34 (images carry key 0), log 48 (their
packing). -/
def Obligations.MachineInstructions : Prop :=
  ∀ (s : State) (c : Ctl) (b a : XReg), enabled c s.core = true →
    let k := s.core
    let u := s.trapped c (illegal k 9)
    let me := k.tenantNo
    let va := (s.x a).toNat
    let quiet := !k.acquiring && s.storesDone k k.pos .dev
    let gone := fun (t : State) (p : TlbEntry → Bool) =>
      (∀ q ∈ t.allCores, ∀ e ∈ q.tlb, p e = false) ∧ ∀ q ∈ t.dies.toList, ∀ e ∈ q.tlb, p e = false
    let removes := fun (i : Instr) (p : TlbEntry → Bool) =>
      (∀ ops pages, k.prog = some (.tlbinv ops pages) → exec i s = .next (if s.tlbinvWaits ops pages then s.holding c else s.ended c)) ∧
      ((∀ ops pages, k.prog ≠ some (.tlbinv ops pages)) →
        (quiet = false → exec i s = .next (s.holding c)) ∧
        (quiet = true → ∃ t ops pages, t.core.prog = some (.tlbinv ops pages) ∧ keepsMem s t ∧ gone t p ∧
          exec i s = .next (if t.tlbinvWaits ops pages then t.holding c else t.ended c) ∧
          ((∀ q ∈ s.allCores, q.pq = [] ∧ q.sb = []) → (∀ q ∈ s.dies.toList, q.db = []) → t.tlbinvWaits ops pages = false)))
    (2 ^ 48 ≤ va → exec (.tlbinvPage a c) s = .next u) ∧
    (va < 2 ^ 48 → removes (.tlbinvPage a c) fun e => e.tenant == me && decide (e.va ≤ va) && decide (va < e.va + e.size)) ∧
    removes (.tlbinvTenant c) (fun e => e.tenant == me) ∧
    (k.loc.kind = .control →
      removes (.tlbinvAll c) (fun _ => true) ∧
      exec (.wfi c) s = .next (if s.mgmt.machineIrq then s.ended c else s.holding c) ∧
      (let pa := (s.x b).toNat
       let bad := s.trapped c { code := 0x09, i0 := 0, i1 := 0, i2 := s.x b, i3 := 0 }
       let reserved := fun (pa : Nat) => ¬(pa < 0x2000000000 ∨ (0x8000000000 ≤ pa ∧ pa < 0x10000000000) ∨
         (0x400000000000 ≤ pa ∧ pa < 0x800000000000))
       let wait := fun (t : State) (lid i : Nat) => (t.onCore fun k => { k with prog := some (.ctxWait lid i) }).holding c
       ((∀ lid i, k.prog ≠ some (.ctxWait lid i)) →
         (pa % 4096 ≠ 0 ∨ ctxRect (s.x a) = none → ∀ i ∈ [Instr.ctxSave b a c, .ctxLoad b a c], exec i s = .next u) ∧
         ∀ o, ctxRect (s.x a) = some o → pa % 4096 = 0 →
           (∀ l i p, s.plotFrom o Plot.runs = some (l, i, p) →
             (reserved pa ∨ reserved (pa + l.imageSize - 1) → exec (.ctxSave b a c) s = .next bad) ∧
             (¬reserved pa → ¬reserved (pa + l.imageSize - 1) → exec (.ctxSave b a c) s = .next (wait (s.preempt l.id i true) l.id i))) ∧
           (s.plotFrom o Plot.runs = none → exec (.ctxSave b a c) s = .next u) ∧
           (reserved pa → exec (.ctxLoad b a c) s = .next bad) ∧
           (¬reserved pa →
             (s.recordPlot pa = none → exec (.ctxLoad b a c) s = .next u) ∧
             ∀ l i p, s.recordPlot pa = some (l, i, p) →
               let rs := l.loadRects i o
               let ok := p.isSaved = true ∧ (l.cmd.cores = true ∨ s.isPinned l i p = true → p.home = some o) ∧
                 o.2.1 + l.cmd.w ≤ 18 ∧ o.2.2 + l.cmd.h ≤ 18 ∧
                 ∀ r ∈ rs, (∃ q, l.plots[r.plot]? = some q ∧ q.isSaved = true) ∧ s.rectFree r [] (fun _ => false) = true
               (¬ok → exec (.ctxLoad b a c) s = .next u) ∧
               (ok → reserved (pa + l.imageSize - 1) → exec (.ctxLoad b a c) s = .next bad) ∧
               (ok → ¬reserved (pa + l.imageSize - 1) →
                 let s1 := (s.physFound pa l.imageSize).modPlot l.id i fun p =>
                   p.overlay l ((List.range l.imageSize).map fun j => s.outerByte 0 (pa + j))
                 exec (.ctxLoad b a c) s = .next (wait (rs.foldl (fun (t : State) (r : Rect) =>
                   (if r.plot = i then t.letGo l i else t.takeImage l r.plot).startLoad r) s1) l.id i)))) ∧
       ∀ lid i, k.prog = some (.ctxWait lid i) →
         (∀ l p, s.plotAt lid i = some (l, p) →
           (p.st = .saved → exec (.ctxSave b a c) s = .next (if s.physWindowed pa l.imageSize then s.holding c
             else (s.writePhys pa (plotImage l i p (s.isPinned l i p))).ended c)) ∧
           (p.st ≠ .saved → (∀ o : Nat × Nat × Nat, p.st ≠ .saving o.1 o.2.1 o.2.2) → exec (.ctxSave b a c) s = .next (s.ended c)) ∧
           (∀ o : Nat × Nat × Nat, p.st = .saving o.1 o.2.1 o.2.2 → exec (.ctxSave b a c) s = .next (s.holding c)) ∧
           (∀ o : Nat × Nat × Nat, p.st = .loading o.1 o.2.1 o.2.2 → exec (.ctxLoad b a c) s = .next (s.holding c)) ∧
           ((∀ o : Nat × Nat × Nat, p.st ≠ .loading o.1 o.2.1 o.2.2) → exec (.ctxLoad b a c) s = .next (s.ended c))) ∧
         (s.plotAt lid i = none → ∀ i ∈ [Instr.ctxSave b a c, .ctxLoad b a c], exec i s = .next (s.ended c))))

/-- GRP.SET declares a group and GRP.CLR drops it (R398); LDRED (R399 to R404) answers from what has arrived or from a closed window's
record, the group's epoch advancing and answers still on their way being void, and otherwise sends its request, to the switch an earlier
request of the same list and epoch went to, and waits.
Where the manual leaves a point open, it follows the model's reading: log 58, 84. -/
def Obligations.Reductions : Prop :=
  ∀ (s : State) (c : Ctl) (k : BitVec 3) (d : BitVec 5) (b a : XReg) (gd : GReg) (inB outB : Bool), enabled c s.core = true →
    let me := s.coreIndex s.core
    let l := s.launchOf s.core
    let u := s.trapped c (illegal s.core 9)
    let at_ := (s.x a).toNat
    let base := (s.x b).toNat
    (let ws := (List.range 8).map fun i => w64 (leNat (((s.core.readLmem at_ 64).drop (8 * i)).take 8))
     let used := ws.filter fun w => w.getLsbD 40
     let ok := used ≠ [] ∧ ws.take used.length = used ∧ (∀ w ∈ ws, bitsOf w 63 41 = 0 ∧ bitsOf w 39 32 ≤ 63) ∧ used.Nodup ∧
       w64 (2 ^ 40 + me % 2 ^ 32) ∈ used ∧ ∀ w ∈ used, if bitsOf w 39 32 = 0 then bitsOf w 31 0 < l.count * l.cmd.w * l.cmd.h
         else ((s.tenantAt s.core.tenantNo).peer (bitsOf w 39 32)).v = true
     at_ % 64 = 0 → localOk s.core at_ 64 = true → s.core.badLocal = [] → s.core.soft = [] → base % 64 = 0 → base < 0x30000 →
       (ok → exec (.grpSet k b a c) s = .next
         ((s.setGroup { launch := l.id, core := me, k := k.toNat, members := used, base := base, epoch := 0 }).ended c)) ∧
       (¬ok → exec (.grpSet k b a c) s = .next u)) ∧
    (let rest := s.groups.filter fun g => !(g.launch == l.id && g.core == me && g.k == k.toNat)
     exec (.grpClr k c) s = .next (({ s with groups := rest } : State).ended c)) ∧
    (s.groupOf l.id me k.toNat = none → exec (.ldred d a b gd k inB outB c) s = .next u) ∧
    ∀ g, s.groupOf l.id me k.toNat = some g →
      let addr := w64 g.base + s.x a
      (addr.toNat % 64 ≠ 0 → exec (.ldred d a b gd k inB outB c) s = .next (s.trapped c { code := 0x07, i0 := 0, i1 := 0, i2 := addr, i3 := 0 })) ∧
      (addr.toNat % 64 = 0 → localOk s.core addr.toNat 64 = true →
        let s1 : State := { s with msgs := s.msgs.filter fun m => match m with
          | .redRes l i ms e _ _ => !(l == g.launch && i == g.core && ms == g.members && e == g.epoch)
          | _ => true }
        let t := s1.setGroup { g with epoch := g.epoch + 1 }
        let answer := fun (r : RedStatus) => exec (.ldred d a b gd k inB outB c) s = .next ((match r with
          | .ok [lo] => ((t.setV d lo).setX b 0).setG gd true
          | .ok (lo :: hi :: _) => (((t.setV d lo).setV (d + 1) hi).setX b 0).setG gd true
          | .ok [] => (t.setX b 0).setG gd true
          | .absent mask => (t.setX b (w64 (1 + 256 * mask.toNat))).setG gd false
          | .mismatch => (t.setX b 2).setG gd false).ended c)
        (∀ ms e r, s.core.prog = some (.ldredGot ms e r) → answer r) ∧
        (∀ ms e, s.core.prog = some (.ldredSent ms e) → exec (.ldred d a b gd k inB outB c) s = .next (s.holding c)) ∧
        (s.core.prog = none →
          (s.released s.core .dev = false → exec (.ldred d a b gd k inB outB c) s = .next (s.holding c)) ∧
          (s.released s.core .dev = true →
            (∀ r, s.redRecord g = some r → answer r) ∧
            (s.redRecord g = none →
              let sent : State := { s with core := { s.core with prog := some (.ldredSent g.members g.epoch) } }
              (s.redComing g = true → exec (.ldred d a b gd k inB outB c) s = .next (sent.holding c)) ∧
              (s.redComing g = false → exec (.ldred d a b gd k inB outB c) s = .next (({ sent with
                msgs := s.msgs ++ [.redReq g.launch g.core g.members g.epoch s.core.loc addr.toNat (s.x a) inB outB
                  (s.switchDie l g)] } : State).holding c))))))

/-! ## The machine's own moves: the events of the opcode table -/

/-- What happens to threads and memory between instructions, each when its condition holds: an operation of a program queue is satisfied or
performed, a store leaves its buffer, each as its instruction or a new translation has translated it, and none while its page or granule is
withheld, while its last translation was refused (R246), or, for one that sends no request, while its line's combining window is open (R236);
a die buffer drains, the host receives; notices arrive; a walk fills the TLBs, and latches UNCORRECTED where it has read a poisoned table line; a
latched trap is taken; a launch's deferred updates are merged, once every slice core that holds some runs the pass.
Where the manual leaves a point open, it follows the model's reading: log 1, 16 (which firing a barrier's message stands for), 19, 29
(when a window toggles), 35, 36 (a poisoned table line), 37, 38 (the two timeouts), 46, 92, 109, 124 (a write-back without a home line). -/
def Obligations.EventsOfThreads : Prop :=
  ∀ (s : State) (l : Loc) (d : Dir) (pos n m : Nat) (bad : Bool) (acc : Access),
    let c := s.coreAt l
    let put := fun (c : Core) => s.setCore c
    (c.held = true → c.prog = some (.assist false) → exec (.fp6Assist l) s = .next (put { c with prog := some (.assist true) })) ∧
    (∀ q w r, c.fifoOf d = q ++ w :: r → (∀ e ∈ q, e.landed = true) → w.landed = false →
      exec (.wordLand l d) s = .next (put (c.setFifo d (q ++ { w with landed := true } :: r)))) ∧
    (∀ g p k q, c.gang = some g → c.place = some p → c.held = true → k ∈ s.allCores → k.gang = some g → k.place = some q →
      sameShape g.desc q p = true → k.loc ≠ l → k.held = false → k.run = .running → exec (.gangHoldTimeout l) s = .next (s.dissolve l)) ∧
    (∀ p pre post desc ph, s.msgs = pre ++ .firing p n desc ph :: post → c.memberOf p desc = true →
      (∀ e ∈ pre, ∀ q x y, e = .firing q n x y → c.memberOf q x = false) →
      exec (.barrierFiringArrive l n) s = .next (State.mapCores { s with msgs := pre ++ post } fun k =>
        let b := k.binding n
        if k.memberOf p desc = true ∧ b.desc = desc
          then k.setBinding { b with reached := Nat.max b.reached ph, pend := b.pend && !decide (b.after < ph) } else k)) ∧
    (∀ g r, c.sigs = g :: r → c.loadsDone g.pos = true → s.storesDone c g.pos .dev = true → (∀ m ∈ c.cmds, g.pos ≤ m.pos) →
      exec (.eventSignalApply l) s = .next ((put { c with sigs := r }).addEvent c.tenantNo g.ev g.amt)) ∧
    (s.isActive n m = false → s.waiters n m ≠ [] → s.active.length < 4096 → exec (.eventActivate n m) s = .next { s with active := s.active ++
      [{ tenant := n, event := m, slots := (s.waiters n m).take 8, overflow := (s.waiters n m).drop 8 }] }) ∧
    (exec (.eventWake n m) s = .next (s.wake n m) ∧
      ∀ e v, s.core.prog = some (.evtWaiting e v) → s.core.tenantNo = n → e = m →
        (tabGet 0 (s.tenantAt n).events m - v).toNat < 2 ^ 31 → (s.wake n m).core = { s.core with prog := some .evtSatisfied }) ∧
    (∀ t, s.superstep n none = some t → exec (.superstepAdvance n) s = .next t) ∧
    (∀ x r, c.stage.msgs = x :: r → exec (.stageUpdateArrive l) s = .next (put { c with stage := { c.stage with
      msgs := r, pred := x, begun := Nat.max c.stage.begun (match x.iter with | some i => i + 1 | none => 0) } })) ∧
    (0 < c.stage.ends → exec (.iterationEndArrive l) s = .next
      (put { c with stage := { c.stage with ends := c.stage.ends - 1, ended := c.stage.ended + 1 } })) ∧
    (c.prog = some (.credit n) →
      let t := c.tenantNo
      let used := ((s.sliceAt n).log.filter fun e => e.tenant = t).length + tabGet 0 (s.sliceAt n).granted t
      let give := fun (q : Slice) => { q with granted := tabSet q.granted t (tabGet 0 q.granted t + 64) }
      (used + 64 ≤ (s.tenantAt t).logCap → exec (.logCreditGrant l n) s = .next ((s.modSlice n give).setCore
        { c with credits := tabSet c.credits n (tabGet 0 c.credits n + 64), prog := none })) ∧
      ((s.tenantAt t).logCap < used + 64 → exec (.logCreditGrant l n) s = .next (put { c with prog := some (.creditRefused n) }))) ∧
    (∀ start x y ctl, c.held = true → c.prog = some (.mwait start false) → decode c.loc.kind c.ir.head c.ir.tail = .ok (.mwait x y ctl) →
      c.getX y ≠ 0 → (c.getX y).toNat ≤ (s.cycle - start).toNat →
      exec (.mwaitTimeout l) s = .next (put { c with prog := some (.mwait start true) })) ∧
    (∀ (r : Fin 4) t e q, c.stashes[r] = some t → (t.entries.find? fun e => e.idx = n) = some e → q ∈ s.reqs → q.line = e.line → (q.owner ≠ l ∨ q.agent ≠ .core) →
      q.kind ≠ .log → q.writes = bad → (∀ p, q.st ≠ .queued p) → q.st ≠ .transit → q.st ≠ .answered → bad = true ∨ e.owned = true →
      let kept := if bad then t.entries.filter fun e => e.idx ≠ n
        else t.entries.map fun e => if e.idx = n then { e with dirty := false, owned := false } else e
      exec (.stashRecall l r.val n bad) s = .next (State.modCore (if e.dirty then s.lineBack e.home e.line else s) l fun c =>
        { c with stashes := c.stashes.set r (some { t with entries := kept }) })) ∧
    (∀ p pre post v f, c.place = some p → s.msgs = pre ++ .ringPtr p.launch (s.coreIndex c) n v f :: post →
      (∀ e ∈ pre, ∀ x y, e ≠ .ringPtr p.launch (s.coreIndex c) n x y) →
      (s.pathHeld f l.die = true → exec (.ringPointerLand l n) s = .next s) ∧
      (s.pathHeld f l.die = false →
      let r := c.rings[n]?.getD Ring.start
      exec (.ringPointerLand l n) s = .next (State.setCore { s with msgs := pre ++ post }
        { c with rings := c.rings.setIfInBounds n { r with prodH := v } }))) ∧
    (∀ (w : Fin 16) ds cs, c.held = true → c.prog = some (.winPub w.val ds cs) → s.winQuiet l w.val ds cs = true →
      let x := c.wins[w]
      exec (.windowToggle l w.val) s = .next (put (Core.advance { c with wins := c.wins.set w { x with side := !x.side } }))) ∧
    (∀ o dst, c.opAt pos = some o → o.kind = .load dst →
      (s.withheld c.tenantNo o.va o.pa false = true ∨ o.pos ∈ c.barred → exec (.loadSatisfy l pos) s = .next s) ∧
      (s.withheld c.tenantNo o.va o.pa false = false → o.pos ∉ c.barred → s.loadReady c o = true →
        exec (.loadSatisfy l pos) s = .next ((s.perform l o).dropFences l))) ∧
    (∀ o f r, c.opAt pos = some o → o.kind = .atomic f r →
      (s.withheld c.tenantNo o.va o.pa true = true ∨ o.pos ∈ c.barred ∨ (o.req = none ∧ s.windowed o.pa = true) →
        exec (.atomicPerform l pos) s = .next s) ∧
      (s.withheld c.tenantNo o.va o.pa true = false → o.pos ∉ c.barred → o.req ≠ none ∨ s.windowed o.pa = false →
        (∀ id, o.req = some id → s.reqBack id = false) → s.atomicReady c o = true →
        exec (.atomicPerform l pos) s = .next ((s.perform l o).dropFences l))) ∧
    (∀ o, c.opAt pos = some o → o.kind = .monarm → s.withheld c.tenantNo o.va o.pa false = false → o.pos ∉ c.barred → s.loadReady c o = true →
      s.softLines = [] → s.badLines = [] →
      exec (.monarmSatisfy l pos) s = .next
        ((put { c with pq := c.pq.filter fun q => q.pos ≠ o.pos, mon := some (o.pa / 128 * 128, o.va), trig := false }).dropFences l)) ∧
    (∀ t, (c.sb.find? fun t => t.pos = pos) = some t →
      (t.log = none → s.withheld c.tenantNo t.va t.pa true = true ∨ t.pos ∈ c.barred ∨ (t.req = none ∧ s.windowed t.pa = true) →
        exec (.storeLeave l pos) s = .next s) ∧
      ((t.log = none → s.withheld c.tenantNo t.va t.pa true = false ∧ t.pos ∉ c.barred ∧ (t.req ≠ none ∨ s.windowed t.pa = false)) → (∀ id, t.req = some id → s.reqBack id = false) →
        s.storeReady c t.pos t.pa t.data.length t.scope t.rel = true →
        exec (.storeLeave l pos) s = .next ((s.leave l t.slice t).dropFences l))) ∧
    (∀ b, (s.dieAt n).db[m]? = some b → (∀ o ∈ (s.dieAt n).db.take m, overlaps o.pa o.data.length b.pa b.data.length = false) →
      let less := fun (d : Die) => { d with db := d.db.eraseIdx m }
      exec (.dieBufferDrain n m) s = .next ((s.modDie n less).placeM (s.ownerLoc b.owner) b.key b.pa b.data
        (some (b.owner, b.pos)) (some (n, b.at_)))) ∧
    (∀ b r, s.ob = b :: r →
      let t : State := { s with
        ob := r, host := s.host.writeN b.pa b.data, hostReads := s.hostReads.map fun h => { h with wait := h.wait - 1 } }
      let u := t.trigger (b.pa / 128 * 128) fun _ => true
      exec .hostDeliver s = .next u.flushWrites.answerReads ∧
        (s.hostReads = [] → s.hostWrites = [] → u.flushWrites.answerReads = u)) ∧
    (c.walk = some (n, acc) → s.walkHeld l.die c.tenantNo n = true → exec (.pageWalkComplete l n acc) s = .next s) ∧
    (c.walk = some (n, acc) → (c.tenantNo, n / 4096) ∈ (s.walks l.die).take 32 → s.walkHeld l.die c.tenantNo n = false →
      let t0 := s.walkRequests l c.tenantNo n
      let bad := ∃ pa ∈ s.tablesOf l.die c.tenantNo n, s.isPoisoned pa = true
      ∀ t, (bad → t = t0.modCore l fun k => k.latchUncorrected 3 (w64 n) 0) → (¬bad → t = t0) →
      (∀ e, s.walkTable l.die c.tenantNo n = .ok e →
        let same := s.allCores.filter fun k => k.loc.die == l.die && k.walk.any fun w => e.covers k.tenantNo w.1
        exec (.pageWalkComplete l n acc) s = .next (same.foldl (fun (t : State) (k : Core) =>
          (t.fillTlb k.loc e).modCore k.loc fun k => { k with walk := none }) t)) ∧
      ∀ code level, s.walkTable l.die c.tenantNo n = .error (code, level) →
        exec (.pageWalkComplete l n acc) s = .next (t.takeStall l code level acc n)) ∧
    (isDevice n = true → (tabGet 0xFF s.owners (n / 0x10000000)).toNat < 64 → (∀ e ∈ s.poison, e.1 ≠ n / 128 * 128) →
      let t := (tabGet 0xFF s.owners (n / 0x10000000)).toNat
      let line := n / 128 * 128
      (let u := State.countFixed { s with softLines := s.softLines.filter (· ≠ line) } (s.lineUnit line) t 1
       exec (.patrolScrub n false) s = .next u ∧ (u.tenantAt t).corrected = (s.tenantAt t).corrected + 1) ∧
      exec (.patrolScrub n true) s = .next (State.post { s with poison := s.poison ++ [(line, 0)], badLines := s.badLines.filter (· ≠ line) } t
        { kind := 6, code := 0x15, queue := 0, slot := 0, launch := 0, core := 0, plot := 0, xpc := 0, xinfo := #v[3, 0, w64 line, 0] })) ∧
    (∀ i c', c.run = .running → (∀ p, c.place = some p → s.placeRuns p = true) → c.nextAsync = some (i, c') →
      (∀ ms e r, c'.prog ≠ some (.ldredGot ms e r)) →
        let t := match c.place, c'.prog with
          | some p, some (.ldredSent _ _) => s.withdrawRed p.launch (s.coreIndex c')
          | _, _ => s
        exec (.asyncTrapTake l) s = .next ((t.setCore (s.synced c')).takeTrapAt l (s.synced c').pc i)) ∧
    ∀ la, s.launchAt n = some la → s.mergePoint la = true → s.launchQuiet n = true →
      let w := s.entryWalks n
      (w.logClear n = false ∨ (∃ sl ∈ w.passSlices n, ∃ o, (w.sliceAt sl).pass = some o ∧ o ≠ n) → exec (.logMerge n) s = .next w) ∧
      (w.logClear n = true → (∀ sl ∈ w.passSlices n, ∀ o, (w.sliceAt sl).pass = some o → o = n) →
        ((∃ sl ∈ w.passSlices n, (w.sliceAt sl).pass ≠ some n ∨ (w.sliceAt sl).inv ≠ none) → exec (.logMerge n) s = .next (w.beginPass n)) ∧
        ((∀ sl ∈ w.passSlices n, (w.sliceAt sl).pass = some n ∧ (w.sliceAt sl).inv = none) → ∃ t, exec (.logMerge n) s = .next t ∧
          t.mem = (w.merge n).mem ∧ t.core = (w.merge n).core ∧ t.cores = (w.merge n).cores ∧ t.logOf n = [] ∧
          ∀ sl, (t.sliceAt sl).pass ≠ some n))

/-- What happens in the engines, the links, the slices and the reducing switches, each when its condition holds.
Where the manual leaves a point open, it follows the model's reading: log 1, 19 (an engine's walk is one move with its access), 22 and 39 (the
grain of engine reads and writes), 23, 24 (the checks of a tile that is not delivered), 38 (what the watchdog counts), 52 (the index a stopped
command names), 56 (when a scale is read), 69, 79 (RESULT 5 of a halted third party), 82 (keys are read as the bind loaded them), 84 (an expiry
of a window with a mismatch), 89 (what waits for a request, and for a combining window), 92. -/
def Obligations.EventsOfUnits : Prop :=
  ∀ (s : State) (l : Loc) (d : Dir) (n k : Nat) (horiz : Bool) (m : Cmd) (r : Req),
    let c := s.coreAt l
    let put := fun (c : Core) => s.setCore c
    ((c.cmds.find? fun m => m.id = n) = some m →
      (m.started = true → exec (.engineCommandStart l n) s = .next s) ∧
      (m.started = false → c.loadsDone m.pos = true → s.storesDone c m.pos .dev = true → exec (.engineCommandStart l n) s = .next
        (put (c.setCmd { m with started := true, done := m.kind.reads == 0 }))) ∧
      (m.started = true → m.done = false → m.buf = none →
        let reads := fun (m' : Cmd) (agent : Core) (range : Option (Nat × Nat)) (took : State → State) =>
          (range = none → exec (.engineRead l n) s = .next (took s)) ∧
          ∀ va b, range = some (va, b) →
            (m.req ≠ [] → ((∃ id ∈ m.req, s.reqHeld id = true) → exec (.engineRead l n) s = .next s) ∧
              ((∀ id ∈ m.req, s.reqHeld id = false) → exec (.engineRead l n) s = .next (took s))) ∧
            (m.req = [] →
              let w := s.engineWalk agent va b
              let t := w.engineReq agent l m.hint va b
              ((∀ id ∈ w.sentAll t, t.reqHeld id = false) → exec (.engineRead l n) s = .next (took t)) ∧
              ((∃ id ∈ w.sentAll t, t.reqHeld id = true) →
                exec (.engineRead l n) s = .next (t.modCore l fun k => k.setCmd { m' with req := w.sentAll t })))
        (∀ p g q run, (m.kind = .keyq p ∧ g = false) ∨ (m.kind = .keyg p q ∧ g = true) →
          m.key = some run ∨ (m.key = none ∧ s.keyStart c p = .ok run) →
          let m' := { m with key := some run }
          reads m' (s.keyAgent c p) ((rowRead p g run m.idx).map fun x => (x.1, x.2.1)) fun t =>
            t.tookRead l m' (fun _ => (t.keyRead c p g run m.idx).2) (t.keyRead c p g run m.idx).1) ∧
        (∀ p g q cause, (m.kind = .keyq p ∧ g = false) ∨ (m.kind = .keyg p q ∧ g = true) → m.key = none → s.keyStart c p = .error cause →
          exec (.engineRead l n) s = .next (s.stopCmd l m cause 0 0)) ∧
        ((∀ p, m.kind ≠ .keyq p) → (∀ p q, m.kind ≠ .keyg p q) → m.idx < m.kind.reads →
          reads m c m.globalRead fun t => t.tookRead l m m.readIndex (t.nextRead c m))) ∧
      (∀ idx bs pas own cause a o, s.softLines = [] → s.badLines = [] →
        s.tookRead l m idx (.bytes bs pas []) = s.modCore l (fun c => c.setCmd { m with buf := some bs, req := [], paused := false }) ∧
        s.tookRead l m idx .wait = put (c.setCmd { m with paused := false }) ∧ s.tookRead l m idx .away = put (c.setCmd { m with paused := true }) ∧
        s.tookRead l m idx (.stop cause a) = s.stopCmd l m cause (idx a) a ∧
        s.tookRead l m idx (.bad o a) = (s.modCore o fun k => k.latchUncorrected 1 (w64 a) 0).stopCmd l m 0x15 (idx a) a ∧
        ∃ t : State, s.tookRead l m idx (.bytes bs [] own) = t.modCore l (fun c => c.setCmd { m with buf := some bs, req := [], paused := false }) ∧
          keepsMem s t) ∧
      (∀ bs, m.buf = some bs →
        ((∀ p, m.kind ≠ .keyq p) → (∀ p q, m.kind ≠ .keyg p q) → (∀ msg reply sl, m.kind ≠ .slmsg msg reply sl) →
          exec (.engineProduce l n) s = .next (put (c.setCmd (m.produce bs)))) ∧
        (∀ p run, m.kind = .keyq p → m.key = some run →
          exec (.engineProduce l n) s = .next (put (c.setCmd (s.keyProduce c m p none run bs)))) ∧
        (∀ p q run, m.kind = .keyg p q → m.key = some run →
          exec (.engineProduce l n) s = .next (put (c.setCmd (s.keyProduce c m p (some q) run bs)))) ∧
        ∀ msg reply sl, m.kind = .slmsg msg reply sl →
          (s.pathHeld l.die (sl / 16) = true → exec (.engineProduce l n) s = .next s) ∧
          (s.pathHeld l.die (sl / 16) = false → s.pathHeld (sl / 16) l.die = false →
            exec (.engineProduce l n) s = .next ((put (c.setCmd (m.produce bs))).sendMsg l m sl reply bs))) ∧
      (∀ w q t ids, m.eq = w :: q → (s.engineWalk c w.range.1 w.range.2).sendWrite c m w = (t, ids) →
        let kept := (∃ id ∈ ids, t.reqBack id = true) ∨ t.unitHeld c m w = true
        let sets := fun (u : State) (m : Cmd) => u.modCore l fun c => c.setCmd m
        (kept ∨ t.applyWrite l w = .error .wait → exec (.engineApply l n) s = .next (sets t { m with wreq := ids, paused := false })) ∧
        (¬kept →
          (∀ u, t.applyWrite l w = .ok u → exec (.engineApply l n) s = .next (sets u { m with eq := q, wreq := [], paused := false })) ∧
          (t.applyWrite l w = .error .locked ∨ t.applyWrite l w = .error .away →
            exec (.engineApply l n) s = .next (sets t { m with wreq := ids, paused := true })) ∧
          ∀ cause a, t.applyWrite l w = .error (.stop cause a) →
            exec (.engineApply l n) s = .next (t.stopCmd l m cause (m.writeIndex w cause a) a))) ∧
      (∀ (u : State) va bs pas, u.writeAddrs c va bs.length = .ok pas → u.sendWrite c m (.global va bs) =
        if m.wreq = [] then (u.writeReqs c m.hint pas bs, u.sentAll (u.writeReqs c m.hint pas bs)) else (u, m.wreq)) ∧
      (m.started = true → m.done = true → m.eq = [] → m.buf = none →
        let t := c.ctrs[m.ctr]?.getD Counter.start
        exec (.engineCount l n) s = .next (put { c with
          cmds := c.cmds.filter fun m => m.id ≠ n, ctrs := c.ctrs.setIfInBounds m.ctr { t with count := t.count + 1 } }))) ∧
    (let g := engineOf l d
     let e := s.engineAt g.1 g.2.1
     let west := g.2.2
     let p := c.port d
     let full := e.fill west c.place
     (∀ q o rest, e.side west = q ++ o :: rest → (∀ x ∈ q, x.landed = true) → o.landed = false → exec (.linkOpenLand l d) s = .next
       ((s.setEngine (e.setSide west (q ++ { o with landed := true } :: rest))).tryMatch g.1 g.2.1)) ∧
     exec (.linkCloseLand l d) s = .next (s.setEngine (e.setSide west ((e.side west).map fun o => match o.closePos with
       | some p =>
         let leaves : Bool := match s.threadOf o.party with
           | some c => c.loadsDone p && s.storesDone c p .dev
           | none => s.dies.toList.all fun d => d.db.all fun b => !(b.owner == .thread o.party && b.pos < p)
         if leaves then { o with closed := true } else o
       | none => o))) ∧
     (s.linkFenced g.1 g.2.1 = true → exec (.directFeedPush l d) s = .next s) ∧
     (∀ desc, s.linkFenced g.1 g.2.1 = false → p.feed = some desc → p.mode = .direct → p.fed < p.w → full < 8 →
       let a := (desc.addr p.fed).toNat
       let w := if c.badLocal.contains (a / 64) then BitVec.allOnes 512 else BitVec.ofNat 512 (leNat (c.lmem.readN a 64))
       exec (.directFeedPush l d) s = .next ((s.feedWord l d w).noteBadAt l a 64)) ∧
     (8 ≤ full → (p.mode = .direct ∧ p.fed < p.w) ∨ (p.mode = .instr ∧ c.pushing d = true) → e.run = none →
       (∀ q k, s.placeAt c.placeOr.launch (engineEnd g.1 g.2.1 (!west)) = some q → s.threadOf q = some k → k.loc ≠ l) →
       ∃ t, exec (.linkWatchdog l d) s = .next t ∧ (c.run.isHalted = false → c.run ≠ .idle →
         (t.coreAt l).linkstall = c.linkstall ++ [(d.index, p.id)] ∧ ((t.coreAt l).port d).mode = .word))) ∧
    (s.linkFenced l horiz = true → (s.engineAt l horiz).run ≠ none →
      ∀ i ∈ [Instr.engineStart l horiz, .engineStep l horiz, .tileDrainBegin l horiz, .tileElementApply l horiz], exec i s = .next s) ∧
    (let e := s.engineAt l horiz
     (∀ r, s.linkFenced l horiz = false → e.run = some r →
       exec (.engineStart l horiz) s = .next (s.setEngine { e with run := some { r with started := true } }) ∧
       (∀ oa ob wa wb, r.started = true → r.phase = .stepping → r.step < r.block.steps → r.block.byp = false → r.block.sparse = false →
         let mine := fun (w : Bool) (o : Open) => o.isOf (some (r.party w)) (r.seqOf w)
         (e.side r.aWest).find? (mine r.aWest) = some oa → (e.side (!r.aWest)).find? (mine (!r.aWest)) = some ob →
         oa.words.head? = some wa → ob.words.head? = some wb → (s.partyOf oa).badLocal = [] → (s.partyOf ob).badLocal = [] →
         (s.partyOf oa).soft = [] → (s.partyOf ob).soft = [] →
         let sw := perWord r.block.fmt.toNat
         let first := 32 * (sw * r.step / 32) / sw
         let scale := fun (o : Open) (was : StepRec → List Byte) =>
           if r.step = first then scaleBytes (s.partyOf o) o.scaleBase r.block.k (sw * r.step) else (r.recs[first]?.map was).getD []
         let q : StepRec := { a := wa.1, b := wb.1, scaleA := scale oa StepRec.scaleA, scaleB := scale ob StepRec.scaleB, meta_ := [] }
         let took := fun (w : Bool) (e : LinkEngine) =>
           e.setSide w ((e.side w).map fun o => if mine w o then { o with words := o.words.tail } else o)
         let r' := { r with
           step := r.step + 1, recs := r.recs ++ [q], parityBad := r.parityBad || decide (8 < r.retries), retries := 0 }
         let t := s.setEngine { took (!r.aWest) (took r.aWest e) with run := some r' }
         (r.retries = 0 ∨ 8 < r.retries → exec (.engineStep l horiz) s = .next t) ∧
         ∀ la, s.launchAt r.west.launch = some la → 0 < r.retries → r.retries ≤ 8 →
           exec (.engineStep l horiz) s = .next (t.countFixed (.core e.ref) la.tenant r.retries)) ∧
       (r.phase = .stepping → e.stepsOver r = true →
         (s.thirdOf r = .waits → exec (.tileDrainBegin l horiz) s = .next s) ∧
         (s.thirdOf r = .gone → exec (.tileDrainBegin l horiz) s = .next ((s.tellResult horiz r 5).retire l horiz r { e with held := none })) ∧
         ∀ t, s.thirdOf r = .ready t →
           let w := t.wins[r.block.twin]?.getD Window.start
           let big := w.init = true ∧ r.block.m * r.block.rowStride ≤ w.half
           let ends := fun (d : Delivery) => exec (.tileDrainBegin l horiz) s = .next
             (s.retire l horiz r { e with pending := e.pending ++ [{ r with phase := .draining 0, result := d }] })
           (¬big → ends { r.result with result := 4 }) ∧
           (∀ i j, big → r.block.red = true → r.redDiff = some (i, j) → ends { r.result with result := 2, row := i, col := j }) ∧
           (big → (r.block.red = true → r.redDiff = none) → r.parityBad = true → ends { r.result with result := 3 }) ∧
           (big → (r.block.red = true → r.redDiff = none) → r.parityBad = false → exec (.tileDrainBegin l horiz) s = .next
             (s.setEngine { e with run := some { r with
               phase := .draining 0, out := r.elements, tile := some r.tileOf, result := { r.result with result := 1 } } }))) ∧
       (∀ t, s.threadOf r.third = some t →
         ((∀ pl, s.plotAt r.third.launch r.third.plot = some pl → pl.2.runs = false) → s.thirdOf r = .waits) ∧
         ((∃ pl, s.plotAt r.third.launch r.third.plot = some pl ∧ pl.2.runs = true) → s.thirdOf r =
           if t.run.isHalted = true then .gone else if (t.wins[r.block.twin]?.getD Window.start).queue.length + s.comingTo r.third r.block.twin < 255 then .ready t else .waits)) ∧
       (∀ q el rest, r.phase = .draining q → r.out = el :: rest →
         let s1 := s.modThread r.third fun c =>
           { c with lmem := c.lmem.writeN ((c.wins[r.block.twin]?.getD Window.start).back + 64 * q) el }
         let r' := { r with phase := .draining (q + 1), out := rest }
         exec (.tileElementApply l horiz) s = .next
           (if rest = [] then s1.retire l horiz r { e with pending := e.pending ++ [r'] } else s1.setEngine { e with run := some r' }))) ∧
     ∀ r rest, e.pending = r :: rest →
       let s1 := s.modThread r.third fun c =>
         let w := c.wins[r.block.twin]?.getD Window.start
         let q := c.ctrs[r.block.twin % 8]?.getD Counter.start
         { c with
           wins := c.wins.setIfInBounds r.block.twin { w with queue := w.queue ++ [r.result] }
           ctrs := c.ctrs.setIfInBounds (r.block.twin % 8) { q with count := q.count + 1 } }
       exec (.deliveryCount l horiz) s = .next (((s1.tellResult horiz r r.result.result).setEngine
         { e with pending := rest, held := if r.result.result = 1 then r.tile.map fun t => (r.west, r.east, t) else none }).tryMatch l horiz)) ∧
    (∀ p lid i src slot bs die pre post, c.place = some p → lid = p.launch → i = s.coreIndex c → s.pathHeld die l.die = false →
      s.msgs = pre ++ .chanData lid i n src slot bs die :: post → (∀ e ∈ pre, ∀ a b c d, e ≠ .chanData lid i n a b c d) →
      let g := c.rings[n]?.getD Ring.start
      exec (.chanElementsLand l n) s = .next (State.setCore { s with msgs := pre ++ post } { c with
        lmem := c.lmem.writeN (g.base + slot % g.n * g.slot) bs, rings := c.rings.setIfInBounds n { g with t := (slot + 1) % (2 * g.n) } })) ∧
    (s.reqAt k = some r → r.slice = n →
      (r.st = .transit → s.pathHeld r.die (n / 16) = true ∨ s.outOfTurn r = true → exec (.sliceRequestArrive n k) s = .next s) ∧
      (r.st = .transit → s.pathHeld r.die (n / 16) = false → s.outOfTurn r = false →
        let port := reqPort r.agent r.owner n
        let reads := r.cmb = true ∧ r.kind = .read
        let s1 := s.setReq { r with st := .queued port, at_ := s.cycle, late := r.writes && (s.sliceAt n).combines.any fun w => w.line = r.line }
        let opened := fun (q : Slice) => { q with combines := q.combines ++ [{ line := r.line, opened := s.cycle, joined := [r.id] }] }
        (port = 4 → s.portWaits r = true →
          exec (.sliceRequestArrive n k) s = .next (s.setReq { r with waits := r.waits.or (some s.cycle) })) ∧
        ((port ≠ 4 ∨ s.portWaits r = false) →
          ((∀ w ∈ (s.sliceAt n).combines, reads → s.joinable r w = false) →
            (reads → exec (.sliceRequestArrive n k) s = .next (s1.modSlice n opened)) ∧
            (¬reads → exec (.sliceRequestArrive n k) s = .next s1)) ∧
          ∀ w, reads → (s.sliceAt n).combines = [w] → s.joinable r w = true →
            exec (.sliceRequestArrive n k) s = .next ((s.setReq { r with st := .joined, at_ := s.cycle }).modSlice n fun q =>
              { q with combines := q.combines.map fun v => if v = w then { v with joined := v.joined ++ [r.id] } else v }))) ∧
      (s.dataReady r = true → 2 ≤ (s.cycle - r.at_).toNat → s.pathHeld (n / 16) r.die = false →
        (∀ w ∈ (s.sliceAt n).combines, k ∉ w.joined) → exec (.sliceDataReturn n k) s = .next (s.dropReq k)) ∧
      (r.st = .answered → exec (.sliceDataReturn n k) s = .next (if s.awaited k then s else s.dropReq k)) ∧
      (r.st = .missed → r.quiet = false → exec (.sliceTrigger n r.tenant .miss r.line (some k)) s =
        .next ((s.setReq { r with st := .filling }).raise n r.tenant r.line .miss (some r))) ∧
      (r.st = .filling → s.triggerHolds n r.id = false → exec (.sliceTrigger n r.tenant .fill r.line (some k)) s =
        .next ((s.setReq { r with st := .filled }).raise n r.tenant r.line .fill (some r))) ∧
      (∀ line, r.st = .evicting line → s.triggerHolds n r.id = false →
        let victim := (s.sliceAt n).lines.find? fun ln => ln.line = line && !ln.copy
        (∀ v, victim = some v → exec (.sliceTrigger n r.tenant .evict line (some k)) s = .next
          (((s.install r (some v.way)).settleReq r).setReq { r with st := .missed })) ∧
        (victim = none → exec (.sliceTrigger n r.tenant .evict line (some k)) s = .next (s.miss r)))) ∧
    (∀ port pay, s.pickReq n = some (r, port, pay) →
      let paid := fun (q : Slice) => { q.pay r port pay with lastPort := port, began := some s.cycle }
      ((∀ t, (s.sliceAt n).began = some t → 2 ≤ (s.cycle - t).toNat) →
        exec (.sliceRequestBegin n) s = .next ((s.modSlice n paid).serve r)) ∧
      (∀ t, (s.sliceAt n).began = some t → (s.cycle - t).toNat < 2 → exec (.sliceRequestBegin n) s = .next s)) ∧
    (let fill := fun (q : Slice) (b : Bucket) => { q.setBucket { b with tokens := Nat.min (b.tokens + b.rate) b.depth } with
       pools := tabSet q.pools b.port (Nat.min (tabGet 0 q.pools b.port + (b.tokens + b.rate - b.depth)) 4096) }
     exec (.tokenRefill n) s = .next (s.modSlice n fun q => (q.buckets.filter fun b => b.rate ≠ 0).foldl fill q)) ∧
    (∀ w rest, (s.sliceAt n).combines = w :: rest → w.line = k →
      let rs := w.joined.filterMap s.reqAt
      let t := s.sendReply n w
      let ready := 32 ≤ (s.cycle - w.opened).toNat ∧
        (∀ r, (w.joined.head?).bind s.reqAt = some r → s.dataReady r = true ∧ 2 ≤ (s.cycle - r.at_).toNat) ∧
        ∀ r ∈ rs, (∀ c ∈ s.allCores, r.recalls c = false) ∧ s.pathHeld (n / 16) r.die = false ∧
          ∀ o, s.loadOf r = some o → o.pos ∈ (s.coreAt r.owner).barred ∨ t.opReady (t.coreAt r.owner) o ≠ none
      (ready → exec (.combineReply n k) s = .next
        (rs.foldl State.satisfyReq (((rs.filter fun r => r.st = .joined).foldl State.settleReq s).sendReply n w))) ∧
      (¬ready → rest = [] → exec (.combineReply n k) s = .next s) ∧
      (t.sliceAt n).combines = rest ∧
      t.reqs = s.reqs.filterMap fun r =>
        if r.id ∉ w.joined then some r else if r.agent = .core then none else some { r with st := .answered }) ∧
    (let clean := fun (q : Slice) => { q with lines := q.lines.map fun ln =>
       if ln.tenant = k ∧ (s.wayMask k n).getLsbD ln.way = false then { ln with dirty := false } else ln }
     exec (.waymaskDrain n k) s = .next (s.modSlice n clean)) ∧
    (∀ g q h, (s.sliceAt n).pass = none → (s.sliceAt n).inv = none → (s.sliceAt n).trigs = g :: q → (s.sliceAt n).handler g.tenant g.kind = some h → g.kind ≠ .msg →
      (s.dieAt (n / 16)).drained = false → ∃ t, exec (.sliceInvocationStart n) s = .next t ∧ (t.sliceAt n).trigs = q ∧
        (t.sliceAt n).inv = some { trig := g, reg := h, start := none, replied := false, f0 := none, f1 := none, f2 := 0 } ∧
        let k := t.coreAt (sliceLoc n)
        k.run = .running ∧ k.pc = w64 (h.codeAt + 2) ∧ k.getX 2 = (match g.kind with | .miss => 0 | .fill => 1 | .evict => 2 | .msg => 3) ∧
        k.getX 1 = w64 g.off ∧ k.getX 3 = (match g.requester with | some i => w64 i | none => BitVec.allOnes 64) ∧ k.getX 4 = 0 ∧ k.getX 5 = w64 h.dataAt ∧ k.getX 6 = w64 (16 * (s.tenantAt g.tenant).viewDie (n / 16) + n % 16)) ∧
    (∀ g q, (s.sliceAt n).pass = none → (s.sliceAt n).inv = none → (s.sliceAt n).trigs = g :: q → (s.dieAt (n / 16)).drained = true →
      s.replyHeld n g.from_ = false →
      let less := fun (sl : Slice) => { sl with trigs := q }
      exec (.sliceInvocationStart n) s = .next ((s.modSlice n less).slReply g.from_ (List.replicate 64 0xFF))) ∧
    (∀ v, (s.sliceAt n).inv = some v → s.endHeld n v = false →
      v.spent (s.coreAt (sliceLoc n)) s.cycle = true ∨ (s.coreAt (sliceLoc n)).run = .stopped →
      exec (.sliceBudgetOverrun n) s = .next ((s.countOverrun n v).endInv n v)) ∧
    (∀ lid core ms ep addr off inB outB sw pre post, s.msgs = pre ++ .redReq lid core ms ep l addr off inB outB sw :: post →
      (∀ e ∈ pre, ∀ a b c d f g h i j, e ≠ .redReq a b c d l f g h i j) → memPeer (ms.headD 0) = 0 → s.pathHeld l.die sw = false →
      let g : Group := { launch := lid, core := core, k := 0, members := ms, base := 0, epoch := ep }
      exec (.ldredRequestArrive l) s = .next (State.redArrive { s with msgs := pre ++ post } g l addr off inB outB sw)) ∧
    (∀ w la, s.redWins[n]? = some w → w.closed = none → s.launchAt w.launch = some la → 4096 ≤ (s.cycle - w.opened).toNat →
      let gone := w.missing.filter fun m => s.redAbsent la (w.members.getD m 0)
      (gone = [] → exec (.ldredWindowExpiry n) s = .next { s with redWins := s.redWins.set n { w with opened := s.cycle } }) ∧
      (gone ≠ [] →
        let st : RedStatus := if w.mism then .mismatch else .absent (gone.foldl (fun v m => v ||| (1 <<< m)) 0)
        exec (.ldredWindowExpiry n) s = .next (State.answerAll
          { s with redWins := s.redWins.set n { w with closed := some st, left := w.missing, reqs := [] } } w fun _ => st))) ∧
    ∀ p ms ep sw pre post q, c.place = some p → c.held = true → c.prog = some (.ldredSent ms ep) → s.pathHeld sw l.die = false →
      s.msgs = pre ++ .redRes p.launch (s.coreIndex c) ms ep q sw :: post →
      (∀ e ∈ pre, ∀ x y, e ≠ .redRes p.launch (s.coreIndex c) ms ep x y) →
      exec (.ldredResultArrive l) s = .next (State.setCore { s with msgs := pre ++ post } { c with prog := some (.ldredGot ms ep q) })

/-- What happens to queues, launches and plots, each when its condition holds: commands are published, checked, dequeued; plots are placed,
loaded, saved, pre-empted; launches complete and signal; a supervisor resumes, saves and terminates; records are posted.
Where the manual leaves a point open, it follows the model's reading: log 1, 61, 68, 81, 87, 88, 92, 99 (the lowest code), 100 (what a
waiting command's reads have returned is kept), 110 (BOUNDTAB's alignment where NBOUND is 0). -/
def Obligations.EventsOfLaunches : Prop :=
  ∀ (s : State) (t q lid i core : Nat) (v : W32) (h : HeadCmd) (bits : BitVec 8),
    let n := s.tenantAt t
    let k := n.queue q
    let alive := n.tstat ≠ 3
    let tenant := fun (f : Tenant → Tenant) => s.modTenant t f
    (∀ r rest, n.records = r :: rest → (n.fqTail - n.fqHead).toNat < 2 ^ n.fqK →
      ∀ u, s.devWrite t (n.fqBase.toNat + 64 * (n.fqTail.toNat % 2 ^ n.fqK)) (r.bytes n.fqTail) = .ok u →
        let u1 := (u.modTenant t fun n => { n with records := rest, fqTail := n.fqTail + 1 }).irqVf t 0
        exec (.faultRecordPost t) s = .next (if r.kind = 3 ∧ (n.queue r.queue.toNat).standsAt r.slot = true then u1.queueNext t r.queue.toNat else u1)) ∧
    (q < 16 → alive → exec (.lqtailWrite t q v) s = .next (State.wakePower (if s.hostHeld t
      then { s with hostWrites := s.hostWrites ++ [.tail t q v] } else s.modQueue t q fun k => { k with tail := v }))) ∧
    (q < 16 → s.queueOpen t = true → k.cur = none → k.head ≠ k.tail → k.blocked = none → n.errorWaits q = false →
      (∀ u, readHead t k (s.reads t q) = (u, .wait) →
        exec (.launchQueueHead t q) s = .next (u.s.modQueue t q fun k => { k with reads := u.got })) ∧
      (∀ u code level va, readHead t k (s.reads t q) = (u, .fault code level va) → exec (.launchQueueHead t q) s =
        .next ((u.s.modQueue t q fun k => { k with reads := u.got }).holdQueue t q code level va)) ∧
      ∀ u c bs, readHead t k (s.reads t q) = (u, .ok (c, bs)) →
        (u.s.headCode t c bs ≠ 0 → exec (.launchQueueHead t q) s = .next (u.s.launchError t q (u.s.headCode t c bs))) ∧
        (u.s.headCode t c bs = 0 →
          let met := c.waits.map fun w => decide ((tabGet 0 (u.s.tenantAt t).events w.1.toNat - w.2).toNat < 2 ^ 31)
          let head : HeadCmd := { cmd := c, bounds := bs, satisfied := met }
          exec (.launchQueueHead t q) s = .next (c.waits.foldl (fun s w => s.enrol t w.1.toNat)
            (u.s.modQueue t q fun k => { k with cur := some head, blocked := none, reads := [] })))) ∧
    (∀ (r : Reads) a m bs rest, r.left = bs :: rest → devGet t a m r = ({ r with left := rest, got := r.got ++ [bs] }, .ok bs)) ∧
    (k.blocked ≠ none → s.queueOpen t = true → n.errorWaits q = false →
      (k.cur = none → ∀ u c bs, readHead t k (s.reads t q) = (u, .ok (c, bs)) → u.s.headCode t c bs = 0 →
        ∃ u, exec (.launchReadRetry t q) s = .next u ∧ ((u.tenantAt t).queue q).blocked = none ∧ ((u.tenantAt t).queue q).cur ≠ none) ∧
      (k.cur = none → ∀ u c bs, readHead t k (s.reads t q) = (u, .ok (c, bs)) → u.s.headCode t c bs ≠ 0 →
        exec (.launchReadRetry t q) s = .next (u.s.launchError t q (u.s.headCode t c bs))) ∧
      (k.cur = some h → h.cmd.sliceDesc = 0 → ∀ u p, pull t h (s.reads t q) = (u, .ok (some p)) →
        exec (.launchReadRetry t q) s = .next (u.s.addLaunch t q h p none))) ∧
    (k.blocked ≠ none → n.errorWaits q = true → exec (.launchReadRetry t q) s = .next s) ∧
    (k.cur = some h → s.queueOpen t = true → k.blocked = none → (∀ b ∈ h.satisfied, b = true) →
      (h.cmd.ty = 1 → exec (.launchDequeue t q) s = .next
        (if s.hostHeld t then s else (s.queueNext t q).addEvent t h.cmd.sname.toNat h.cmd.samt)) ∧
      (h.cmd.ty ≠ 1 → h.cmd.sliceDesc = 0 → ∀ u p, pull t h (s.reads t q) = (u, .ok (some p)) →
        exec (.launchDequeue t q) s = .next (u.s.addLaunch t q h p none))) ∧
    (s.retireAll = s → (s.ranked = [] → exec .schedulerPass s = .next s) ∧
      ∀ it u, s.ranked = [it] → s.tryPlace it = some u → (s.itemPinned it = true → u.ranked = []) →
        exec .schedulerPass s = .next u) ∧
    (∀ l p, s.plotAt lid i = some (l, p) →
      (l.cmd.cores = false → exec (.plotLoadComplete lid i) s = .next (s.beginPlot l i p)) ∧
      (p.runs = true → (s.tenantAt l.tenant).sliceUs * 1200 ≤ (s.cycle - p.sliceStart).toNat →
        exec (.timeSliceExpiry lid i) s = .next ((s.tryRetire lid i).sliceEnd lid i)) ∧
      (∀ d x y, l.cmd.cores = false → p.st = .saving d x y → (∀ c ∈ s.plotCores lid i, s.threadQuiet c = true) →
        exec (.plotSaveComplete lid i) s = .next (s.finishSave l i).fenceFree)) ∧
    (∀ l, s.launchAt lid = some l → l.cmd.cores = true → l.savingPlots ≠ [] →
      ((∀ j ∈ l.savingPlots, ∀ c ∈ s.plotCores lid j, s.threadQuiet c = true) → exec (.plotSaveComplete lid i) s = .next
        (l.savingPlots.foldl (fun (u : State) (j : Nat) => u.finishSave l j) s).fenceFree) ∧
      ((∃ j ∈ l.savingPlots, ∃ c ∈ s.plotCores lid j, s.threadQuiet c = false) → exec (.plotSaveComplete lid i) s = .next s)) ∧
    (let s0 := s.retireAll
     ∀ l, s0.launchAt lid = some l → s0.launchEnded l = true → s0.exitsHeld l = false →
       let s1 := (s0.writeExits l).dropLaunch lid
       (l.ending = false → s0.logOf lid = [] → l.credits = [] → exec (.launchComplete lid) s = .next
         ((if l.cmd.sigen then s1.addEvent l.tenant l.cmd.sname.toNat l.cmd.samt else s1).irqVf l.tenant 2)) ∧
       (l.ending = true → exec (.terminationComplete lid) s = .next ((s1.post l.tenant
         { kind := 7, code := 0, queue := 0, slot := 0, launch := l.number, core := 0, plot := 0, xpc := 0,
           xinfo := #v[0, 0, 0, 0] }).irqVf l.tenant 2))) ∧
    (n.supcmd.getLsbD 63 = true ∨ n.tstat = 3 →
      ∀ e ∈ [Instr.supcmdResume t lid core, .supcmdSave t lid core, .supcmdTerminate t ⟨lid, core⟩], exec e s = .next s) ∧
    (n.supcmd.getLsbD 63 = false → alive →
      let begun := fun (core cmd : Nat) => tenant fun n => { n with
        supcmd := w64 (2 ^ 63 + lid % 2 ^ 32 * 2 ^ 29 + core % 2 ^ 25 * 2 ^ 4 + cmd) }
      (∀ l, (begun core 1).launchNumbered t lid = some l → exec (.supcmdResume t lid core) s =
        .next ((if l.liveThread core = true then (begun core 1).resumeThread t l core else begun core 1).supDone t)) ∧
      (∀ l, (begun core 3).launchNumbered t lid = some l →
        exec (.supcmdTerminate t ⟨lid, core⟩) s = .next (((begun core 3).endLaunch l).supDone t)) ∧
      ∀ l, (begun core 2).launchNumbered t lid = some l →
        (l.liveThread core = false → exec (.supcmdSave t lid core) s = .next ((begun core 2).supDone t)) ∧
        ∀ l' u p, l.liveThread core = true → u = (begun core 2).preempt l.id (core / l.area) true →
          u.plotAt l.id (core / l.area) = some (l', p) →
          exec (.supcmdSave t lid core) s = .next (if p.isSaved then (u.showImage l (core / l.area)).supDone t else u)) ∧
    (alive →
      (s.hostHeld t = false → exec (.evsigWrite t q v) s = .next (s.wakePower.addEvent t (q % 65536) v)) ∧
      (s.hostHeld t = true →
        exec (.evsigWrite t q v) s = .next { s.wakePower with hostWrites := s.hostWrites ++ [.evsig t (q % 65536) v] }) ∧
      exec (.fqheadWrite t v) s = .next (tenant fun n => { n with fqHead := v }).wakePower ∧
      let cleared := tenant fun n => { n with irqpend := n.irqpend &&& ~~~bits }
      exec (.irqpendWrite (some t) bits) s = .next
        (if bits.getLsbD 0 = true ∧ n.fqTail ≠ n.fqHead then cleared.irqVf t 0 else cleared)) ∧
    exec (.irqpendWrite none bits) s = .next { s with mgmt := { s.mgmt with irqpend := s.mgmt.irqpend &&& ~~~bits } }

/-- What happens in a tenant's function, the physical function and the module, each when its condition holds: bindings, keys, realms,
revocation, granules, registers, management commands, links between dies, fences, firmware, power.
Where the manual leaves a point open, it follows the model's reading: log 1, 57, 60 (what becomes of a BAR2 access that faults), 63, 64, 65,
67, 75, 76, 77, 78, 82 (a binding's keys are translated at the bind), 86 (PTROOT takes effect at once, its low bits read as zero), 92, 115,
116. -/
def Obligations.EventsOfDevice : Prop :=
  ∀ (s : State) (t p g k : Nat) (v : W64) (w : W32) (b8 : BitVec 8) (blob nonce : List Byte) (l : Loc) (dies : BitVec 4) (die ch : Nat),
    let n := s.tenantAt t
    let alive := n.tstat ≠ 3
    let tenant := fun (f : Tenant → Tenant) => s.modTenant t f
    let mg := fun (m : Mgmt) => ({ s with mgmt := m } : State)
    (∀ u i, n.qslot = some (u, i) → alive →
      (let q : QSlot := { tenant := t, valid := true, busy := true, fmt := v.extractLsb' 56 4, n := bitsOf v 47 36 + 1, d := bitsOf v 24 16 + 1,
                          keyBase := (tabGet 0 n.qkeyBases n.qsel.toNat).toNat, pages := [] }
       v.getLsbD 63 = true → q.fmt.toNat ∈ [1, 3, 4] → 64 ≤ q.n → 16 ≤ q.d → q.keyBase % 64 = 0 → (∀ o, s.slot u i = some o → o.tenant = t) →
         s.keyMemory u i + q.bytes ≤ 8 * 2 ^ 20 →
         let w := s.agentWalk (unitLoc u) [] t q.keyBase q.bytes
         exec (.qbindBind t v) s = .next
           ((w.setSlot u i { q with pages := w.keyPages u q }).modTenant t fun n => { n with qrefused := tabSet n.qrefused n.qsel.toNat (false, false) })) ∧
      (∀ o, s.slot u i = some o → o.tenant = t →
        let w : State := { s with quince := s.quince.filter fun e => !(e.1 == u && e.2.1 == i) }
        exec (.qbindUnbind t) s = .next (if o.busy = true then w.irqVf t 5 else w))) ∧
    (∀ q, s.slot g k = some q → q.busy = true → (∀ e ∈ q.pages, e.isSome = true) →
      exec (.quinceKeysLoaded g k) s = .next ((s.setSlot g k { q with busy := false }).irqVf q.tenant 5)) ∧
    (alive →
      (let clear := fun (r : SliceReg) => if r.tenant = t ∧ r.kind = n.htrigger then { r with recent := [] } else r
       let zero : TrigStat := { tenant := t, kind := n.htrigger, disabled := false, skips := 0, overruns := 0 }
       ∀ sl, n.hslice = some sl →
         exec (.hstatWrite t 0) s = .next (s.modSlice sl fun q => Slice.setStat { q with regs := q.regs.map clear } zero)) ∧
      exec (.attestReport t []) s = .next ((tenant fun n => { n with attest := Config.certChain.take 4096 }).irqVf t 3) ∧
      (nonce ≠ [] → ∃ r, exec (.attestReport t nonce) s = .next ((tenant fun n => { n with attest := s.reportBody t nonce ++ r }).irqVf t 3)) ∧
      (let o := n.peer p
       let peer : Peer := { v := v.getLsbD 63, unreach := o.unreach && !v.getLsbD 63, ports := v.extractLsb' 48 8, member := v.setWidth 16,
                            fails := if v.getLsbD 63 then 0 else o.fails, gen := o.gen, rxCtr := o.rxCtr }
       p ≠ 0 → p ≤ 63 → n.realm = none → exec (.peerWrite t p v) s = .next (tenant fun n => { n with peers := tabSet n.peers p peer })) ∧
      (∀ b, Config.openRealm blob = some b → s.isRevoked b.realm b.keyId = false → exec (.realmForm t blob) s = .next (tenant fun n => { n with
        realm := some { id := b.realm, key := b.key, keyId := b.keyId, edKey := b.edKey, mlKey := b.mlKey, members := b.members }
        peers := n.peers.map fun (e : Nat × Peer) => (e.1, { e.2 with gen := 0, rxCtr := 0 }) })) ∧
      (∀ r b, n.realm = some r → Config.openImport r.key blob = some b → s.isRevoked r.id b.keyId = false → b.slot < 128 →
        tabGet 255 s.keys b.slot = 255 ∨ tabGet 255 s.keys b.slot = t → (∃ x ∈ b.pair, x ≠ 0) →
        exec (.keyImport t blob) s = .next { s with keys := tabSet s.keys b.slot t, keyPairs := tabSet s.keyPairs b.slot b.pair }) ∧
      (exec (.registerWrite (some t) 0x0000 v) s = .next (tenant fun n => { n with ptroot := v &&& 0x0000FFFFFFFFF000#64 }) ∧
        exec (.registerWrite (some t) 0x0520 v) s = .next (tenant fun n => { n with irqen := v.setWidth 8 }) ∧
        (s.mgmt.busy = false → v.toNat % 16 ∉ [1, 2, 3, 4] →
          exec (.registerWrite none 0x010 v) s = .next (mg { s.mgmt with cmd := v.setWidth 12 &&& 0xF3F })) ∧
        exec (.registerWrite none 0x018 v) s = .next (mg { s.mgmt with irqen := v.setWidth 8 })) ∧
      (t ≤ 63 → ∃ u, exec (.latusWrite t w) s = .next u ∧ u.tenantAt t = { n with latUs := w } ∧
        (∀ a, s.mgmt.power = .at a → u.mgmt.power = if u.deepest.toNat < a.toNat then .exiting u.deepest else .at a))) ∧
    (∀ r b, Config.openRevocation blob = some b → n.realm = some r → b.realm = r.id → b.keyId = r.keyId →
      Config.ed25519Verify r.edKey b.body b.edSig = true → Config.mlDsaVerify r.mlKey b.body b.mlSig = true →
      (∀ e, (s.mgmt.serials.find? fun e => e.1 = b.realm) = some e → e.2.toNat < b.serial.toNat) →
      exec (.revocation t blob) s = .next (State.revoke (mg { s.mgmt with serials := tabSet s.mgmt.serials b.realm b.serial }) t true)) ∧
    (exec (.flr t) s = .next (s.revoke t false) ∧ ((s.revoke t false).tenantAt t).tstat = 3 ∧
      (∀ e ∈ (s.revoke t false).launches, e.tenant ≠ t) ∧ ∀ e ∈ (s.revoke t false).keys, e.2 ≠ t ∨ t = 255) ∧
    (∀ r, n.realm = some r → (n.peer p).v = true → (n.peer p).unreach = false →
      let put := fun (q : Peer) => s.wakePower.modTenant t fun n => { n with peers := tabSet n.peers p q }
      let o := n.peer p
      (∀ e, Config.announced r.key p blob = some e → o.gen < e → s.isRevoked r.id r.keyId = false →
        exec (.scaleoutFrame t p blob) s = .next (put { o with fails := 0, gen := e, rxCtr := 0 })) ∧
      ((∀ e, Config.announced r.key p blob = some e → e ≤ o.gen) →
      (Config.frameTagOk r.key p o.gen blob = true → exec (.scaleoutFrame t p blob) s = .next
        (put { o with fails := 0, gen := if o.rxCtr + 2 < 2 ^ 48 then o.gen else o.gen + 1, rxCtr := if o.rxCtr + 2 < 2 ^ 48 then o.rxCtr + 1 else 0 })) ∧
      (Config.frameTagOk r.key p o.gen blob = false → o.fails + 1 < 16 →
        exec (.scaleoutFrame t p blob) s = .next (put { o with fails := o.fails + 1 })) ∧
      (Config.frameTagOk r.key p o.gen blob = false → o.fails = 15 →
        exec (.scaleoutFrame t p blob) s = .next ((put { o with fails := 16, unreach := true }).irqVf t 6)))) ∧
    (isDevice (g * 0x10000000) = true → b8.toNat ≤ 63 ∨ b8 = 0xFF → b8 ≠ tabGet 0xFF s.owners g → exec (.granuleOwnerWrite g b8) s = .next { s with
      owners := tabSet s.owners g b8, scrubbing := g :: s.scrubbing.filter (· ≠ g), deadGranules := s.deadGranules.filter (· ≠ g) }) ∧
    (g ∈ s.scrubbing → ∃ u, exec (.granuleScrubDone g) s = .next u ∧ g ∉ u.scrubbing ∧ (∀ a ∈ u.softLines ++ u.badLines, granuleOf a ≠ g) ∧
      ∀ a, u.mem.read a = if a / 0x10000000 = g then 0 else s.mem.read a) ∧
    (s.mgmt.busy = false → die ≤ 3 →
      let busy := fun (arg cmd : Nat) => mg { s.mgmt with cmd := BitVec.ofNat 12 (arg % 16 * 256 + die * 16 + cmd), busy := true }
      exec (.mgmtDrain ⟨die, k⟩) s = .next (((busy k 1).modDie die fun d => { d with drained := true }).preemptWhere fun r => r.d == die) ∧
      ((s.dieAt die).drained = true → exec (.mgmtReinitReturn ⟨die, k⟩ []) s = .next ((busy k 2).modDie die fun d => { d with drained := false })) ∧
      (ch ≤ 11 → exec (.mgmtRetrainChannel die ch) s = .next ((busy ch 3).setRetrain (some {
        die := die, ch := ch, todo := (busy ch 3).chanSites die ch, batch := [], copied := false, restored := false, ops := [], pages := [] }))) ∧
      (linked die k = true → exec (.mgmtRetrainBramble die k) s = .next ((busy k 4).retrainLink (linkNo die k))) ∧
      let kept := fun (arg cmd : Nat) => mg { s.mgmt with cmd := BitVec.ofNat 12 (arg % 16 * 256 + die * 16 + cmd) }
      (11 < ch → ch ≤ 15 → exec (.mgmtRetrainChannel die ch) s = .next (kept ch 3)) ∧
      (linked die k = false → k ≤ 15 → exec (.mgmtRetrainBramble die k) s = .next (kept k 4))) ∧
    (∀ r, s.mgmt.busy = true → s.mgmt.retrain = some r → exec .mgmtCommandComplete s = .next (s.retrainMove r)) ∧
    (s.mgmt.busy = true → s.mgmt.retrain = none → s.mgmtDone = true →
      exec .mgmtCommandComplete s = .next (State.irqPf (mg { s.mgmt with busy := false }) 1)) ∧
    (∀ i : Fin 4, let b := s.brambles[i]
      let link := fun (b : Bramble) => ({ s with brambles := s.brambles.set i b } : State)
      exec (.brambleRetrain i.val) s = .next (link { b with retraining := b.retraining.or (some s.cycle) }) ∧
      exec (.brambleRetrainDone i.val) s = .next (link { retraining := none, down := false }).settleAll ∧
      (∀ c0, b.retraining = some c0 → 12000000 ≤ (s.cycle - c0).toNat → s.msgs = [] →
        exec (.brambleReroute i.val) s = .next (link { retraining := none, down := true }).settleAll)) ∧
    (l.kind = .compute → l ∉ s.mgmt.fenced → l ∉ s.mgmt.fencing → ∃ u, exec (.coreFence l) s = .next u ∧
      (s.launches = [] → (s.coreAt l).place = none → l ∈ u.mgmt.fenced)) ∧
    (s.assisting = false ∨ s.mgmt.fwDead = true → Config.openFirmware s.mgmt.fwTried s.newImage = none →
      exec .firmwareSwitch s = .next (State.irqPf (mg { s.mgmt with fwTried := s.mgmt.fwTried + 1, fwFailed := true }) 2)) ∧
    (∀ f, s.assisting = false ∨ s.mgmt.fwDead = true → Config.openFirmware s.mgmt.fwTried s.newImage = some f →
      let good := f.verified = true ∧ f.switches = true ∧ s.mgmt.fwVersion.toNat ≤ f.version.toNat
      (good → exec .firmwareSwitch s = .next (State.irqPf (mg { s.mgmt with
        fwTried := s.mgmt.fwTried + 1, fwFailed := false, fwDead := false, fwVersion := f.version, epoch := s.mgmt.epoch + 1,
        chain := if s.mgmt.phase = 1 ∧ s.mgmt.failStep = 1 ∧ s.mgmt.chain = 0
          then (s.newImage :: Config.bootElements.tail).foldl extend 0 else extend s.mgmt.chain s.newImage }) 2)) ∧
      (¬good → exec .firmwareSwitch s = .next (State.irqPf (mg { s.mgmt with fwTried := s.mgmt.fwTried + 1, fwFailed := true }) 2))) ∧
    ((s.mgmt.power = .at 0 → s.deviceIdle = true → exec .powerStateEnter s = .next (mg { s.mgmt with power := .at s.deepest })) ∧
      (∀ a, s.mgmt.power = .at a → exec .powerWake s = .next (mg { s.mgmt with power := if a = 0 then .at 0 else .exiting 0 })) ∧
      ∀ a, s.mgmt.power = .exiting a → exec .powerWake s = .next (mg { s.mgmt with power := .exiting 0 }) ∧
        exec .powerExitComplete s = .next (mg { s.mgmt with power := .at a })) ∧
    (s.mgmt.phase = 0 →
      exec (.powerGood false dies k [l]) s = .next (State.irqPf (mg { s.mgmt with phase := 1, failStep := 1, fwDead := true }) 0) ∧
      exec (.powerGood true dies k [l]) s = .next (State.irqPf (mg { s.mgmt with
        phase := 1, chain := Config.bootElements.foldl extend 0, fwVersion := Config.bootVersion }) 0)) ∧
    (s.mgmt.phase = 1 → s.mgmt.fwDead = false → dies = 15 ∨ (3 ≤ k ∧ k ≤ 6) →
      exec (.powerGood true dies k [l]) s = .next (State.irqPf (mg { s.mgmt with
        diesOk := dies, failStep := if dies = 15 then s.mgmt.failStep else BitVec.ofNat 4 k, fenced := [l],
        phase := if dies = 0 then 3 else 2 }) 0)) ∧
    exec .machineInterrupt s = .next (mg { s.mgmt with machineIrq := true }) ∧
    (t ≤ 63 → n.en = false → (s.mgmt.phase = 2 → exec (.tenantEnWrite t dies true) s = .next
        ((tenant fun n => { n with
          dies := dies, en := true, tstat := 1, chain := s.mgmt.chain, dequeues := 0, launches := 0, events := [] }).irqVf t 4).fitPower) ∧
      exec (.tenantEnWrite t dies false) s = .next (tenant fun n => { n with dies := dies })) ∧
    (t ≤ 63 → n.en = true →
      (n.tstat ≠ 3 → exec (.tenantEnWrite t dies false) s = .next ((tenant fun n => { n with en := false, tstat := 0 }).irqVf t 4)) ∧
      (n.tstat = 3 → ∃ u, exec (.tenantEnWrite t dies false) s = .next u ∧ (u.tenantAt t).en = false ∧ (u.tenantAt t).tstat = 0 ∧
        (u.tenantAt t).realm = n.realm ∧ (u.tenantAt t).events = [])) ∧
    (g + k ≤ 2 ^ 40 → s.ob = [] → s.hostReads = [] → exec (.hostBar2Access t g none k) s = .next
      (State.answerReads { s.wakePower with hostReads := [{ tenant := t, off := g, n := k, wait := 0 }] })) ∧
    (g + blob.length ≤ 2 ^ 40 →
      let write := exec (.hostBar2Access t g (some blob) blob.length) s
      let waits := write = .next { s.wakePower with hostWrites := s.hostWrites ++ [.data t g blob] }
      (s.hostHeld t = true → waits) ∧
      (s.hostHeld t = false →
        (∀ u, s.wakePower.devWrite t g blob = .ok u → write = .next u) ∧
        (∀ code level va, s.wakePower.devWrite t g blob = .fault code level va → write = .next s.wakePower) ∧
        (s.wakePower.devWrite t g blob = .wait → waits)))
end

