-- ==== Sys2Proof/Laws/Memory.lean ====
section
/-! SUPPORT. Sys2Proof/Laws/Memory.lean: the laws of memory. Every operation keeps the canonical form; a read after a write gives the
byte written at its address and the old byte elsewhere. -/

namespace Sys2Proof.Machine

/-! ## The canonical form -/

/-- No address of a list of cells lies below or at `lo`. -/
def above (lo : Nat) (cs : List Host.Cell) : Prop := ∀ c ∈ cs, lo < c.1

theorem cellsWf_cons (k : Nat) (b : Byte) (r : List Host.Cell) :
    cellsWf ((k, b) :: r) = true ↔ b ≠ 0 ∧ above k r ∧ cellsWf r = true := by
  induction r generalizing k b with
  | nil => simp [cellsWf, above]
  | cons c r ih =>
    obtain ⟨k', b'⟩ := c
    simp only [cellsWf, Bool.and_eq_true, bne_iff_ne, decide_eq_true_eq, above, List.mem_cons, forall_eq_or_imp]
    constructor
    · rintro ⟨⟨hb, hk⟩, hr⟩
      exact ⟨hb, ⟨hk, fun c hc => Nat.lt_trans hk ((ih k' b').mp hr |>.2.1 c hc)⟩, hr⟩
    · rintro ⟨hb, ⟨hk, -⟩, hr⟩
      exact ⟨⟨hb, hk⟩, hr⟩

theorem above_cellsWrite {lo a : Nat} {b : Byte} {cs : List Host.Cell} (h : above lo cs) (ha : lo < a) :
    above lo (cellsWrite cs a b) := by
  induction cs with
  | nil => unfold cellsWrite; split <;> simp [above, ha]
  | cons c r ih =>
    obtain ⟨k, d⟩ := c
    have hk : lo < k := h _ (List.mem_cons_self ..)
    have hr : above lo r := fun c hc => h c (List.mem_cons_of_mem _ hc)
    unfold cellsWrite
    simp only [above] at hr ih ⊢
    split
    · simpa [hk] using ih hr
    · split
      · split
        · exact hr
        · simpa [ha] using hr
      · split
        · simpa [hk] using hr
        · simpa [hk, ha] using hr

theorem cellsWf_cellsWrite {cs : List Host.Cell} (a : Nat) (b : Byte) (h : cellsWf cs = true) : cellsWf (cellsWrite cs a b) = true := by
  induction cs with
  | nil => unfold cellsWrite; split <;> simp_all [cellsWf]
  | cons c r ih =>
    obtain ⟨k, d⟩ := c
    obtain ⟨hd, hk, hr⟩ := (cellsWf_cons k d r).mp h
    unfold cellsWrite
    split
    · rename_i hlt
      exact (cellsWf_cons ..).mpr ⟨hd, above_cellsWrite hk hlt, ih hr⟩
    · split
      · rename_i heq
        split
        · exact hr
        · rename_i hb
          exact (cellsWf_cons ..).mpr ⟨hb, heq ▸ hk, hr⟩
      · rename_i hlt hne
        split
        · exact h
        · rename_i hb
          refine (cellsWf_cons ..).mpr ⟨hb, ?_, h⟩
          intro c hc
          cases hc with
          | head => exact Nat.lt_of_le_of_ne (Nat.not_lt.mp hlt) (Ne.symm hne)
          | tail _ hc => exact Nat.lt_trans (Nat.lt_of_le_of_ne (Nat.not_lt.mp hlt) (Ne.symm hne)) (hk c hc)

theorem cellsWf_filter {cs : List Host.Cell} (p : Host.Cell → Bool) (h : cellsWf cs = true) : cellsWf (cs.filter p) = true := by
  induction cs with
  | nil => simp [cellsWf]
  | cons c r ih =>
    obtain ⟨k, d⟩ := c
    obtain ⟨hd, hk, hr⟩ := (cellsWf_cons k d r).mp h
    rw [List.filter_cons]
    split
    · exact (cellsWf_cons ..).mpr ⟨hd, fun c hc => hk c ((List.mem_filter.mp hc).1), ih hr⟩
    · exact ih hr

@[simp] theorem Memory.wf_empty : Memory.wf { cells := [] } = true := rfl
theorem Memory.wf_write {m : Memory} (a : Nat) (b : Byte) (h : m.wf = true) : (m.write a b).wf = true := cellsWf_cellsWrite a b h
theorem Memory.wf_writeN {m : Memory} (a : Nat) (bs : List Byte) (h : m.wf = true) : (m.writeN a bs).wf = true := by
  induction bs generalizing m a with
  | nil => exact h
  | cons b r ih => exact ih (a + 1) (Memory.wf_write a b h)
theorem Memory.wf_clear {m : Memory} (lo hi : Nat) (h : m.wf = true) : (m.clear lo hi).wf = true := cellsWf_filter _ h

/-! ## Reads after writes -/

theorem cellsRead_above {lo a : Nat} {cs : List Host.Cell} (h : above lo cs) (ha : a ≤ lo) : cellsRead cs a = 0 := by
  induction cs with
  | nil => rfl
  | cons c r ih =>
    obtain ⟨k, d⟩ := c
    have hk : lo < k := h _ (List.mem_cons_self ..)
    have hne : k ≠ a := by omega
    simp only [cellsRead, hne, if_false]
    exact ih fun c hc => h c (List.mem_cons_of_mem _ hc)

theorem cellsRead_cellsWrite {cs : List Host.Cell} (a q : Nat) (b : Byte) (h : cellsWf cs = true) :
    cellsRead (cellsWrite cs a b) q = if q = a then b else cellsRead cs q := by
  induction cs with
  | nil =>
    unfold cellsWrite
    split
    · rename_i hb; simp [cellsRead, hb]
    · simp [cellsRead, eq_comm]
  | cons c r ih =>
    obtain ⟨k, d⟩ := c
    obtain ⟨hd, hk, hr⟩ := (cellsWf_cons k d r).mp h
    unfold cellsWrite
    split
    · rename_i hlt
      simp only [cellsRead, ih hr]
      split
      · rename_i hq; subst hq; simp [Nat.ne_of_lt hlt]
      · rfl
    · split
      · rename_i heq
        subst heq
        by_cases hq : q = k
        · subst hq
          split
          · rename_i hb; simp [hb, cellsRead_above hk (Nat.le_refl _)]
          · simp [cellsRead]
        · split <;> simp [cellsRead, Ne.symm hq]
      · rename_i hlt hne
        have hka : a < k := by omega
        by_cases hq : q = a
        · subst hq
          split
          · rename_i hb
            have : above q r := fun c hc => Nat.lt_trans hka (hk c hc)
            simp [hb, cellsRead, hne, cellsRead_above this (Nat.le_refl _)]
          · simp [cellsRead]
        · split <;> simp [cellsRead, Ne.symm hq]

theorem Memory.read_write {m : Memory} (a q : Nat) (b : Byte) (h : m.wf = true) :
    (m.write a b).read q = if q = a then b else m.read q := cellsRead_cellsWrite a q b h

/-- A byte outside the bytes a string is written to reads as before. -/
theorem Memory.read_writeN_other {m : Memory} (a q : Nat) (bs : List Byte) (h : m.wf = true) (hq : q < a ∨ a + bs.length ≤ q) :
    (m.writeN a bs).read q = m.read q := by
  induction bs generalizing m a with
  | nil => rfl
  | cons b r ih =>
    simp only [List.length_cons] at hq
    have hne : q ≠ a := by omega
    rw [Memory.writeN, ih (a + 1) (Memory.wf_write a b h) (by omega), Memory.read_write a q b h]
    simp [hne]

/-- A byte of those a string is written to reads as its place in the string. -/
theorem Memory.read_writeN_same {m : Memory} (a i : Nat) (bs : List Byte) (h : m.wf = true) (hi : i < bs.length) :
    (m.writeN a bs).read (a + i) = bs[i] := by
  induction bs generalizing m a i with
  | nil => exact absurd hi (Nat.not_lt_zero _)
  | cons b r ih =>
    rw [Memory.writeN]
    cases i with
    | zero =>
      rw [Memory.read_writeN_other (a + 1) (a + 0) r (Memory.wf_write a b h) (by omega), Memory.read_write a _ b h]
      simp
    | succ j =>
      have := ih (a + 1) j (Memory.wf_write a b h) (by simpa using hi)
      rw [show a + (j + 1) = a + 1 + j by omega, this]
      simp

theorem cellsRead_filter {cs : List Host.Cell} (p : Nat → Bool) (a : Nat) (h : cellsWf cs = true) :
    cellsRead (cs.filter fun c => p c.1) a = if p a then cellsRead cs a else 0 := by
  induction cs with
  | nil => simp [cellsRead]
  | cons c r ih =>
    obtain ⟨k, d⟩ := c
    obtain ⟨hd, hk, hr⟩ := (cellsWf_cons k d r).mp h
    rw [List.filter_cons]
    by_cases hka : k = a
    · subst hka
      have h0 := cellsRead_above hk (Nat.le_refl _)
      by_cases hp : p k = true <;> simp [hp, cellsRead, ih hr]
    · by_cases hp : p k = true <;> simp [hp, cellsRead, ih hr, hka]

theorem Memory.read_clear {m : Memory} (lo hi a : Nat) (h : m.wf = true) :
    (m.clear lo hi).read a = if lo ≤ a ∧ a < hi then 0 else m.read a := by
  have := cellsRead_filter (fun k => decide (k < lo) || decide (hi ≤ k)) a h
  simp only [Memory.read, Memory.clear, this]
  by_cases h1 : lo ≤ a ∧ a < hi
  · simp [h1, Nat.not_lt.mpr h1.1, Nat.not_le.mpr h1.2]
  · have : a < lo ∨ hi ≤ a := by omega
    simp [h1, this]

@[simp] theorem Memory.readN_length (m : Memory) (a n : Nat) : (m.readN a n).length = n := by
  induction n generalizing a with
  | zero => rfl
  | succ n ih => simp [Memory.readN, ih]

/-- A string read back where it was written. -/
theorem Memory.readN_writeN {m : Memory} (a : Nat) (bs : List Byte) (h : m.wf = true) : (m.writeN a bs).readN a bs.length = bs := by
  induction bs generalizing m a with
  | nil => rfl
  | cons b r ih =>
    have h0 := Memory.read_writeN_same a 0 (b :: r) h (by simp)
    simp only [List.length_cons, Memory.readN]
    rw [show (m.writeN a (b :: r)).read a = b by simpa using h0]
    simp only [Memory.writeN]
    rw [ih (a + 1) (Memory.wf_write a b h)]

/-! ## Bit fields -/

theorem bitsOf_eq (v : W64) (hi lo : Nat) : bitsOf v hi lo = v.toNat / 2 ^ lo % 2 ^ (hi + 1 - lo) := by
  simp [bitsOf, Nat.shiftRight_eq_div_pow]

end Sys2Proof.Machine
end

