-- ==== Sys2Proof/Laws/Ops.lean ====
section
/-! SUPPORT. Sys2Proof/Laws/Ops.lean: one lemma per way an instruction ends, and one per shared operation, saying what it answers; the
statements' proofs cite these instead of unfolding the operations. -/

namespace Sys2Proof.Machine

/-! ## The end of an instruction -/

variable {c : Ctl} {s t u : State} {body : State → Res}

theorem run_ok (h : enabled c s.core = true) (e : body s = .ok t) : run c s body = .next (t.ended c) := by
  simp only [run, h, if_true, e]; rfl
theorem run_goto {pc : W64} (h : enabled c s.core = true) (e : body s = .goto t pc) : run c s body = .next (t.went c pc) := by
  simp only [run, h, if_true, e]; rfl
theorem run_hold (h : enabled c s.core = true) (e : body s = .hold t) : run c s body = .next (t.holding c) := by
  simp only [run, h, if_true, e]; rfl
theorem run_trap {i : TrapInfo} (h : enabled c s.core = true) (e : body s = .trap i) : run c s body = .next (s.trapped c i) := by
  simp only [run, h, if_true, e]; rfl
theorem run_trapIn {i : TrapInfo} (h : enabled c s.core = true) (e : body s = .trapIn u i) : run c s body = .next (u.trapped c i) := by
  simp only [run, h, if_true, e]; rfl
theorem run_stall {code level va : Nat} {acc : Access} (h : enabled c s.core = true) (e : body s = .stall code level acc va) :
    run c s body = .next ((s.takeStall s.core.loc code level acc va).delayed c) := by
  simp only [run, h, if_true, e]; rfl
theorem run_walk {va : Nat} {acc : Access} (h : enabled c s.core = true) (e : body s = .walk acc va) :
    run c s body = .next ((s.onCore fun k => { k with held := true, walk := some (va, acc) }).delayed c) := by
  simp only [run, h, if_true, e]; rfl
theorem run_disabled (h : enabled c s.core = false) : run c s body = .next (s.ended c) := by
  simp only [run, h]; rfl

/-- Everything `run` can answer: one next state, never a fault or a refusal. -/
theorem run_next (c : Ctl) (s : State) (body : State → Res) : ∃ t, run c s body = .next t := by
  cases h : enabled c s.core with
  | true => exact ⟨_, by simp only [run, h, if_true]; rfl⟩
  | false => exact ⟨_, run_disabled h⟩

theorem runMachine_control (h : s.core.loc.kind = .control) : runMachine c s body = run c s body := by simp only [runMachine, h, if_true]
theorem runMachine_below (h : s.core.loc.kind ≠ .control) :
    runMachine c s body =
      .next (s.takeTrap { code := 0x06, i0 := s.core.ir.head.setWidth 64, i1 := s.core.ir.tailWord, i2 := 0, i3 := 0 }) := by
  simp only [runMachine, h, if_false]; rfl
theorem runMachine_next (c : Ctl) (s : State) (body : State → Res) : ∃ t, runMachine c s body = .next t := by
  by_cases h : s.core.loc.kind = .control
  · rw [runMachine_control h]; exact run_next c s body
  · exact ⟨_, runMachine_below h⟩

theorem writeX_enabled {d : XReg} {f : State → W64} (h : enabled c s.core = true) :
    writeX c d f s = .next ((s.setX d (f s)).ended c) := run_ok h rfl
theorem writeG_enabled {d : GReg} {f : State → Bool} (h : enabled c s.core = true) :
    writeG c d f s = .next ((s.setG d (f s)).ended c) := run_ok h rfl

/-! ## Targets -/

theorem checkTarget_ok {target : W64} {k : State → Res} (h : targetOk s target = true) :
    checkTarget s target k = k (s.targetRead target) := by
  simp only [targetOk, Bool.and_eq_true] at h
  obtain ⟨⟨h1, h0⟩, h2⟩ := h
  have h0' : (!s.core.sameLine target && s.codePoisoned s.core (lineBase target)) = false := by
    cases ha : s.core.sameLine target <;> cases hb : s.codePoisoned s.core (lineBase target) <;> simp_all
  simp only [checkTarget, h1, h0', State.targetRead]
  generalize (if s.core.sameLine target then Line.halves s.core.ir.words else s.codeLine s.core (lineBase target)) = l at *
  cases l with
  | halves hs =>
    simp only [Option.isNone_iff_eq_none] at h2
    simp only [h2]; rfl
  | miss => simp at h2
  | wait => simp at h2
  | refuse a b => simp at h2

/-! ## Accesses -/

theorem localAccess_ok {a : W64} {n al : Nat} {k : Res} (h1 : a.toNat % al = 0) (h2 : a.toNat < 0x30000)
    (h3 : s.core.inStash a.toNat n = false) (h4 : s.handlerOk a.toNat n = true) : localAccess s a n al k = k := by
  simp only [localAccess, h1, Nat.not_le.mpr h2, h3, h4]; rfl
theorem vlocal_ok {a : W64} {n al : Nat} {k : Res} (h1 : a.toNat % al = 0) (h2 : a.toNat < 0x30000)
    (h3 : s.core.inStash a.toNat n = false) : vlocal s a n al k = k := by
  simp only [vlocal, h1, Nat.not_le.mpr h2, h3]; rfl
theorem globalAccess_ok {va pte : W64} {n pa : Nat} {acc : Access} {k : Nat → W64 → Res} (h : accessOk s va n acc pa pte) :
    globalAccess s va n acc k = k pa pte := by
  have h3 := h.2.2
  cases hs : s.core.served va.toNat pa acc with
  | true => simp only [globalAccess, globalPage, h.1, h.2.1, hs, if_true]; rfl
  | false =>
    simp only [hs, Bool.not_false, Bool.true_and] at h3
    simp only [globalAccess, globalPage, portGate, h.1, h.2.1, hs, h3]; rfl
theorem scopePolicy_narrow {sc : Scope} {k : Scope → Res} (h : sc ≠ .sys) : scopePolicy s sc k = k sc := by
  simp only [scopePolicy, h, if_false]

/-! ## Ports -/

theorem namePort_clear {d : Dir} {k : Res} (h : portClear s d = true) : namePort s d k = k := by
  simp only [portClear, portsClear, List.all_cons, List.all_nil, Bool.and_true, Bool.and_eq_true, bne_iff_ne, ne_eq,
    Option.isNone_iff_eq_none] at h
  obtain ⟨⟨h1, h2⟩, h3⟩ := h
  simp only [namePort, h1, h2, h3]; rfl
theorem namePorts_clear {os : List VOp} {k : Res} (h : portsClear s os = true) : namePorts s os k = k := by
  induction os with
  | nil => rfl
  | cons o r ih =>
    simp only [portsClear, List.all_cons, Bool.and_eq_true] at h
    have ih' := ih (by simpa only [portsClear] using h.2)
    cases o with
    | link d =>
      simp only [namePorts, ih']
      exact namePort_clear (by simpa only [portClear, portsClear, List.all_cons, List.all_nil, Bool.and_true] using h.1)
    | reg r => simp only [namePorts, ih']
    | stream q => simp only [namePorts, ih']
    | null => simp only [namePorts, ih']

theorem vectorOp_ok {srcs : List VOp} {d : VOp} {f : List V512 → V512 → V512} {after : List V512 → State → State} {vs : List V512}
    {s1 s2 : State} (h : portsClear s (srcs ++ [d]) = true) (hr : readAll s srcs = .ok (some (vs, s1)))
    (hw : writeV s1 d (f vs (oldV s d)) = .ok (some s2)) : vectorOp s srcs d f after = .ok (after vs s2) := by
  simp only [vectorOp, namePorts_clear h, hr, bindPort, hw]
theorem vectorTo_ok {srcs : List VOp} {after : List V512 → State → State} {vs : List V512} {s1 : State}
    (h : portsClear s srcs = true) (hr : readAll s srcs = .ok (some (vs, s1))) : vectorTo s srcs after = .ok (after vs s1) := by
  simp only [vectorTo, namePorts_clear h, hr, bindPort]

end Sys2Proof.Machine
end

