-- ==== Sys2Proof/Laws/PerInstr.lean ====
section
/-! SUPPORT. Sys2Proof/Laws/PerInstr.lean: for each constructor of `Instr`, that the fields it is encoded with decode to it. -/

namespace Sys2Proof

/-! ## Operand codes and what they decode to -/

theorem ok_of_toOption {e : Except DecErr α} {a : α} (h : e.toOption = some a) : e = .ok a := by
  cases e with
  | ok b => exact congrArg Except.ok (Option.some.inj h)
  | error r => exact nomatch h

@[simp] theorem xreg_code (r : XReg) : xreg (r.setWidth 6) = .ok r := ok_of_toOption (by revert r; decide)
@[simp] theorem vreg_code (r : BitVec 5) : vreg (r.setWidth 6) = .ok r := ok_of_toOption (by revert r; decide)
@[simp] theorem low3_code (r : BitVec 3) : low3 (r.setWidth 6) = .ok r := ok_of_toOption (by revert r; decide)
@[simp] theorem low4_code (r : BitVec 4) : low4 (r.setWidth 6) = .ok r := ok_of_toOption (by revert r; decide)
@[simp] theorem fwdReg_code (r : Option (BitVec 5)) : fwdReg (fwdCode r) = .ok r := by
  cases r with
  | none => rfl
  | some r => exact ok_of_toOption (by revert r; decide)
@[simp] theorem dirOp_code (d : Dir) : dirOp (d.bits.setWidth 6) = .ok d := ok_of_toOption (by cases d <;> decide)
@[simp] theorem linkOp_code (d : Dir) : linkOp (32#6 + d.bits.setWidth 6) = .ok d := ok_of_toOption (by cases d <;> decide)
@[simp] theorem streamOp_code (q : BitVec 2) : streamOp (36#6 + q.setWidth 6) = .ok q := ok_of_toOption (by revert q; decide)
@[simp] theorem vop_code (o : VOp) : vop o.code = .ok o := by
  cases o with
  | reg r => exact ok_of_toOption (by revert r; decide)
  | link d => exact ok_of_toOption (by cases d <;> decide)
  | stream q => exact ok_of_toOption (by revert q; decide)
  | null => rfl
@[simp] theorem maskOp_code (k : MaskOp) : maskOp k.code = .ok k := by
  obtain ⟨m, z⟩ := k
  exact ok_of_toOption (by revert m z; decide)
@[simp] theorem VType.ofCode_code (t : VType) : VType.ofCode t.code = .ok t := by cases t <;> rfl
@[simp] theorem MType.ofCode_code (t : MType) : MType.ofCode t.code = .ok t := by cases t <;> first | rfl | (rename_i a; cases a <;> rfl)
@[simp] theorem Cond.ofCode_code (t : Cond) : Cond.ofCode t.code = .ok t := by cases t <;> rfl
@[simp] theorem VCond.ofCode_code (t : VCond) : VCond.ofCode t.code = .ok t := by cases t <;> rfl
@[simp] theorem FCond.ofCode_code (t : FCond) : FCond.ofCode t.code = .ok t := by cases t <;> rfl
@[simp] theorem LdSize.ofCode_code (t : LdSize) : LdSize.ofCode t.code = .ok t := by cases t <;> rfl
@[simp] theorem StSize.ofCode_code (t : StSize) : StSize.ofCode t.code = .ok t := by cases t <;> rfl
@[simp] theorem RM.ofCode_code (t : RM) : RM.ofCode t.code = .ok t := by cases t <;> rfl
@[simp] theorem SType.ofCode_code (t : SType) : SType.ofCode t.code = .ok t := by cases t <;> rfl
@[simp] theorem CType.ofCode_code (t : CType) : CType.ofCode t.code = .ok t := by cases t <;> first | rfl | (rename_i a; cases a <;> rfl)
@[simp] theorem Scope.ofCode_code (t : Scope) : Scope.ofCode t.code = .ok t := by cases t <;> rfl
@[simp] theorem Ord.ofCode_code (t : Ord) : Ord.ofCode t.code = .ok t := by cases t <;> rfl
@[simp] theorem AmoOp.ofCode_code (t : AmoOp) : AmoOp.ofCode t.code = .ok t := by cases t <;> rfl
@[simp] theorem LogOp.ofCode_code (t : LogOp) : LogOp.ofCode t.code = .ok t := by cases t <;> rfl
@[simp] theorem LogTy.ofCode_code (t : LogTy) : LogTy.ofCode t.code = .ok t := by cases t <;> rfl
@[simp] theorem SysReg.ofCode_code (r : SysReg) : SysReg.ofCode r.code = .ok r := by
  cases r with
  | bankfmt k => exact ok_of_toOption (by revert k; decide)
  | xinfo k => exact ok_of_toOption (by revert k; decide)
  | _ => rfl
@[simp] theorem xregIf_true (v : BitVec 6) : xregIf true v = xreg v := rfl
@[simp] theorem xregIf_false (v : BitVec 6) : xregIf false v = .ok 0 := rfl
@[simp] theorem xreg_zero : xreg 0#6 = .ok 0#5 := rfl
@[simp] theorem maskOp_zero : maskOp 0#6 = .ok ⟨0#3, false⟩ := rfl

@[simp] theorem maskOp_plain (m : BitVec 3) : maskOp (m.setWidth 6) = .ok ⟨m, false⟩ := ok_of_toOption (by revert m; decide)
@[simp] theorem RM.notRS_rne : RM.notRS .rne = true := rfl
@[simp] theorem RM.ofCode_zero : RM.ofCode 0#3 = .ok .rne := rfl
@[simp] theorem ldSizeG_code (z : LdSize) : ldSizeG z.code = .ok z := by cases z <;> rfl
@[simp] theorem stSizeG_code (z : StSize) : stSizeG z.code = .ok z := by cases z <;> rfl
@[simp] theorem atomSizeG_code (w : Bool) : atomSizeG (if w = true then 3#4 else 2#4) = .ok w := by cases w <;> rfl

@[simp] theorem mustBe_true : mustBe true = .ok () := rfl
@[simp] theorem except_bind_ok (a : α) (f : α → Except DecErr β) : (Except.ok a >>= f) = f a := rfl

/-! ## Fields of packed words -/

@[simp] theorem imm6_high (v : BitVec 6) : (v.setWidth 16).extractLsb' 6 10 = 0#10 := by revert v; decide
@[simp] theorem guard_high (v : BitVec 4) : (v.setWidth 6).extractLsb' 4 2 = 0#2 := by revert v; decide
@[simp] theorem id_high (v : BitVec 3) : (v.setWidth 6).extractLsb' 3 3 = 0#3 := by revert v; decide
@[simp] theorem reg_high (v : BitVec 5) : (v.setWidth 6)[5] = false := by revert v; decide
@[simp] theorem two_bits (v : BitVec 2) : v.toNat % 16 ≤ 3 := by omega
theorem extract_low (a : BitVec n) (b : BitVec m) (i k : Nat) (h : i + k ≤ m) : (a ++ b).extractLsb' i k = b.extractLsb' i k := by
  ext j hj
  have : i + j < m := by omega
  simp [BitVec.getLsbD_append, this]
theorem extract_high (a : BitVec n) (b : BitVec m) (i k : Nat) (h : m ≤ i) : (a ++ b).extractLsb' i k = a.extractLsb' (i - m) k := by
  ext j hj
  have h1 : ¬ i + j < m := by omega
  have h2 : i + j - m = i - m + j := by omega
  simp [BitVec.getLsbD_append, h1, h2]
theorem extract_all (a : BitVec n) : a.extractLsb' 0 n = a := by simp

@[simp] theorem halves_append (v : BitVec 32) : v.extractLsb' 16 16 ++ v.extractLsb' 0 16 = v := by
  have h := BitVec.extractLsb'_append_extractLsb'_eq_extractLsb' (w := 32) (x := v) (start₁ := 0) (start₂ := 16) (len₁ := 16) (len₂ := 16) rfl
  exact h.trans (extract_all v)
@[simp] theorem fieldImm_top (p w : BitVec 6) : (fieldImm p w).extractLsb' 12 4 = 0#4 :=
  (extract_high 0#4 (w ++ p) 12 4 (by decide)).trans (extract_all _)
@[simp] theorem fieldImm_pos (p w : BitVec 6) : (fieldImm p w).extractLsb' 0 6 = p :=
  (extract_low 0#4 (w ++ p) 0 6 (by decide)).trans ((extract_low w p 0 6 (by decide)).trans (extract_all p))
@[simp] theorem fieldImm_width (p w : BitVec 6) : (fieldImm p w).extractLsb' 6 6 = w :=
  (extract_low 0#4 (w ++ p) 6 6 (by decide)).trans ((extract_high w p 6 6 (by decide)).trans (extract_all w))

section
variable (s : Bool) (r : BitVec 3) (d c : BitVec 4)
@[simp] theorem cvtImm_top : (cvtImm s r d c).extractLsb' 12 4 = 0#4 :=
  (extract_high 0#4 (BitVec.ofBool s ++ (r ++ (d ++ c))) 12 4 (by decide)).trans (extract_all _)
theorem cvtImm_low (i k : Nat) (h : i + k ≤ 12) : (cvtImm s r d c).extractLsb' i k = (BitVec.ofBool s ++ (r ++ (d ++ c))).extractLsb' i k :=
  extract_low 0#4 (BitVec.ofBool s ++ (r ++ (d ++ c))) i k h
@[simp] theorem cvtImm_rm : (cvtImm s r d c).extractLsb' 8 3 = r :=
  (cvtImm_low s r d c 8 3 (by decide)).trans ((extract_low _ (r ++ (d ++ c)) 8 3 (by decide)).trans
    ((extract_high r (d ++ c) 8 3 (by decide)).trans (extract_all r)))
@[simp] theorem cvtImm_dst : (cvtImm s r d c).extractLsb' 4 4 = d :=
  (cvtImm_low s r d c 4 4 (by decide)).trans ((extract_low _ (r ++ (d ++ c)) 4 4 (by decide)).trans
    ((extract_low r (d ++ c) 4 4 (by decide)).trans ((extract_high d c 4 4 (by decide)).trans (extract_all d))))
@[simp] theorem cvtImm_src : (cvtImm s r d c).extractLsb' 0 4 = c :=
  (cvtImm_low s r d c 0 4 (by decide)).trans ((extract_low _ (r ++ (d ++ c)) 0 4 (by decide)).trans
    ((extract_low r (d ++ c) 0 4 (by decide)).trans ((extract_low d c 0 4 (by decide)).trans (extract_all c))))
@[simp] theorem cvtImm_sat : (cvtImm s r d c)[11] = s := by
  have h : (cvtImm s r d c).extractLsb' 11 1 = BitVec.ofBool s :=
    (cvtImm_low s r d c 11 1 (by decide)).trans ((extract_high _ (r ++ (d ++ c)) 11 1 (by decide)).trans (extract_all _))
  have h0 := congrArg (fun x : BitVec 1 => x.getLsbD 0) h
  simpa using h0
end

@[simp] theorem vmemImm_type (t : BitVec 4) (o : BitVec 12) : (vmemImm t o).extractLsb' 12 4 = t :=
  (extract_high t o 12 4 (by decide)).trans (extract_all t)
theorem setWidth_eq_extract (a : BitVec n) (k : Nat) : a.setWidth k = a.extractLsb' 0 k := by
  ext i h; simp
@[simp] theorem vmemImm_off (t : BitVec 4) (o : BitVec 12) : (vmemImm t o).setWidth 12 = o :=
  (setWidth_eq_extract _ 12).trans ((extract_low t o 0 12 (by decide)).trans (extract_all o))
@[simp] theorem pair_high (a : BitVec 2) (b : BitVec 4) : BitVec.extractLsb' 4 2 (a ++ b : BitVec 6) = a :=
  (extract_high a b 4 2 (by decide)).trans (extract_all a)
@[simp] theorem pair_low (a : BitVec 2) (b : BitVec 4) : BitVec.setWidth 4 (a ++ b : BitVec 6) = b :=
  (setWidth_eq_extract _ 4).trans ((extract_low a b 0 4 (by decide)).trans (extract_all b))
@[simp] theorem parts_low (p q : BitVec 2) : ((q ++ p).setWidth 6).extractLsb' 0 2 = p := by revert p q; decide
@[simp] theorem parts_high (p q : BitVec 2) : ((q ++ p).setWidth 6).extractLsb' 2 2 = q := by revert p q; decide
theorem five_top (a b : BitVec 5) : BitVec.extractLsb' 10 6 (0#6 ++ (a ++ b) : BitVec 16) = 0#6 :=
  (extract_high 0#6 (a ++ b) 10 6 (by decide)).trans (extract_all _)
theorem five_high (a b : BitVec 5) : BitVec.extractLsb' 5 5 (0#6 ++ (a ++ b) : BitVec 16) = a :=
  (extract_low 0#6 (a ++ b) 5 5 (by decide)).trans ((extract_high a b 5 5 (by decide)).trans (extract_all a))
theorem five_low (a b : BitVec 5) : BitVec.extractLsb' 0 5 (0#6 ++ (a ++ b) : BitVec 16) = b :=
  (extract_low 0#6 (a ++ b) 0 5 (by decide)).trans ((extract_low a b 0 5 (by decide)).trans (extract_all b))
theorem kind_top (a : BitVec 3) (b : BitVec 4) : BitVec.extractLsb' 7 9 (0#9 ++ (a ++ b) : BitVec 16) = 0#9 :=
  (extract_high 0#9 (a ++ b) 7 9 (by decide)).trans (extract_all _)
theorem kind_high (a : BitVec 3) (b : BitVec 4) : BitVec.extractLsb' 4 3 (0#9 ++ (a ++ b) : BitVec 16) = a :=
  (extract_low 0#9 (a ++ b) 4 3 (by decide)).trans ((extract_high a b 4 3 (by decide)).trans (extract_all a))
theorem kind_low (a : BitVec 3) (b : BitVec 4) : BitVec.extractLsb' 0 4 (0#9 ++ (a ++ b) : BitVec 16) = b :=
  (extract_low 0#9 (a ++ b) 0 4 (by decide)).trans ((extract_low a b 0 4 (by decide)).trans (extract_all b))

theorem rep_fields (v : BitVec 16) (a : XReg) (n st : BitVec 5) (c : Ctl) (h1 : v.extractLsb' 10 6 = 0#6) (h2 : v.extractLsb' 5 5 = st)
    (h3 : v.extractLsb' 0 5 = n) (hn : 1 ≤ n.toNat ∧ n.toNat ≤ 16) :
    decVector54 { op := 0x54, s1 := a.setWidth 6, i := v, c := c } = .ok (.rep a n st c) := by
  simp [decVector54, member, h1, h2, h3, hn]
theorem gang_fields (v : BitVec 16) (h w : BitVec 5) (c : Ctl) (h1 : v.extractLsb' 10 6 = 0#6) (h2 : v.extractLsb' 5 5 = h)
    (h3 : v.extractLsb' 0 5 = w) : decParallel71 { op := 0x71, i := v, c := c } = .ok (.gang h w c) := by
  simp [decParallel71, h1, h2, h3]
theorem fence_fields (v : BitVec 16) (sc : Scope) (k : BitVec 4) (c : Ctl) (h1 : v.extractLsb' 7 9 = 0#9)
    (h2 : v.extractLsb' 4 3 = sc.code) (h3 : v.extractLsb' 0 4 = k) : decMemory82 { op := 0x82, i := v, c := c } = .ok (.fence sc k c) := by
  simp [decMemory82, h1, h2, h3]
@[simp] theorem scope_top (a : BitVec 3) : (a.setWidth 16).extractLsb' 3 13 = 0#13 := by revert a; decide
@[simp] theorem region_top (a : BitVec 2) : (a.setWidth 6).extractLsb' 2 4 = 0#4 := by revert a; decide
@[simp] theorem scopeField_bit (o : Ord) (sc : Scope) : (scopeField o sc)[3] = false := by cases o <;> cases sc <;> rfl
@[simp] theorem scopeField_scope (o : Ord) (sc : Scope) : (scopeField o sc).setWidth 3 = sc.code := by cases o <;> cases sc <;> rfl
@[simp] theorem scopeField_ord (o : Ord) (sc : Scope) : (scopeField o sc).extractLsb' 4 2 = o.code := by cases o <;> cases sc <;> rfl



namespace Laws.RoundTrip

set_option Elab.async false

/-- The fields a well-formed instruction is encoded with decode to it. -/
def Statement (i : Instr) : Prop := ∀ x, encodeFields i = some x → i.wf = true → decodeFields x = .ok i

theorem nop : ∀ c, Statement (.nop c) := by
  intro c x h hw; cases h; change decScalar00 _ = _; simp [decScalar00]
theorem halt : ∀ v c, Statement (.halt v c) := by
  intro v c x h hw; cases h; change decScalar01 _ = _; simp [decScalar01]
theorem add : ∀ w d b a c, Statement (.add w d b a c) := by
  intro w d b a c x h hw; cases h; cases w with
  | true => change decScalar03 _ = _; simp [decScalar03, member]
  | false => change decScalar02 _ = _; simp [decScalar02, member]
theorem sub : ∀ w d b a c, Statement (.sub w d b a c) := by
  intro w d b a c x h hw; cases h; cases w with
  | true => change decScalar03 _ = _; simp [decScalar03, member]
  | false => change decScalar02 _ = _; simp [decScalar02, member]
theorem and : ∀ w d b a c, Statement (.and w d b a c) := by
  intro w d b a c x h hw; cases h; cases w with
  | true => change decScalar03 _ = _; simp [decScalar03, member]
  | false => change decScalar02 _ = _; simp [decScalar02, member]
theorem or : ∀ w d b a c, Statement (.or w d b a c) := by
  intro w d b a c x h hw; cases h; cases w with
  | true => change decScalar03 _ = _; simp [decScalar03, member]
  | false => change decScalar02 _ = _; simp [decScalar02, member]
theorem xor : ∀ w d b a c, Statement (.xor w d b a c) := by
  intro w d b a c x h hw; cases h; cases w with
  | true => change decScalar03 _ = _; simp [decScalar03, member]
  | false => change decScalar02 _ = _; simp [decScalar02, member]
theorem andn : ∀ w d b a c, Statement (.andn w d b a c) := by
  intro w d b a c x h hw; cases h; cases w with
  | true => change decScalar03 _ = _; simp [decScalar03, member]
  | false => change decScalar02 _ = _; simp [decScalar02, member]
theorem shl : ∀ w d b a c, Statement (.shl w d b a c) := by
  intro w d b a c x h hw; cases h; cases w with
  | true => change decScalar03 _ = _; simp [decScalar03, member]
  | false => change decScalar02 _ = _; simp [decScalar02, member]
theorem shr : ∀ w d b a c, Statement (.shr w d b a c) := by
  intro w d b a c x h hw; cases h; cases w with
  | true => change decScalar03 _ = _; simp [decScalar03, member]
  | false => change decScalar02 _ = _; simp [decScalar02, member]
theorem sar : ∀ w d b a c, Statement (.sar w d b a c) := by
  intro w d b a c x h hw; cases h; cases w with
  | true => change decScalar03 _ = _; simp [decScalar03, member]
  | false => change decScalar02 _ = _; simp [decScalar02, member]
theorem rot : ∀ w d b a c, Statement (.rot w d b a c) := by
  intro w d b a c x h hw; cases h; cases w with
  | true => change decScalar03 _ = _; simp [decScalar03, member]
  | false => change decScalar02 _ = _; simp [decScalar02, member]
theorem min : ∀ w d b a c, Statement (.min w d b a c) := by
  intro w d b a c x h hw; cases h; cases w with
  | true => change decScalar03 _ = _; simp [decScalar03, member]
  | false => change decScalar02 _ = _; simp [decScalar02, member]
theorem max : ∀ w d b a c, Statement (.max w d b a c) := by
  intro w d b a c x h hw; cases h; cases w with
  | true => change decScalar03 _ = _; simp [decScalar03, member]
  | false => change decScalar02 _ = _; simp [decScalar02, member]
theorem minn : ∀ w d b a c, Statement (.minn w d b a c) := by
  intro w d b a c x h hw; cases h; cases w with
  | true => change decScalar03 _ = _; simp [decScalar03, member]
  | false => change decScalar02 _ = _; simp [decScalar02, member]
theorem maxn : ∀ w d b a c, Statement (.maxn w d b a c) := by
  intro w d b a c x h hw; cases h; cases w with
  | true => change decScalar03 _ = _; simp [decScalar03, member]
  | false => change decScalar02 _ = _; simp [decScalar02, member]
theorem addi : ∀ d a v c, Statement (.addi d a v c) := by
  intro d a v c x h hw; cases h; change decScalar04 _ = _; simp [decScalar04, member]
theorem andi : ∀ d a v c, Statement (.andi d a v c) := by
  intro d a v c x h hw; cases h; change decScalar04 _ = _; simp [decScalar04, member]
theorem ori : ∀ d a v c, Statement (.ori d a v c) := by
  intro d a v c x h hw; cases h; change decScalar04 _ = _; simp [decScalar04, member]
theorem xori : ∀ d a v c, Statement (.xori d a v c) := by
  intro d a v c x h hw; cases h; change decScalar04 _ = _; simp [decScalar04, member]
theorem shli : ∀ d a v c, Statement (.shli d a v c) := by
  intro d a v c x h hw; cases h; change decScalar04 _ = _; simp [decScalar04, member]
theorem shri : ∀ d a v c, Statement (.shri d a v c) := by
  intro d a v c x h hw; cases h; change decScalar04 _ = _; simp [decScalar04, member]
theorem sari : ∀ d a v c, Statement (.sari d a v c) := by
  intro d a v c x h hw; cases h; change decScalar04 _ = _; simp [decScalar04, member]
theorem roti : ∀ d a v c, Statement (.roti d a v c) := by
  intro d a v c x h hw; cases h; change decScalar04 _ = _; simp [decScalar04, member]
theorem li : ∀ d v c, Statement (.li d v c) := by
  intro d v c x h hw; cases h; change decScalar05 _ = _; simp [decScalar05]
theorem lic : ∀ d a k v c, Statement (.lic d a k v c) := by
  intro d a k v c x h hw; cases h; change decScalar06 _ = _; simp [decScalar06, member]
theorem mul : ∀ d b a c, Statement (.mul d b a c) := by
  intro d b a c x h hw; cases h; change decScalar07 _ = _; simp [decScalar07, member]
theorem mulh : ∀ d b a c, Statement (.mulh d b a c) := by
  intro d b a c x h hw; cases h; change decScalar07 _ = _; simp [decScalar07, member]
theorem mulhn : ∀ d b a c, Statement (.mulhn d b a c) := by
  intro d b a c x h hw; cases h; change decScalar07 _ = _; simp [decScalar07, member]
theorem div : ∀ d b a c, Statement (.div d b a c) := by
  intro d b a c x h hw; cases h; change decScalar07 _ = _; simp [decScalar07, member]
theorem divn : ∀ d b a c, Statement (.divn d b a c) := by
  intro d b a c x h hw; cases h; change decScalar07 _ = _; simp [decScalar07, member]
theorem rem : ∀ d b a c, Statement (.rem d b a c) := by
  intro d b a c x h hw; cases h; change decScalar07 _ = _; simp [decScalar07, member]
theorem remn : ∀ d b a c, Statement (.remn d b a c) := by
  intro d b a c x h hw; cases h; change decScalar07 _ = _; simp [decScalar07, member]
theorem clz : ∀ d a c, Statement (.clz d a c) := by
  intro d a c x h hw; cases h; change decScalar08 _ = _; simp [decScalar08, member]
theorem ctz : ∀ d a c, Statement (.ctz d a c) := by
  intro d a c x h hw; cases h; change decScalar08 _ = _; simp [decScalar08, member]
theorem popc : ∀ d a c, Statement (.popc d a c) := by
  intro d a c x h hw; cases h; change decScalar08 _ = _; simp [decScalar08, member]
theorem brev : ∀ d a c, Statement (.brev d a c) := by
  intro d a c x h hw; cases h; change decScalar08 _ = _; simp [decScalar08, member]
theorem bswap : ∀ d a c, Statement (.bswap d a c) := by
  intro d a c x h hw; cases h; change decScalar08 _ = _; simp [decScalar08, member]
theorem bfx : ∀ d a p w c, Statement (.bfx d a p w c) := by
  intro d a p w c x h hw; cases h; change decScalar09 _ = _; simp [Instr.wf] at hw; simp [decScalar09, member, hw]
theorem bfxs : ∀ d a p w c, Statement (.bfxs d a p w c) := by
  intro d a p w c x h hw; cases h; change decScalar09 _ = _; simp [Instr.wf] at hw; simp [decScalar09, member, hw]
theorem bfi : ∀ d b a p w c, Statement (.bfi d b a p w c) := by
  intro d b a p w c x h hw; cases h; change decScalar0A _ = _; simp [Instr.wf] at hw; simp [decScalar0A, member, hw]
theorem cmp : ∀ d cc b a c, Statement (.cmp d cc b a c) := by
  intro d cc b a c x h hw; cases h; change decScalar0B _ = _; simp [decScalar0B]
theorem cmpi : ∀ d cc a v c, Statement (.cmpi d cc a v c) := by
  intro d cc a v c x h hw; cases h; change decScalar0C _ = _; simp [decScalar0C]
theorem gand : ∀ d b a c, Statement (.gand d b a c) := by
  intro d b a c x h hw; cases h; change decScalar0D _ = _; simp [decScalar0D, member]
theorem gor : ∀ d b a c, Statement (.gor d b a c) := by
  intro d b a c x h hw; cases h; change decScalar0D _ = _; simp [decScalar0D, member]
theorem gxor : ∀ d b a c, Statement (.gxor d b a c) := by
  intro d b a c x h hw; cases h; change decScalar0D _ = _; simp [decScalar0D, member]
theorem gandn : ∀ d b a c, Statement (.gandn d b a c) := by
  intro d b a c x h hw; cases h; change decScalar0D _ = _; simp [decScalar0D, member]
theorem sel : ∀ d b a g c, Statement (.sel d b a g c) := by
  intro d b a g c x h hw; cases h; change decScalar0E _ = _; simp [decScalar0E, member]
theorem gtox : ∀ d c, Statement (.gtox d c) := by
  intro d c x h hw; cases h; change decScalar0F _ = _; simp [decScalar0F, member]
theorem xtog : ∀ a c, Statement (.xtog a c) := by
  intro a c x h hw; cases h; change decScalar0F _ = _; simp [decScalar0F, member]
theorem ldl : ∀ d a z v c, Statement (.ldl d a z v c) := by
  intro d a z v c x h hw; cases h; change decScalar10 _ = _; simp [decScalar10]
theorem stl : ∀ d a z v c, Statement (.stl d a z v c) := by
  intro d a z v c x h hw; cases h; change decScalar11 _ = _; simp [decScalar11]
theorem ld : ∀ d a z v c, Statement (.ld d a z v c) := by
  intro d a z v c x h hw; cases h; change decScalar12 _ = _; simp [decScalar12]
theorem st : ∀ d a z v c, Statement (.st d a z v c) := by
  intro d a z v c x h hw; cases h; change decScalar13 _ = _; simp [decScalar13]
theorem fadd : ∀ t d b a c, Statement (.fadd t d b a c) := by
  intro t d b a c x h hw; cases h; cases t with
  | true => change decScalar15 _ = _; simp [decScalar15, member]
  | false => change decScalar14 _ = _; simp [decScalar14, member]
theorem fsub : ∀ t d b a c, Statement (.fsub t d b a c) := by
  intro t d b a c x h hw; cases h; cases t with
  | true => change decScalar15 _ = _; simp [decScalar15, member]
  | false => change decScalar14 _ = _; simp [decScalar14, member]
theorem fmul : ∀ t d b a c, Statement (.fmul t d b a c) := by
  intro t d b a c x h hw; cases h; cases t with
  | true => change decScalar15 _ = _; simp [decScalar15, member]
  | false => change decScalar14 _ = _; simp [decScalar14, member]
theorem fdiv : ∀ t d b a c, Statement (.fdiv t d b a c) := by
  intro t d b a c x h hw; cases h; cases t with
  | true => change decScalar15 _ = _; simp [decScalar15, member]
  | false => change decScalar14 _ = _; simp [decScalar14, member]
theorem fsqrt : ∀ t d a c, Statement (.fsqrt t d a c) := by
  intro t d a c x h hw; cases h; cases t with
  | true => change decScalar15 _ = _; simp [decScalar15, member]
  | false => change decScalar14 _ = _; simp [decScalar14, member]
theorem fmin : ∀ t d b a c, Statement (.fmin t d b a c) := by
  intro t d b a c x h hw; cases h; cases t with
  | true => change decScalar15 _ = _; simp [decScalar15, member]
  | false => change decScalar14 _ = _; simp [decScalar14, member]
theorem fmax : ∀ t d b a c, Statement (.fmax t d b a c) := by
  intro t d b a c x h hw; cases h; cases t with
  | true => change decScalar15 _ = _; simp [decScalar15, member]
  | false => change decScalar14 _ = _; simp [decScalar14, member]
theorem fabs : ∀ t d a c, Statement (.fabs t d a c) := by
  intro t d a c x h hw; cases h; cases t with
  | true => change decScalar15 _ = _; simp [decScalar15, member]
  | false => change decScalar14 _ = _; simp [decScalar14, member]
theorem fneg : ∀ t d a c, Statement (.fneg t d a c) := by
  intro t d a c x h hw; cases h; cases t with
  | true => change decScalar15 _ = _; simp [decScalar15, member]
  | false => change decScalar14 _ = _; simp [decScalar14, member]
theorem fclass : ∀ t d a c, Statement (.fclass t d a c) := by
  intro t d a c x h hw; cases h; cases t with
  | true => change decScalar15 _ = _; simp [decScalar15, member]
  | false => change decScalar14 _ = _; simp [decScalar14, member]
theorem fma : ∀ t d k b a c, Statement (.fma t d k b a c) := by
  intro t d k b a c x h hw; cases h; cases t with
  | true => change decScalar17 _ = _; simp [decScalar17, member]
  | false => change decScalar16 _ = _; simp [decScalar16, member]
theorem fms : ∀ t d k b a c, Statement (.fms t d k b a c) := by
  intro t d k b a c x h hw; cases h; cases t with
  | true => change decScalar17 _ = _; simp [decScalar17, member]
  | false => change decScalar16 _ = _; simp [decScalar16, member]
theorem fnma : ∀ t d k b a c, Statement (.fnma t d k b a c) := by
  intro t d k b a c x h hw; cases h; cases t with
  | true => change decScalar17 _ = _; simp [decScalar17, member]
  | false => change decScalar16 _ = _; simp [decScalar16, member]
theorem fnms : ∀ t d k b a c, Statement (.fnms t d k b a c) := by
  intro t d k b a c x h hw; cases h; cases t with
  | true => change decScalar17 _ = _; simp [decScalar17, member]
  | false => change decScalar16 _ = _; simp [decScalar16, member]
theorem fcmp : ∀ d t cc b a c, Statement (.fcmp d t cc b a c) := by
  intro d t cc b a c x h hw; cases h; cases t <;> cases cc <;> (change decScalar18 _ = _; simp [decScalar18]; rfl)
theorem fcvt : ∀ d a src dst rm sat c, Statement (.fcvt d a src dst rm sat c) := by
  intro d a src dst rm sat c x h hw; cases h; change decScalar19 _ = _; simp [decScalar19, member]
theorem br : ∀ g v c, Statement (.br g v c) := by
  intro g v c x h hw; cases h; change decScalar1A _ = _; simp [decScalar1A]
theorem jmp : ∀ v c, Statement (.jmp v c) := by
  intro v c x h hw; cases h; change decScalar1B _ = _; simp [decScalar1B]
theorem call : ∀ v c, Statement (.call v c) := by
  intro v c x h hw; cases h; change decScalar1C _ = _; simp [decScalar1C]
theorem jr : ∀ a c, Statement (.jr a c) := by
  intro a c x h hw; cases h; change decScalar1D _ = _; simp [decScalar1D, member]
theorem callr : ∀ a c, Statement (.callr a c) := by
  intro a c x h hw; cases h; change decScalar1D _ = _; simp [decScalar1D, member]
theorem loop : ∀ d v c, Statement (.loop d v c) := by
  intro d v c x h hw; cases h; change decScalar1E _ = _; simp [decScalar1E]
theorem svc : ∀ v c, Statement (.svc v c) := by
  intro v c x h hw; cases h; change decScalar1F _ = _; simp [decScalar1F]
theorem brk : ∀ v c, Statement (.brk v c) := by
  intro v c x h hw; cases h; change decScalar20 _ = _; simp [decScalar20]
theorem vadd : ∀ d b a t k c, Statement (.vadd d b a t k c) := by
  intro d b a t k c x h hw; cases h; change decVector40 _ = _; simp [decVector40, member]
theorem vsub : ∀ d b a t k c, Statement (.vsub d b a t k c) := by
  intro d b a t k c x h hw; cases h; change decVector40 _ = _; simp [decVector40, member]
theorem vmul : ∀ d b a t k c, Statement (.vmul d b a t k c) := by
  intro d b a t k c x h hw; cases h; change decVector40 _ = _; simp [decVector40, member]
theorem vmin : ∀ d b a t k c, Statement (.vmin d b a t k c) := by
  intro d b a t k c x h hw; cases h; change decVector40 _ = _; simp [decVector40, member]
theorem vmax : ∀ d b a t k c, Statement (.vmax d b a t k c) := by
  intro d b a t k c x h hw; cases h; change decVector40 _ = _; simp [decVector40, member]
theorem vabs : ∀ d a t k c, Statement (.vabs d a t k c) := by
  intro d a t k c x h hw; cases h; change decVector40 _ = _; simp [Instr.wf] at hw; simp [decVector40, member, hw]
theorem vneg : ∀ d a t k c, Statement (.vneg d a t k c) := by
  intro d a t k c x h hw; cases h; change decVector40 _ = _; simp [Instr.wf] at hw; simp [decVector40, member, hw]
theorem vadds : ∀ d b a t k c, Statement (.vadds d b a t k c) := by
  intro d b a t k c x h hw; cases h; change decVector40 _ = _; simp [Instr.wf] at hw; simp [decVector40, member, hw]
theorem vsubs : ∀ d b a t k c, Statement (.vsubs d b a t k c) := by
  intro d b a t k c x h hw; cases h; change decVector40 _ = _; simp [Instr.wf] at hw; simp [decVector40, member, hw]
theorem vfma : ∀ d y b a t k c, Statement (.vfma d y b a t k c) := by
  intro d y b a t k c x h hw; cases h; change decVector41 _ = _; simp [decVector41, member]
theorem vfms : ∀ d y b a t k c, Statement (.vfms d y b a t k c) := by
  intro d y b a t k c x h hw; cases h; change decVector41 _ = _; simp [decVector41, member]
theorem vfnma : ∀ d y b a t k c, Statement (.vfnma d y b a t k c) := by
  intro d y b a t k c x h hw; cases h; change decVector41 _ = _; simp [decVector41, member]
theorem vand : ∀ d b a t k c, Statement (.vand d b a t k c) := by
  intro d b a t k c x h hw; cases h; change decVector42 _ = _; simp [decVector42, member]
theorem vor : ∀ d b a t k c, Statement (.vor d b a t k c) := by
  intro d b a t k c x h hw; cases h; change decVector42 _ = _; simp [decVector42, member]
theorem vxor : ∀ d b a t k c, Statement (.vxor d b a t k c) := by
  intro d b a t k c x h hw; cases h; change decVector42 _ = _; simp [decVector42, member]
theorem vandn : ∀ d b a t k c, Statement (.vandn d b a t k c) := by
  intro d b a t k c x h hw; cases h; change decVector42 _ = _; simp [decVector42, member]
theorem vshl : ∀ d b a t k c, Statement (.vshl d b a t k c) := by
  intro d b a t k c x h hw; cases h; change decVector42 _ = _; simp [Instr.wf] at hw; simp [decVector42, member, hw]
theorem vshr : ∀ d b a t k c, Statement (.vshr d b a t k c) := by
  intro d b a t k c x h hw; cases h; change decVector42 _ = _; simp [Instr.wf] at hw; simp [decVector42, member, hw]
theorem vsar : ∀ d b a t k c, Statement (.vsar d b a t k c) := by
  intro d b a t k c x h hw; cases h; change decVector42 _ = _; simp [Instr.wf] at hw; simp [decVector42, member, hw]
theorem vcmp : ∀ d cc b a t k c, Statement (.vcmp d cc b a t k c) := by
  intro d cc b a t k c x h hw; cases h; change decVector43 _ = _; simp [decVector43]
theorem vsel : ∀ d b a q t k c, Statement (.vsel d b a q t k c) := by
  intro d b a q t k c x h hw; cases h; change decVector44 _ = _; simp [decVector44, member]
theorem vexp2 : ∀ d a k c, Statement (.vexp2 d a k c) := by
  intro d a k c x h hw; cases h; change decVector45 _ = _; simp [decVector45, member]
theorem vlog2 : ∀ d a k c, Statement (.vlog2 d a k c) := by
  intro d a k c x h hw; cases h; change decVector45 _ = _; simp [decVector45, member]
theorem vrcp : ∀ d a k c, Statement (.vrcp d a k c) := by
  intro d a k c x h hw; cases h; change decVector45 _ = _; simp [decVector45, member]
theorem vrsq : ∀ d a k c, Statement (.vrsq d a k c) := by
  intro d a k c x h hw; cases h; change decVector45 _ = _; simp [decVector45, member]
theorem vsqrt : ∀ d a k c, Statement (.vsqrt d a k c) := by
  intro d a k c x h hw; cases h; change decVector45 _ = _; simp [decVector45, member]
theorem vcvt : ∀ d a sp dp src dst rm sat c, Statement (.vcvt d a sp dp src dst rm sat c) := by
  intro d a sp dp src dst rm sat c x h hw; cases h; change decVector46 _ = _; simp [Instr.wf] at hw; simp [decVector46, member, hw]
theorem vredadd : ∀ d a rm t k c, Statement (.vredadd d a rm t k c) := by
  intro d a rm t k c x h hw; cases h; change decVector47 _ = _; simp [Instr.wf] at hw; simp [decVector47, member, hw]
theorem vredmin : ∀ d a t k c, Statement (.vredmin d a t k c) := by
  intro d a t k c x h hw; cases h; change decVector47 _ = _; simp [decVector47, member]
theorem vredmax : ∀ d a t k c, Statement (.vredmax d a t k c) := by
  intro d a t k c x h hw; cases h; change decVector47 _ = _; simp [decVector47, member]
theorem vscanadd : ∀ d a b rm t k c, Statement (.vscanadd d a b rm t k c) := by
  intro d a b rm t k c x h hw; cases h; change decVector48 _ = _; simp [Instr.wf] at hw; simp [decVector48, member, hw]
theorem vbcast : ∀ d t a c, Statement (.vbcast d t a c) := by
  intro d t a c x h hw; cases h; change decVector49 _ = _; simp [decVector49, member]
theorem vextr : ∀ d b a c, Statement (.vextr d b a c) := by
  intro d b a c x h hw; cases h; change decVector4A _ = _; simp [decVector4A, member]
theorem vins : ∀ d b a c, Statement (.vins d b a c) := by
  intro d b a c x h hw; cases h; change decVector4A _ = _; simp [decVector4A, member]
theorem vldl : ∀ d a t o c, Statement (.vldl d a t o c) := by
  intro d a t o c x h hw; cases h; change decVector4B _ = _; simp [decVector4B, member]
theorem vstl : ∀ d a t o c, Statement (.vstl d a t o c) := by
  intro d a t o c x h hw; cases h; change decVector4C _ = _; simp [decVector4C, member]
theorem vldls : ∀ d a b t o c, Statement (.vldls d a b t o c) := by
  intro d a b t o c x h hw; cases h; change decVector4B _ = _; simp [decVector4B, member]
theorem vstls : ∀ d a b t o c, Statement (.vstls d a b t o c) := by
  intro d a b t o c x h hw; cases h; change decVector4C _ = _; simp [decVector4C, member]
theorem vgatl : ∀ d a b t o c, Statement (.vgatl d a b t o c) := by
  intro d a b t o c x h hw; cases h; change decVector4B _ = _; simp [decVector4B, member]
theorem vscatl : ∀ d a b t o c, Statement (.vscatl d a b t o c) := by
  intro d a b t o c x h hw; cases h; change decVector4C _ = _; simp [decVector4C, member]
theorem vld : ∀ d a t o c, Statement (.vld d a t o c) := by
  intro d a t o c x h hw; cases h; change decVector4D _ = _; simp [decVector4D, member]
theorem vst : ∀ d a t o c, Statement (.vst d a t o c) := by
  intro d a t o c x h hw; cases h; change decVector4D _ = _; simp [decVector4D, member]
theorem vperm : ∀ d y b a t k c, Statement (.vperm d y b a t k c) := by
  intro d y b a t k c x h hw; cases h; change decVector4E _ = _; simp [decVector4E, member]
theorem vdot4 : ∀ d y b a k c, Statement (.vdot4 d y b a k c) := by
  intro d y b a k c x h hw; cases h; change decVector4F _ = _; simp [decVector4F, member]
theorem vdot4n : ∀ d y b a k c, Statement (.vdot4n d y b a k c) := by
  intro d y b a k c x h hw; cases h; change decVector4F _ = _; simp [decVector4F, member]
theorem visect : ∀ d y b a k c, Statement (.visect d y b a k c) := by
  intro d y b a k c x h hw; cases h; change decVector50 _ = _; simp [Instr.wf] at hw; simp [decVector50, member, hw]
theorem vcprs : ∀ d a b t k c, Statement (.vcprs d a b t k c) := by
  intro d a b t k c x h hw; cases h; change decVector51 _ = _; simp [decVector51, member]
theorem vhdrP : ∀ d a b c, Statement (.vhdrP d a b c) := by
  intro d a b c x h hw; cases h; change decVector52 _ = _; simp [decVector52, member]
theorem vhdrA : ∀ d y a b c, Statement (.vhdrA d y a b c) := by
  intro d y a b c x h hw; cases h; change decVector52 _ = _; simp [decVector52, member]
theorem vmov : ∀ d a c, Statement (.vmov d a c) := by
  intro d a c x h hw; cases h; change decVector53 _ = _; simp [decVector53, member]
theorem vfwd : ∀ d a b c, Statement (.vfwd d a b c) := by
  intro d a b c x h hw; cases h; change decVector53 _ = _; simp [decVector53, member]
theorem scfgRead : ∀ q a c, Statement (.scfgRead q a c) := by
  intro q a c x h hw; cases h; change decVector55 _ = _; simp [decVector55, member]
theorem scfgWrite : ∀ q a c, Statement (.scfgWrite q a c) := by
  intro q a c x h hw; cases h; change decVector55 _ = _; simp [decVector55, member]
theorem scfgStop : ∀ q b c, Statement (.scfgStop q b c) := by
  intro q b c x h hw; cases h; change decVector55 _ = _; simp [decVector55, member]
theorem rep : ∀ a n st c, Statement (.rep a n st c) := by
  intro a n st c x h hw; cases h; simp [Instr.wf] at hw; exact rep_fields _ a n st c (five_top st n) (five_high st n) (five_low st n) hw
theorem whopos : ∀ d c, Statement (.whopos d c) := by
  intro d c x h hw; cases h; change decParallel70 _ = _; simp [decParallel70, member]
theorem whodim : ∀ d c, Statement (.whodim d c) := by
  intro d c x h hw; cases h; change decParallel70 _ = _; simp [decParallel70, member]
theorem whocore : ∀ d c, Statement (.whocore d c) := by
  intro d c x h hw; cases h; change decParallel70 _ = _; simp [decParallel70, member]
theorem whoplot : ∀ d c, Statement (.whoplot d c) := by
  intro d c x h hw; cases h; change decParallel70 _ = _; simp [decParallel70, member]
theorem wholaunch : ∀ d c, Statement (.wholaunch d c) := by
  intro d c x h hw; cases h; change decParallel70 _ = _; simp [decParallel70, member]
theorem gang : ∀ h w c, Statement (.gang h w c) := by
  intro h w c x hx _; cases hx; exact gang_fields _ h w c (five_top h w) (five_high h w) (five_low h w)
theorem split : ∀ c, Statement (.split c) := by
  intro c x h hw; cases h; change decParallel72 _ = _; simp [decParallel72]
theorem barInit : ∀ b a c, Statement (.barInit b a c) := by
  intro b a c x h hw; cases h; change decParallel73 _ = _; simp [decParallel73, member]
theorem barArrive : ∀ a c, Statement (.barArrive a c) := by
  intro a c x h hw; cases h; change decParallel73 _ = _; simp [decParallel73, member]
theorem barWait : ∀ a c, Statement (.barWait a c) := by
  intro a c x h hw; cases h; change decParallel73 _ = _; simp [decParallel73, member]
theorem barSync : ∀ a c, Statement (.barSync a c) := by
  intro a c x h hw; cases h; change decParallel73 _ = _; simp [decParallel73, member]
theorem evtSig : ∀ b a c, Statement (.evtSig b a c) := by
  intro b a c x h hw; cases h; change decParallel74 _ = _; simp [decParallel74, member]
theorem evtWait : ∀ b a c, Statement (.evtWait b a c) := by
  intro b a c x h hw; cases h; change decParallel74 _ = _; simp [decParallel74, member]
theorem evtTest : ∀ g b a c, Statement (.evtTest g b a c) := by
  intro g b a c x h hw; cases h; change decParallel74 _ = _; simp [decParallel74, member]
theorem sstep : ∀ c, Statement (.sstep c) := by
  intro c x h hw; cases h; change decParallel75 _ = _; simp [decParallel75]
theorem stageNext : ∀ d a c, Statement (.stageNext d a c) := by
  intro d a c x h hw; cases h; change decParallel76 _ = _; simp [decParallel76, member]
theorem stageAdv : ∀ a c, Statement (.stageAdv a c) := by
  intro a c x h hw; cases h; change decParallel76 _ = _; simp [decParallel76, member]
theorem stageWaitl : ∀ a c, Statement (.stageWaitl a c) := by
  intro a c x h hw; cases h; change decParallel76 _ = _; simp [decParallel76, member]
theorem stageEnd : ∀ c, Statement (.stageEnd c) := by
  intro c x h hw; cases h; change decParallel76 _ = _; simp [decParallel76, member]
theorem yield : ∀ c, Statement (.yield c) := by
  intro c x h hw; cases h; change decParallel77 _ = _; simp [decParallel77]
theorem lda : ∀ d a z sc c, Statement (.lda d a z sc c) := by
  intro d a z sc c x h hw; cases h; change decMemory80 _ = _; simp [decMemory80, member]
theorem strl : ∀ d a z sc c, Statement (.strl d a z sc c) := by
  intro d a z sc c x h hw; cases h; change decMemory81 _ = _; simp [decMemory81, member]
theorem fence : ∀ sc k c, Statement (.fence sc k c) := by
  intro sc k c x h _; cases h; exact fence_fields _ sc k c (kind_top sc.code k) (kind_high sc.code k) (kind_low sc.code k)
theorem amo : ∀ q d b a w o sc c, Statement (.amo q d b a w o sc c) := by
  intro q d b a w o sc c x h hw; cases h; change decMemory83 _ = _; simp [decMemory83]
theorem cas : ∀ d y b a w o sc c, Statement (.cas d y b a w o sc c) := by
  intro d y b a w o sc c x h hw; cases h; change decMemory84 _ = _; simp [decMemory84, member]
theorem log : ∀ q b a t c, Statement (.log q b a t c) := by
  intro q b a t c x h hw; cases h; change decMemory85 _ = _; simp [decMemory85]
theorem monarm : ∀ a c, Statement (.monarm a c) := by
  intro a c x h hw; cases h; change decMemory86 _ = _; simp [decMemory86, member]
theorem mwait : ∀ d a c, Statement (.mwait d a c) := by
  intro d a c x h hw; cases h; change decMemory86 _ = _; simp [decMemory86, member]
theorem mdisarm : ∀ c, Statement (.mdisarm c) := by
  intro c x h hw; cases h; change decMemory86 _ = _; simp [decMemory86, member]
theorem pref : ∀ own a v c, Statement (.pref own a v c) := by
  intro own a v c x h hw; cases h; cases own <;> (change decMemory87 _ = _; simp [decMemory87, member])
theorem stashMap : ∀ r b a c, Statement (.stashMap r b a c) := by
  intro r b a c x h hw; cases h; change decMemory88 _ = _; simp [decMemory88, member]
theorem stashClean : ∀ r c, Statement (.stashClean r c) := by
  intro r c x h hw; cases h; change decMemory88 _ = _; simp [decMemory88, member]
theorem stashDrop : ∀ r c, Statement (.stashDrop r c) := by
  intro r c x h hw; cases h; change decMemory88 _ = _; simp [decMemory88, member]
theorem ringInit : ∀ h b a c, Statement (.ringInit h b a c) := by
  intro h b a c x h hw; cases h; change decMemory89 _ = _; simp [decMemory89, member]
theorem ringRsv : ∀ h a c, Statement (.ringRsv h a c) := by
  intro h a c x h hw; cases h; change decMemory89 _ = _; simp [decMemory89, member]
theorem ringWait : ∀ h a c, Statement (.ringWait h a c) := by
  intro h a c x h hw; cases h; change decMemory89 _ = _; simp [decMemory89, member]
theorem ringAdvp : ∀ h a c, Statement (.ringAdvp h a c) := by
  intro h a c x h hw; cases h; change decMemory89 _ = _; simp [decMemory89, member]
theorem ringAdvc : ∀ h a c, Statement (.ringAdvc h a c) := by
  intro h a c x h hw; cases h; change decMemory89 _ = _; simp [decMemory89, member]
theorem ringPtr : ∀ d h c, Statement (.ringPtr d h c) := by
  intro d h c x h hw; cases h; change decMemory89 _ = _; simp [decMemory89, member]
theorem winInit : ∀ w b a c, Statement (.winInit w b a c) := by
  intro w b a c x h hw; cases h; change decMemory8A _ = _; simp [decMemory8A, member]
theorem winPub : ∀ w c, Statement (.winPub w c) := by
  intro w c x h hw; cases h; change decMemory8A _ = _; simp [decMemory8A, member]
theorem winBack : ∀ d w c, Statement (.winBack d w c) := by
  intro d w c x h hw; cases h; change decMemory8A _ = _; simp [decMemory8A, member]
theorem winFront : ∀ d w c, Statement (.winFront d w c) := by
  intro d w c x h hw; cases h; change decMemory8A _ = _; simp [decMemory8A, member]
theorem ifence : ∀ sc c, Statement (.ifence sc c) := by
  intro sc c x h hw; cases h; change decMemory8B _ = _; simp [decMemory8B]
theorem cclean : ∀ b a c, Statement (.cclean b a c) := by
  intro b a c x h hw; cases h; change decMemory8C _ = _; simp [decMemory8C, member]
theorem cinv : ∀ b a c, Statement (.cinv b a c) := by
  intro b a c x h hw; cases h; change decMemory8C _ = _; simp [decMemory8C, member]
theorem bankfSet : ∀ b a c, Statement (.bankfSet b a c) := by
  intro b a c x h hw; cases h; change decMemory8D _ = _; simp [decMemory8D, member]
theorem bankfGet : ∀ d a c, Statement (.bankfGet d a c) := by
  intro d a c x h hw; cases h; change decMemory8D _ = _; simp [decMemory8D, member]
theorem lnkOpen : ∀ dir a b y z c, Statement (.lnkOpen dir a b y z c) := by
  intro dir a b y z c x h hw; cases h; change decEngineA0 _ = _; simp [decEngineA0, member]
theorem lnkClose : ∀ dir c, Statement (.lnkClose dir c) := by
  intro dir c x h hw; cases h; change decEngineA0 _ = _; simp [decEngineA0, member]
theorem lnkWait : ∀ w c, Statement (.lnkWait w c) := by
  intro w c x h hw; cases h; change decEngineA0 _ = _; simp [decEngineA0, member]
theorem lnkStat : ∀ a dir c, Statement (.lnkStat a dir c) := by
  intro a dir c x h hw; cases h; change decEngineA0 _ = _; simp [decEngineA0, member]
theorem lnkCancel : ∀ dir c, Statement (.lnkCancel dir c) := by
  intro dir c x h hw; cases h; change decEngineA0 _ = _; simp [decEngineA0, member]
theorem xcopy : ∀ k a b y dir df sf c, Statement (.xcopy k a b y dir df sf c) := by
  intro k a b y dir df sf c x h hw; cases h; change decEngineA1 _ = _; simp [decEngineA1, member]
theorem getx : ∀ k a ix y q z c, Statement (.getx k a ix y q z c) := by
  intro k a ix y q z c x h hw; cases h; have hz : z.val % 16 = z.val := by omega
  change decEngineA2 _ = _; simp [decEngineA2, member, hz]
theorem placex : ∀ k a ix y q z c, Statement (.placex k a ix y q z c) := by
  intro k a ix y q z c x h hw; cases h; have hz : z.val % 16 = z.val := by omega
  change decEngineA3 _ = _; simp [decEngineA3, member, hz]
theorem ccntWait : ∀ k a c, Statement (.ccntWait k a c) := by
  intro k a c x h hw; cases h; change decEngineA4 _ = _; simp [decEngineA4, member]
theorem ccntRd : ∀ d k c, Statement (.ccntRd d k c) := by
  intro d k c x h hw; cases h; change decEngineA4 _ = _; simp [decEngineA4, member]
theorem ccntSet : ∀ k a c, Statement (.ccntSet k a c) := by
  intro k a c x h hw; cases h; change decEngineA4 _ = _; simp [decEngineA4, member]
theorem compact : ∀ k w b y z c, Statement (.compact k w b y z c) := by
  intro k w b y z c x h hw; cases h; change decEngineA5 _ = _; simp [decEngineA5, member]
theorem keyq : ∀ a c, Statement (.keyq a c) := by
  intro a c x h hw; cases h; change decEngineA6 _ = _; simp [decEngineA6, member]
theorem keyg : ∀ a c, Statement (.keyg a c) := by
  intro a c x h hw; cases h; change decEngineA7 _ = _; simp [decEngineA7, member]
theorem chanSend : ∀ h a c, Statement (.chanSend h a c) := by
  intro h a c x h hw; cases h; change decEngineA8 _ = _; simp [decEngineA8, member]
theorem chanRecv : ∀ h a c, Statement (.chanRecv h a c) := by
  intro h a c x h hw; cases h; change decEngineA8 _ = _; simp [decEngineA8, member]
theorem slmsg : ∀ k a b y c, Statement (.slmsg k a b y c) := by
  intro k a b y c x h hw; cases h; change decEngineA9 _ = _; simp [decEngineA9, member]
theorem shLineX : ∀ d b a c, Statement (.shLineX d b a c) := by
  intro d b a c x h hw; cases h; change decSystemB0 _ = _; simp [decSystemB0, member]
theorem shLineF : ∀ n a c, Statement (.shLineF n a c) := by
  intro n a c x h hw; cases h; cases n <;> (change decSystemB0 _ = _; simp [decSystemB0, member])
theorem shPref : ∀ a c, Statement (.shPref a c) := by
  intro a c x h hw; cases h; change decSystemB0 _ = _; simp [decSystemB0, member]
theorem shReply : ∀ a c, Statement (.shReply a c) := by
  intro a c x h hw; cases h; change decSystemB0 _ = _; simp [decSystemB0, member]
theorem shFwdMem : ∀ b a c, Statement (.shFwdMem b a c) := by
  intro b a c x h hw; cases h; change decSystemB0 _ = _; simp [decSystemB0, member]
theorem shFwdAcc : ∀ b c, Statement (.shFwdAcc b c) := by
  intro b c x h hw; cases h; change decSystemB0 _ = _; simp [decSystemB0, member]
theorem shDone : ∀ c, Statement (.shDone c) := by
  intro c x h hw; cases h; change decSystemB0 _ = _; simp [decSystemB0, member]
theorem sfma : ∀ c, Statement (.sfma c) := by
  intro c x h hw; cases h; change decSystemB1 _ = _; simp [decSystemB1]
theorem eret : ∀ c, Statement (.eret c) := by
  intro c x h hw; cases h; change decSystemC0 _ = _; simp [decSystemC0]
theorem sysRd : ∀ d r c, Statement (.sysRd d r c) := by
  intro d r c x h hw; cases h; change decSystemC1 _ = _; simp [decSystemC1, member]
theorem sysWr : ∀ a r c, Statement (.sysWr a r c) := by
  intro a r c x h hw; cases h; change decSystemC1 _ = _; simp [Instr.wf] at hw; simp [decSystemC1, member, hw]
theorem tlbinvPage : ∀ a c, Statement (.tlbinvPage a c) := by
  intro a c x h hw; cases h; change decSystemC2 _ = _; simp [decSystemC2, member]
theorem tlbinvTenant : ∀ c, Statement (.tlbinvTenant c) := by
  intro c x h hw; cases h; change decSystemC2 _ = _; simp [decSystemC2, member]
theorem tlbinvAll : ∀ c, Statement (.tlbinvAll c) := by
  intro c x h hw; cases h; change decSystemC2 _ = _; simp [decSystemC2, member]
theorem ctxSave : ∀ b a c, Statement (.ctxSave b a c) := by
  intro b a c x h hw; cases h; change decSystemC3 _ = _; simp [decSystemC3, member]
theorem ctxLoad : ∀ b a c, Statement (.ctxLoad b a c) := by
  intro b a c x h hw; cases h; change decSystemC3 _ = _; simp [decSystemC3, member]
theorem wfi : ∀ c, Statement (.wfi c) := by
  intro c x h hw; cases h; change decSystemC4 _ = _; simp [decSystemC4]
theorem ldred : ∀ d a b g k p q c, Statement (.ldred d a b g k p q c) := by
  intro d a b g k p q c x h hw; cases h; change decSystemD0 _ = _
  have hm : (!(p && !q && d == 31#5)) = true := hw
  cases p <;> cases q
  · simp [decSystemD0, member]
  · simp [decSystemD0, member]
  · have hd : (d == 31#5) = false := by simpa using hm
    simp [decSystemD0, member, hd]
  · simp [decSystemD0, member]
theorem grpSet : ∀ k b a c, Statement (.grpSet k b a c) := by
  intro k b a c x h hw; cases h; change decSystemD1 _ = _; simp [decSystemD1, member]
theorem grpClr : ∀ k c, Statement (.grpClr k c) := by
  intro k c x h hw; cases h; change decSystemD1 _ = _; simp [decSystemD1, member]
theorem fp6Assist : ∀ a, Statement (.fp6Assist a) := by intros; exact nofun
theorem wordLand : ∀ a b, Statement (.wordLand a b) := by intros; exact nofun
theorem gangHoldTimeout : ∀ a, Statement (.gangHoldTimeout a) := by intros; exact nofun
theorem barrierFiringArrive : ∀ a b, Statement (.barrierFiringArrive a b) := by intros; exact nofun
theorem eventSignalApply : ∀ a, Statement (.eventSignalApply a) := by intros; exact nofun
theorem eventActivate : ∀ a b, Statement (.eventActivate a b) := by intros; exact nofun
theorem eventWake : ∀ a b, Statement (.eventWake a b) := by intros; exact nofun
theorem superstepAdvance : ∀ a, Statement (.superstepAdvance a) := by intros; exact nofun
theorem stageUpdateArrive : ∀ a, Statement (.stageUpdateArrive a) := by intros; exact nofun
theorem iterationEndArrive : ∀ a, Statement (.iterationEndArrive a) := by intros; exact nofun
theorem logCreditGrant : ∀ a b, Statement (.logCreditGrant a b) := by intros; exact nofun
theorem mwaitTimeout : ∀ a, Statement (.mwaitTimeout a) := by intros; exact nofun
theorem stashRecall : ∀ a b c d, Statement (.stashRecall a b c d) := by intros; exact nofun
theorem ringPointerLand : ∀ a b, Statement (.ringPointerLand a b) := by intros; exact nofun
theorem windowToggle : ∀ a b, Statement (.windowToggle a b) := by intros; exact nofun
theorem loadSatisfy : ∀ a b, Statement (.loadSatisfy a b) := by intros; exact nofun
theorem storeLeave : ∀ a b, Statement (.storeLeave a b) := by intros; exact nofun
theorem dieBufferDrain : ∀ a b, Statement (.dieBufferDrain a b) := by intros; exact nofun
theorem hostDeliver : Statement (.hostDeliver) := nofun
theorem atomicPerform : ∀ a b, Statement (.atomicPerform a b) := by intros; exact nofun
theorem monarmSatisfy : ∀ a b, Statement (.monarmSatisfy a b) := by intros; exact nofun
theorem engineCommandStart : ∀ a b, Statement (.engineCommandStart a b) := by intros; exact nofun
theorem engineRead : ∀ a b, Statement (.engineRead a b) := by intros; exact nofun
theorem engineProduce : ∀ a b, Statement (.engineProduce a b) := by intros; exact nofun
theorem engineApply : ∀ a b, Statement (.engineApply a b) := by intros; exact nofun
theorem engineCount : ∀ a b, Statement (.engineCount a b) := by intros; exact nofun
theorem logMerge : ∀ a, Statement (.logMerge a) := by intros; exact nofun
theorem sliceRequestArrive : ∀ a b, Statement (.sliceRequestArrive a b) := by intros; exact nofun
theorem sliceRequestBegin : ∀ a, Statement (.sliceRequestBegin a) := by intros; exact nofun
theorem sliceDataReturn : ∀ a b, Statement (.sliceDataReturn a b) := by intros; exact nofun
theorem tokenRefill : ∀ a, Statement (.tokenRefill a) := by intros; exact nofun
theorem combineReply : ∀ a b, Statement (.combineReply a b) := by intros; exact nofun
theorem waymaskDrain : ∀ a b, Statement (.waymaskDrain a b) := by intros; exact nofun
theorem pageWalkComplete : ∀ a b c, Statement (.pageWalkComplete a b c) := by intros; exact nofun
theorem patrolScrub : ∀ a b, Statement (.patrolScrub a b) := by intros; exact nofun
theorem linkOpenLand : ∀ a b, Statement (.linkOpenLand a b) := by intros; exact nofun
theorem engineStart : ∀ a b, Statement (.engineStart a b) := by intros; exact nofun
theorem linkCloseLand : ∀ a b, Statement (.linkCloseLand a b) := by intros; exact nofun
theorem directFeedPush : ∀ a b, Statement (.directFeedPush a b) := by intros; exact nofun
theorem engineStep : ∀ a b, Statement (.engineStep a b) := by intros; exact nofun
theorem tileDrainBegin : ∀ a b, Statement (.tileDrainBegin a b) := by intros; exact nofun
theorem tileElementApply : ∀ a b, Statement (.tileElementApply a b) := by intros; exact nofun
theorem deliveryCount : ∀ a b, Statement (.deliveryCount a b) := by intros; exact nofun
theorem linkWatchdog : ∀ a b, Statement (.linkWatchdog a b) := by intros; exact nofun
theorem chanElementsLand : ∀ a b, Statement (.chanElementsLand a b) := by intros; exact nofun
theorem sliceTrigger : ∀ a b c d e, Statement (.sliceTrigger a b c d e) := by intros; exact nofun
theorem sliceInvocationStart : ∀ a, Statement (.sliceInvocationStart a) := by intros; exact nofun
theorem sliceBudgetOverrun : ∀ a, Statement (.sliceBudgetOverrun a) := by intros; exact nofun
theorem ldredRequestArrive : ∀ a, Statement (.ldredRequestArrive a) := by intros; exact nofun
theorem ldredWindowExpiry : ∀ a, Statement (.ldredWindowExpiry a) := by intros; exact nofun
theorem ldredResultArrive : ∀ a, Statement (.ldredResultArrive a) := by intros; exact nofun
theorem asyncTrapTake : ∀ a, Statement (.asyncTrapTake a) := by intros; exact nofun
theorem faultRecordPost : ∀ a, Statement (.faultRecordPost a) := by intros; exact nofun
theorem lqtailWrite : ∀ a b c, Statement (.lqtailWrite a b c) := by intros; exact nofun
theorem launchQueueHead : ∀ a b, Statement (.launchQueueHead a b) := by intros; exact nofun
theorem launchReadRetry : ∀ a b, Statement (.launchReadRetry a b) := by intros; exact nofun
theorem launchDequeue : ∀ a b, Statement (.launchDequeue a b) := by intros; exact nofun
theorem schedulerPass : Statement (.schedulerPass) := nofun
theorem plotLoadComplete : ∀ a b, Statement (.plotLoadComplete a b) := by intros; exact nofun
theorem timeSliceExpiry : ∀ a b, Statement (.timeSliceExpiry a b) := by intros; exact nofun
theorem plotSaveComplete : ∀ a b, Statement (.plotSaveComplete a b) := by intros; exact nofun
theorem launchComplete : ∀ a, Statement (.launchComplete a) := by intros; exact nofun
theorem supcmdResume : ∀ a b c, Statement (.supcmdResume a b c) := by intros; exact nofun
theorem supcmdSave : ∀ a b c, Statement (.supcmdSave a b c) := by intros; exact nofun
theorem supcmdTerminate : ∀ a b, Statement (.supcmdTerminate a b) := by intros; exact nofun
theorem terminationComplete : ∀ a, Statement (.terminationComplete a) := by intros; exact nofun
theorem evsigWrite : ∀ a b c, Statement (.evsigWrite a b c) := by intros; exact nofun
theorem fqheadWrite : ∀ a b, Statement (.fqheadWrite a b) := by intros; exact nofun
theorem irqpendWrite : ∀ a b, Statement (.irqpendWrite a b) := by intros; exact nofun
theorem qbindBind : ∀ a b, Statement (.qbindBind a b) := by intros; exact nofun
theorem qbindUnbind : ∀ a, Statement (.qbindUnbind a) := by intros; exact nofun
theorem quinceKeysLoaded : ∀ a b, Statement (.quinceKeysLoaded a b) := by intros; exact nofun
theorem hstatWrite : ∀ a b, Statement (.hstatWrite a b) := by intros; exact nofun
theorem attestReport : ∀ a b, Statement (.attestReport a b) := by intros; exact nofun
theorem keyImport : ∀ a b, Statement (.keyImport a b) := by intros; exact nofun
theorem realmForm : ∀ a b, Statement (.realmForm a b) := by intros; exact nofun
theorem revocation : ∀ a b, Statement (.revocation a b) := by intros; exact nofun
theorem peerWrite : ∀ a b c, Statement (.peerWrite a b c) := by intros; exact nofun
theorem scaleoutFrame : ∀ a b c, Statement (.scaleoutFrame a b c) := by intros; exact nofun
theorem granuleOwnerWrite : ∀ a b, Statement (.granuleOwnerWrite a b) := by intros; exact nofun
theorem granuleScrubDone : ∀ a, Statement (.granuleScrubDone a) := by intros; exact nofun
theorem flr : ∀ a, Statement (.flr a) := by intros; exact nofun
theorem latusWrite : ∀ a b, Statement (.latusWrite a b) := by intros; exact nofun
theorem registerWrite : ∀ a b c, Statement (.registerWrite a b c) := by intros; exact nofun
theorem mgmtDrain : ∀ a, Statement (.mgmtDrain a) := by intros; exact nofun
theorem mgmtReinitReturn : ∀ a b, Statement (.mgmtReinitReturn a b) := by intros; exact nofun
theorem mgmtRetrainChannel : ∀ a b, Statement (.mgmtRetrainChannel a b) := by intros; exact nofun
theorem mgmtRetrainBramble : ∀ a b, Statement (.mgmtRetrainBramble a b) := by intros; exact nofun
theorem mgmtCommandComplete : Statement (.mgmtCommandComplete) := nofun
theorem brambleRetrain : ∀ a, Statement (.brambleRetrain a) := by intros; exact nofun
theorem brambleRetrainDone : ∀ a, Statement (.brambleRetrainDone a) := by intros; exact nofun
theorem brambleReroute : ∀ a, Statement (.brambleReroute a) := by intros; exact nofun
theorem coreFence : ∀ a, Statement (.coreFence a) := by intros; exact nofun
theorem firmwareSwitch : Statement (.firmwareSwitch) := nofun
theorem powerStateEnter : Statement (.powerStateEnter) := nofun
theorem powerWake : Statement (.powerWake) := nofun
theorem powerExitComplete : Statement (.powerExitComplete) := nofun
theorem powerGood : ∀ a b c d, Statement (.powerGood a b c d) := by intros; exact nofun
theorem machineInterrupt : Statement (.machineInterrupt) := nofun
theorem tenantEnWrite : ∀ a b c, Statement (.tenantEnWrite a b c) := by intros; exact nofun
theorem hostBar2Access : ∀ a b c d, Statement (.hostBar2Access a b c d) := by intros; exact nofun

end Laws.RoundTrip

end Sys2Proof
end

