-- ==== Sys2Proof/Laws/State.lean ====
section
/-! SUPPORT. Sys2Proof/Laws/State.lean: what each update of the state leaves in each field, so that no later proof unfolds a record
update. -/

namespace Sys2Proof.Machine

variable (s : State) (c : Core)


/-! ## Updates of the looked-at core -/

@[simp] theorem State.onCore_core (f : Core → Core) : (s.onCore f).core = f s.core := rfl
@[simp] theorem State.onCore_cores (f : Core → Core) : (s.onCore f).cores = s.cores := rfl
@[simp] theorem State.onCore_cycle (f : Core → Core) : (s.onCore f).cycle = s.cycle := rfl
@[simp] theorem State.onCore_mem (f : Core → Core) : (s.onCore f).mem = s.mem := rfl
@[simp] theorem State.onCore_host (f : Core → Core) : (s.onCore f).host = s.host := rfl
@[simp] theorem State.onCore_ob (f : Core → Core) : (s.onCore f).ob = s.ob := rfl
@[simp] theorem State.onCore_dies (f : Core → Core) : (s.onCore f).dies = s.dies := rfl
@[simp] theorem State.onCore_poison (f : Core → Core) : (s.onCore f).poison = s.poison := rfl
@[simp] theorem State.onCore_deadGranules (f : Core → Core) : (s.onCore f).deadGranules = s.deadGranules := rfl
@[simp] theorem State.onCore_owners (f : Core → Core) : (s.onCore f).owners = s.owners := rfl
@[simp] theorem State.onCore_scrubbing (f : Core → Core) : (s.onCore f).scrubbing = s.scrubbing := rfl
@[simp] theorem State.onCore_keys (f : Core → Core) : (s.onCore f).keys = s.keys := rfl
@[simp] theorem State.onCore_keyPairs (f : Core → Core) : (s.onCore f).keyPairs = s.keyPairs := rfl
@[simp] theorem State.onCore_tenants (f : Core → Core) : (s.onCore f).tenants = s.tenants := rfl
@[simp] theorem State.onCore_launches (f : Core → Core) : (s.onCore f).launches = s.launches := rfl
@[simp] theorem State.onCore_launchNo (f : Core → Core) : (s.onCore f).launchNo = s.launchNo := rfl
@[simp] theorem State.onCore_quince (f : Core → Core) : (s.onCore f).quince = s.quince := rfl
@[simp] theorem State.onCore_engines (f : Core → Core) : (s.onCore f).engines = s.engines := rfl
@[simp] theorem State.onCore_reqs (f : Core → Core) : (s.onCore f).reqs = s.reqs := rfl
@[simp] theorem State.onCore_reqNo (f : Core → Core) : (s.onCore f).reqNo = s.reqNo := rfl
@[simp] theorem State.onCore_slices (f : Core → Core) : (s.onCore f).slices = s.slices := rfl
@[simp] theorem State.onCore_groups (f : Core → Core) : (s.onCore f).groups = s.groups := rfl
@[simp] theorem State.onCore_redWins (f : Core → Core) : (s.onCore f).redWins = s.redWins := rfl
@[simp] theorem State.onCore_msgs (f : Core → Core) : (s.onCore f).msgs = s.msgs := rfl
@[simp] theorem State.onCore_brambles (f : Core → Core) : (s.onCore f).brambles = s.brambles := rfl
@[simp] theorem State.onCore_active (f : Core → Core) : (s.onCore f).active = s.active := rfl
@[simp] theorem State.onCore_mgmt (f : Core → Core) : (s.onCore f).mgmt = s.mgmt := rfl
@[simp] theorem State.onCore_agenda (f : Core → Core) : (s.onCore f).agenda = s.agenda := rfl
@[simp] theorem State.onCore_plan (f : Core → Core) : (s.onCore f).plan = s.plan := rfl
@[simp] theorem State.onCore_stale (f : Core → Core) : (s.onCore f).stale = s.stale := rfl
@[simp] theorem State.onCore_background (f : Core → Core) : (s.onCore f).background = s.background := rfl
@[simp] theorem State.onCore_rot (f : Core → Core) : (s.onCore f).rot = s.rot := rfl
@[simp] theorem State.onCore_mlog (f : Core → Core) : (s.onCore f).mlog = s.mlog := rfl
@[simp] theorem State.onCore_hostReads (f : Core → Core) : (s.onCore f).hostReads = s.hostReads := rfl
@[simp] theorem State.onCore_hostWrites (f : Core → Core) : (s.onCore f).hostWrites = s.hostWrites := rfl
@[simp] theorem State.onCore_hostData (f : Core → Core) : (s.onCore f).hostData = s.hostData := rfl
@[simp] theorem State.onCore_sealed (f : Core → Core) : (s.onCore f).sealed = s.sealed := rfl
@[simp] theorem State.onCore_locks (f : Core → Core) : (s.onCore f).locks = s.locks := rfl
@[simp] theorem State.onCore_softLines (f : Core → Core) : (s.onCore f).softLines = s.softLines := rfl
@[simp] theorem State.onCore_badLines (f : Core → Core) : (s.onCore f).badLines = s.badLines := rfl
@[simp] theorem State.onCore_errs (f : Core → Core) : (s.onCore f).errs = s.errs := rfl
@[simp] theorem State.setX_core (r : XReg) (v : W64) : (s.setX r v).core = s.core.setX r v := rfl
@[simp] theorem State.setX_cores (r : XReg) (v : W64) : (s.setX r v).cores = s.cores := rfl
@[simp] theorem State.setX_cycle (r : XReg) (v : W64) : (s.setX r v).cycle = s.cycle := rfl
@[simp] theorem State.setX_mem (r : XReg) (v : W64) : (s.setX r v).mem = s.mem := rfl
@[simp] theorem State.setX_host (r : XReg) (v : W64) : (s.setX r v).host = s.host := rfl
@[simp] theorem State.setX_ob (r : XReg) (v : W64) : (s.setX r v).ob = s.ob := rfl
@[simp] theorem State.setX_dies (r : XReg) (v : W64) : (s.setX r v).dies = s.dies := rfl
@[simp] theorem State.setX_poison (r : XReg) (v : W64) : (s.setX r v).poison = s.poison := rfl
@[simp] theorem State.setX_deadGranules (r : XReg) (v : W64) : (s.setX r v).deadGranules = s.deadGranules := rfl
@[simp] theorem State.setX_owners (r : XReg) (v : W64) : (s.setX r v).owners = s.owners := rfl
@[simp] theorem State.setX_scrubbing (r : XReg) (v : W64) : (s.setX r v).scrubbing = s.scrubbing := rfl
@[simp] theorem State.setX_keys (r : XReg) (v : W64) : (s.setX r v).keys = s.keys := rfl
@[simp] theorem State.setX_keyPairs (r : XReg) (v : W64) : (s.setX r v).keyPairs = s.keyPairs := rfl
@[simp] theorem State.setX_tenants (r : XReg) (v : W64) : (s.setX r v).tenants = s.tenants := rfl
@[simp] theorem State.setX_launches (r : XReg) (v : W64) : (s.setX r v).launches = s.launches := rfl
@[simp] theorem State.setX_launchNo (r : XReg) (v : W64) : (s.setX r v).launchNo = s.launchNo := rfl
@[simp] theorem State.setX_quince (r : XReg) (v : W64) : (s.setX r v).quince = s.quince := rfl
@[simp] theorem State.setX_engines (r : XReg) (v : W64) : (s.setX r v).engines = s.engines := rfl
@[simp] theorem State.setX_reqs (r : XReg) (v : W64) : (s.setX r v).reqs = s.reqs := rfl
@[simp] theorem State.setX_reqNo (r : XReg) (v : W64) : (s.setX r v).reqNo = s.reqNo := rfl
@[simp] theorem State.setX_slices (r : XReg) (v : W64) : (s.setX r v).slices = s.slices := rfl
@[simp] theorem State.setX_groups (r : XReg) (v : W64) : (s.setX r v).groups = s.groups := rfl
@[simp] theorem State.setX_redWins (r : XReg) (v : W64) : (s.setX r v).redWins = s.redWins := rfl
@[simp] theorem State.setX_msgs (r : XReg) (v : W64) : (s.setX r v).msgs = s.msgs := rfl
@[simp] theorem State.setX_brambles (r : XReg) (v : W64) : (s.setX r v).brambles = s.brambles := rfl
@[simp] theorem State.setX_active (r : XReg) (v : W64) : (s.setX r v).active = s.active := rfl
@[simp] theorem State.setX_mgmt (r : XReg) (v : W64) : (s.setX r v).mgmt = s.mgmt := rfl
@[simp] theorem State.setX_agenda (r : XReg) (v : W64) : (s.setX r v).agenda = s.agenda := rfl
@[simp] theorem State.setX_plan (r : XReg) (v : W64) : (s.setX r v).plan = s.plan := rfl
@[simp] theorem State.setX_stale (r : XReg) (v : W64) : (s.setX r v).stale = s.stale := rfl
@[simp] theorem State.setX_background (r : XReg) (v : W64) : (s.setX r v).background = s.background := rfl
@[simp] theorem State.setX_rot (r : XReg) (v : W64) : (s.setX r v).rot = s.rot := rfl
@[simp] theorem State.setX_mlog (r : XReg) (v : W64) : (s.setX r v).mlog = s.mlog := rfl
@[simp] theorem State.setX_hostReads (r : XReg) (v : W64) : (s.setX r v).hostReads = s.hostReads := rfl
@[simp] theorem State.setX_hostWrites (r : XReg) (v : W64) : (s.setX r v).hostWrites = s.hostWrites := rfl
@[simp] theorem State.setX_hostData (r : XReg) (v : W64) : (s.setX r v).hostData = s.hostData := rfl
@[simp] theorem State.setX_sealed (r : XReg) (v : W64) : (s.setX r v).sealed = s.sealed := rfl
@[simp] theorem State.setX_locks (r : XReg) (v : W64) : (s.setX r v).locks = s.locks := rfl
@[simp] theorem State.setX_softLines (r : XReg) (v : W64) : (s.setX r v).softLines = s.softLines := rfl
@[simp] theorem State.setX_badLines (r : XReg) (v : W64) : (s.setX r v).badLines = s.badLines := rfl
@[simp] theorem State.setX_errs (r : XReg) (v : W64) : (s.setX r v).errs = s.errs := rfl
@[simp] theorem State.setG_core (r : GReg) (b : Bool) : (s.setG r b).core = s.core.setG r b := rfl
@[simp] theorem State.setG_cores (r : GReg) (b : Bool) : (s.setG r b).cores = s.cores := rfl
@[simp] theorem State.setG_cycle (r : GReg) (b : Bool) : (s.setG r b).cycle = s.cycle := rfl
@[simp] theorem State.setG_mem (r : GReg) (b : Bool) : (s.setG r b).mem = s.mem := rfl
@[simp] theorem State.setG_host (r : GReg) (b : Bool) : (s.setG r b).host = s.host := rfl
@[simp] theorem State.setG_ob (r : GReg) (b : Bool) : (s.setG r b).ob = s.ob := rfl
@[simp] theorem State.setG_dies (r : GReg) (b : Bool) : (s.setG r b).dies = s.dies := rfl
@[simp] theorem State.setG_poison (r : GReg) (b : Bool) : (s.setG r b).poison = s.poison := rfl
@[simp] theorem State.setG_deadGranules (r : GReg) (b : Bool) : (s.setG r b).deadGranules = s.deadGranules := rfl
@[simp] theorem State.setG_owners (r : GReg) (b : Bool) : (s.setG r b).owners = s.owners := rfl
@[simp] theorem State.setG_scrubbing (r : GReg) (b : Bool) : (s.setG r b).scrubbing = s.scrubbing := rfl
@[simp] theorem State.setG_keys (r : GReg) (b : Bool) : (s.setG r b).keys = s.keys := rfl
@[simp] theorem State.setG_keyPairs (r : GReg) (b : Bool) : (s.setG r b).keyPairs = s.keyPairs := rfl
@[simp] theorem State.setG_tenants (r : GReg) (b : Bool) : (s.setG r b).tenants = s.tenants := rfl
@[simp] theorem State.setG_launches (r : GReg) (b : Bool) : (s.setG r b).launches = s.launches := rfl
@[simp] theorem State.setG_launchNo (r : GReg) (b : Bool) : (s.setG r b).launchNo = s.launchNo := rfl
@[simp] theorem State.setG_quince (r : GReg) (b : Bool) : (s.setG r b).quince = s.quince := rfl
@[simp] theorem State.setG_engines (r : GReg) (b : Bool) : (s.setG r b).engines = s.engines := rfl
@[simp] theorem State.setG_reqs (r : GReg) (b : Bool) : (s.setG r b).reqs = s.reqs := rfl
@[simp] theorem State.setG_reqNo (r : GReg) (b : Bool) : (s.setG r b).reqNo = s.reqNo := rfl
@[simp] theorem State.setG_slices (r : GReg) (b : Bool) : (s.setG r b).slices = s.slices := rfl
@[simp] theorem State.setG_groups (r : GReg) (b : Bool) : (s.setG r b).groups = s.groups := rfl
@[simp] theorem State.setG_redWins (r : GReg) (b : Bool) : (s.setG r b).redWins = s.redWins := rfl
@[simp] theorem State.setG_msgs (r : GReg) (b : Bool) : (s.setG r b).msgs = s.msgs := rfl
@[simp] theorem State.setG_brambles (r : GReg) (b : Bool) : (s.setG r b).brambles = s.brambles := rfl
@[simp] theorem State.setG_active (r : GReg) (b : Bool) : (s.setG r b).active = s.active := rfl
@[simp] theorem State.setG_mgmt (r : GReg) (b : Bool) : (s.setG r b).mgmt = s.mgmt := rfl
@[simp] theorem State.setG_agenda (r : GReg) (b : Bool) : (s.setG r b).agenda = s.agenda := rfl
@[simp] theorem State.setG_plan (r : GReg) (b : Bool) : (s.setG r b).plan = s.plan := rfl
@[simp] theorem State.setG_stale (r : GReg) (b : Bool) : (s.setG r b).stale = s.stale := rfl
@[simp] theorem State.setG_background (r : GReg) (b : Bool) : (s.setG r b).background = s.background := rfl
@[simp] theorem State.setG_rot (r : GReg) (b : Bool) : (s.setG r b).rot = s.rot := rfl
@[simp] theorem State.setG_mlog (r : GReg) (b : Bool) : (s.setG r b).mlog = s.mlog := rfl
@[simp] theorem State.setG_hostReads (r : GReg) (b : Bool) : (s.setG r b).hostReads = s.hostReads := rfl
@[simp] theorem State.setG_hostWrites (r : GReg) (b : Bool) : (s.setG r b).hostWrites = s.hostWrites := rfl
@[simp] theorem State.setG_hostData (r : GReg) (b : Bool) : (s.setG r b).hostData = s.hostData := rfl
@[simp] theorem State.setG_sealed (r : GReg) (b : Bool) : (s.setG r b).sealed = s.sealed := rfl
@[simp] theorem State.setG_locks (r : GReg) (b : Bool) : (s.setG r b).locks = s.locks := rfl
@[simp] theorem State.setG_softLines (r : GReg) (b : Bool) : (s.setG r b).softLines = s.softLines := rfl
@[simp] theorem State.setG_badLines (r : GReg) (b : Bool) : (s.setG r b).badLines = s.badLines := rfl
@[simp] theorem State.setG_errs (r : GReg) (b : Bool) : (s.setG r b).errs = s.errs := rfl
@[simp] theorem State.setV_core (r : BitVec 5) (w : V512) : (s.setV r w).core = s.core.setV r w := rfl
@[simp] theorem State.setV_cores (r : BitVec 5) (w : V512) : (s.setV r w).cores = s.cores := rfl
@[simp] theorem State.setV_cycle (r : BitVec 5) (w : V512) : (s.setV r w).cycle = s.cycle := rfl
@[simp] theorem State.setV_mem (r : BitVec 5) (w : V512) : (s.setV r w).mem = s.mem := rfl
@[simp] theorem State.setV_host (r : BitVec 5) (w : V512) : (s.setV r w).host = s.host := rfl
@[simp] theorem State.setV_ob (r : BitVec 5) (w : V512) : (s.setV r w).ob = s.ob := rfl
@[simp] theorem State.setV_dies (r : BitVec 5) (w : V512) : (s.setV r w).dies = s.dies := rfl
@[simp] theorem State.setV_poison (r : BitVec 5) (w : V512) : (s.setV r w).poison = s.poison := rfl
@[simp] theorem State.setV_deadGranules (r : BitVec 5) (w : V512) : (s.setV r w).deadGranules = s.deadGranules := rfl
@[simp] theorem State.setV_owners (r : BitVec 5) (w : V512) : (s.setV r w).owners = s.owners := rfl
@[simp] theorem State.setV_scrubbing (r : BitVec 5) (w : V512) : (s.setV r w).scrubbing = s.scrubbing := rfl
@[simp] theorem State.setV_keys (r : BitVec 5) (w : V512) : (s.setV r w).keys = s.keys := rfl
@[simp] theorem State.setV_keyPairs (r : BitVec 5) (w : V512) : (s.setV r w).keyPairs = s.keyPairs := rfl
@[simp] theorem State.setV_tenants (r : BitVec 5) (w : V512) : (s.setV r w).tenants = s.tenants := rfl
@[simp] theorem State.setV_launches (r : BitVec 5) (w : V512) : (s.setV r w).launches = s.launches := rfl
@[simp] theorem State.setV_launchNo (r : BitVec 5) (w : V512) : (s.setV r w).launchNo = s.launchNo := rfl
@[simp] theorem State.setV_quince (r : BitVec 5) (w : V512) : (s.setV r w).quince = s.quince := rfl
@[simp] theorem State.setV_engines (r : BitVec 5) (w : V512) : (s.setV r w).engines = s.engines := rfl
@[simp] theorem State.setV_reqs (r : BitVec 5) (w : V512) : (s.setV r w).reqs = s.reqs := rfl
@[simp] theorem State.setV_reqNo (r : BitVec 5) (w : V512) : (s.setV r w).reqNo = s.reqNo := rfl
@[simp] theorem State.setV_slices (r : BitVec 5) (w : V512) : (s.setV r w).slices = s.slices := rfl
@[simp] theorem State.setV_groups (r : BitVec 5) (w : V512) : (s.setV r w).groups = s.groups := rfl
@[simp] theorem State.setV_redWins (r : BitVec 5) (w : V512) : (s.setV r w).redWins = s.redWins := rfl
@[simp] theorem State.setV_msgs (r : BitVec 5) (w : V512) : (s.setV r w).msgs = s.msgs := rfl
@[simp] theorem State.setV_brambles (r : BitVec 5) (w : V512) : (s.setV r w).brambles = s.brambles := rfl
@[simp] theorem State.setV_active (r : BitVec 5) (w : V512) : (s.setV r w).active = s.active := rfl
@[simp] theorem State.setV_mgmt (r : BitVec 5) (w : V512) : (s.setV r w).mgmt = s.mgmt := rfl
@[simp] theorem State.setV_agenda (r : BitVec 5) (w : V512) : (s.setV r w).agenda = s.agenda := rfl
@[simp] theorem State.setV_plan (r : BitVec 5) (w : V512) : (s.setV r w).plan = s.plan := rfl
@[simp] theorem State.setV_stale (r : BitVec 5) (w : V512) : (s.setV r w).stale = s.stale := rfl
@[simp] theorem State.setV_background (r : BitVec 5) (w : V512) : (s.setV r w).background = s.background := rfl
@[simp] theorem State.setV_rot (r : BitVec 5) (w : V512) : (s.setV r w).rot = s.rot := rfl
@[simp] theorem State.setV_mlog (r : BitVec 5) (w : V512) : (s.setV r w).mlog = s.mlog := rfl
@[simp] theorem State.setV_hostReads (r : BitVec 5) (w : V512) : (s.setV r w).hostReads = s.hostReads := rfl
@[simp] theorem State.setV_hostWrites (r : BitVec 5) (w : V512) : (s.setV r w).hostWrites = s.hostWrites := rfl
@[simp] theorem State.setV_hostData (r : BitVec 5) (w : V512) : (s.setV r w).hostData = s.hostData := rfl
@[simp] theorem State.setV_sealed (r : BitVec 5) (w : V512) : (s.setV r w).sealed = s.sealed := rfl
@[simp] theorem State.setV_locks (r : BitVec 5) (w : V512) : (s.setV r w).locks = s.locks := rfl
@[simp] theorem State.setV_softLines (r : BitVec 5) (w : V512) : (s.setV r w).softLines = s.softLines := rfl
@[simp] theorem State.setV_badLines (r : BitVec 5) (w : V512) : (s.setV r w).badLines = s.badLines := rfl
@[simp] theorem State.setV_errs (r : BitVec 5) (w : V512) : (s.setV r w).errs = s.errs := rfl
@[simp] theorem State.setM_core (r : BitVec 3) (w : W64) : (s.setM r w).core = s.core.setM r w := rfl
@[simp] theorem State.setM_cores (r : BitVec 3) (w : W64) : (s.setM r w).cores = s.cores := rfl
@[simp] theorem State.setM_cycle (r : BitVec 3) (w : W64) : (s.setM r w).cycle = s.cycle := rfl
@[simp] theorem State.setM_mem (r : BitVec 3) (w : W64) : (s.setM r w).mem = s.mem := rfl
@[simp] theorem State.setM_host (r : BitVec 3) (w : W64) : (s.setM r w).host = s.host := rfl
@[simp] theorem State.setM_ob (r : BitVec 3) (w : W64) : (s.setM r w).ob = s.ob := rfl
@[simp] theorem State.setM_dies (r : BitVec 3) (w : W64) : (s.setM r w).dies = s.dies := rfl
@[simp] theorem State.setM_poison (r : BitVec 3) (w : W64) : (s.setM r w).poison = s.poison := rfl
@[simp] theorem State.setM_deadGranules (r : BitVec 3) (w : W64) : (s.setM r w).deadGranules = s.deadGranules := rfl
@[simp] theorem State.setM_owners (r : BitVec 3) (w : W64) : (s.setM r w).owners = s.owners := rfl
@[simp] theorem State.setM_scrubbing (r : BitVec 3) (w : W64) : (s.setM r w).scrubbing = s.scrubbing := rfl
@[simp] theorem State.setM_keys (r : BitVec 3) (w : W64) : (s.setM r w).keys = s.keys := rfl
@[simp] theorem State.setM_keyPairs (r : BitVec 3) (w : W64) : (s.setM r w).keyPairs = s.keyPairs := rfl
@[simp] theorem State.setM_tenants (r : BitVec 3) (w : W64) : (s.setM r w).tenants = s.tenants := rfl
@[simp] theorem State.setM_launches (r : BitVec 3) (w : W64) : (s.setM r w).launches = s.launches := rfl
@[simp] theorem State.setM_launchNo (r : BitVec 3) (w : W64) : (s.setM r w).launchNo = s.launchNo := rfl
@[simp] theorem State.setM_quince (r : BitVec 3) (w : W64) : (s.setM r w).quince = s.quince := rfl
@[simp] theorem State.setM_engines (r : BitVec 3) (w : W64) : (s.setM r w).engines = s.engines := rfl
@[simp] theorem State.setM_reqs (r : BitVec 3) (w : W64) : (s.setM r w).reqs = s.reqs := rfl
@[simp] theorem State.setM_reqNo (r : BitVec 3) (w : W64) : (s.setM r w).reqNo = s.reqNo := rfl
@[simp] theorem State.setM_slices (r : BitVec 3) (w : W64) : (s.setM r w).slices = s.slices := rfl
@[simp] theorem State.setM_groups (r : BitVec 3) (w : W64) : (s.setM r w).groups = s.groups := rfl
@[simp] theorem State.setM_redWins (r : BitVec 3) (w : W64) : (s.setM r w).redWins = s.redWins := rfl
@[simp] theorem State.setM_msgs (r : BitVec 3) (w : W64) : (s.setM r w).msgs = s.msgs := rfl
@[simp] theorem State.setM_brambles (r : BitVec 3) (w : W64) : (s.setM r w).brambles = s.brambles := rfl
@[simp] theorem State.setM_active (r : BitVec 3) (w : W64) : (s.setM r w).active = s.active := rfl
@[simp] theorem State.setM_mgmt (r : BitVec 3) (w : W64) : (s.setM r w).mgmt = s.mgmt := rfl
@[simp] theorem State.setM_agenda (r : BitVec 3) (w : W64) : (s.setM r w).agenda = s.agenda := rfl
@[simp] theorem State.setM_plan (r : BitVec 3) (w : W64) : (s.setM r w).plan = s.plan := rfl
@[simp] theorem State.setM_stale (r : BitVec 3) (w : W64) : (s.setM r w).stale = s.stale := rfl
@[simp] theorem State.setM_background (r : BitVec 3) (w : W64) : (s.setM r w).background = s.background := rfl
@[simp] theorem State.setM_rot (r : BitVec 3) (w : W64) : (s.setM r w).rot = s.rot := rfl
@[simp] theorem State.setM_mlog (r : BitVec 3) (w : W64) : (s.setM r w).mlog = s.mlog := rfl
@[simp] theorem State.setM_hostReads (r : BitVec 3) (w : W64) : (s.setM r w).hostReads = s.hostReads := rfl
@[simp] theorem State.setM_hostWrites (r : BitVec 3) (w : W64) : (s.setM r w).hostWrites = s.hostWrites := rfl
@[simp] theorem State.setM_hostData (r : BitVec 3) (w : W64) : (s.setM r w).hostData = s.hostData := rfl
@[simp] theorem State.setM_sealed (r : BitVec 3) (w : W64) : (s.setM r w).sealed = s.sealed := rfl
@[simp] theorem State.setM_locks (r : BitVec 3) (w : W64) : (s.setM r w).locks = s.locks := rfl
@[simp] theorem State.setM_softLines (r : BitVec 3) (w : W64) : (s.setM r w).softLines = s.softLines := rfl
@[simp] theorem State.setM_badLines (r : BitVec 3) (w : W64) : (s.setM r w).badLines = s.badLines := rfl
@[simp] theorem State.setM_errs (r : BitVec 3) (w : W64) : (s.setM r w).errs = s.errs := rfl
@[simp] theorem State.advance_core  : (s.advance).core = s.core.advance := rfl
@[simp] theorem State.advance_cores  : (s.advance).cores = s.cores := rfl
@[simp] theorem State.advance_cycle  : (s.advance).cycle = s.cycle := rfl
@[simp] theorem State.advance_mem  : (s.advance).mem = s.mem := rfl
@[simp] theorem State.advance_host  : (s.advance).host = s.host := rfl
@[simp] theorem State.advance_ob  : (s.advance).ob = s.ob := rfl
@[simp] theorem State.advance_dies  : (s.advance).dies = s.dies := rfl
@[simp] theorem State.advance_poison  : (s.advance).poison = s.poison := rfl
@[simp] theorem State.advance_deadGranules  : (s.advance).deadGranules = s.deadGranules := rfl
@[simp] theorem State.advance_owners  : (s.advance).owners = s.owners := rfl
@[simp] theorem State.advance_scrubbing  : (s.advance).scrubbing = s.scrubbing := rfl
@[simp] theorem State.advance_keys  : (s.advance).keys = s.keys := rfl
@[simp] theorem State.advance_keyPairs  : (s.advance).keyPairs = s.keyPairs := rfl
@[simp] theorem State.advance_tenants  : (s.advance).tenants = s.tenants := rfl
@[simp] theorem State.advance_launches  : (s.advance).launches = s.launches := rfl
@[simp] theorem State.advance_launchNo  : (s.advance).launchNo = s.launchNo := rfl
@[simp] theorem State.advance_quince  : (s.advance).quince = s.quince := rfl
@[simp] theorem State.advance_engines  : (s.advance).engines = s.engines := rfl
@[simp] theorem State.advance_reqs  : (s.advance).reqs = s.reqs := rfl
@[simp] theorem State.advance_reqNo  : (s.advance).reqNo = s.reqNo := rfl
@[simp] theorem State.advance_slices  : (s.advance).slices = s.slices := rfl
@[simp] theorem State.advance_groups  : (s.advance).groups = s.groups := rfl
@[simp] theorem State.advance_redWins  : (s.advance).redWins = s.redWins := rfl
@[simp] theorem State.advance_msgs  : (s.advance).msgs = s.msgs := rfl
@[simp] theorem State.advance_brambles  : (s.advance).brambles = s.brambles := rfl
@[simp] theorem State.advance_active  : (s.advance).active = s.active := rfl
@[simp] theorem State.advance_mgmt  : (s.advance).mgmt = s.mgmt := rfl
@[simp] theorem State.advance_agenda  : (s.advance).agenda = s.agenda := rfl
@[simp] theorem State.advance_plan  : (s.advance).plan = s.plan := rfl
@[simp] theorem State.advance_stale  : (s.advance).stale = s.stale := rfl
@[simp] theorem State.advance_background  : (s.advance).background = s.background := rfl
@[simp] theorem State.advance_rot  : (s.advance).rot = s.rot := rfl
@[simp] theorem State.advance_mlog  : (s.advance).mlog = s.mlog := rfl
@[simp] theorem State.advance_hostReads  : (s.advance).hostReads = s.hostReads := rfl
@[simp] theorem State.advance_hostWrites  : (s.advance).hostWrites = s.hostWrites := rfl
@[simp] theorem State.advance_hostData  : (s.advance).hostData = s.hostData := rfl
@[simp] theorem State.advance_sealed  : (s.advance).sealed = s.sealed := rfl
@[simp] theorem State.advance_locks  : (s.advance).locks = s.locks := rfl
@[simp] theorem State.advance_softLines  : (s.advance).softLines = s.softLines := rfl
@[simp] theorem State.advance_badLines  : (s.advance).badLines = s.badLines := rfl
@[simp] theorem State.advance_errs  : (s.advance).errs = s.errs := rfl

/-! ## Updates of one table -/

@[simp] theorem State.modTenant_core (t : Nat) (f : Tenant → Tenant) : (s.modTenant t f).core = s.core := rfl
@[simp] theorem State.modTenant_cores (t : Nat) (f : Tenant → Tenant) : (s.modTenant t f).cores = s.cores := rfl
@[simp] theorem State.modTenant_cycle (t : Nat) (f : Tenant → Tenant) : (s.modTenant t f).cycle = s.cycle := rfl
@[simp] theorem State.modTenant_mem (t : Nat) (f : Tenant → Tenant) : (s.modTenant t f).mem = s.mem := rfl
@[simp] theorem State.modTenant_host (t : Nat) (f : Tenant → Tenant) : (s.modTenant t f).host = s.host := rfl
@[simp] theorem State.modTenant_ob (t : Nat) (f : Tenant → Tenant) : (s.modTenant t f).ob = s.ob := rfl
@[simp] theorem State.modTenant_dies (t : Nat) (f : Tenant → Tenant) : (s.modTenant t f).dies = s.dies := rfl
@[simp] theorem State.modTenant_poison (t : Nat) (f : Tenant → Tenant) : (s.modTenant t f).poison = s.poison := rfl
@[simp] theorem State.modTenant_deadGranules (t : Nat) (f : Tenant → Tenant) : (s.modTenant t f).deadGranules = s.deadGranules := rfl
@[simp] theorem State.modTenant_owners (t : Nat) (f : Tenant → Tenant) : (s.modTenant t f).owners = s.owners := rfl
@[simp] theorem State.modTenant_scrubbing (t : Nat) (f : Tenant → Tenant) : (s.modTenant t f).scrubbing = s.scrubbing := rfl
@[simp] theorem State.modTenant_keys (t : Nat) (f : Tenant → Tenant) : (s.modTenant t f).keys = s.keys := rfl
@[simp] theorem State.modTenant_keyPairs (t : Nat) (f : Tenant → Tenant) : (s.modTenant t f).keyPairs = s.keyPairs := rfl
@[simp] theorem State.modTenant_launches (t : Nat) (f : Tenant → Tenant) : (s.modTenant t f).launches = s.launches := rfl
@[simp] theorem State.modTenant_launchNo (t : Nat) (f : Tenant → Tenant) : (s.modTenant t f).launchNo = s.launchNo := rfl
@[simp] theorem State.modTenant_quince (t : Nat) (f : Tenant → Tenant) : (s.modTenant t f).quince = s.quince := rfl
@[simp] theorem State.modTenant_engines (t : Nat) (f : Tenant → Tenant) : (s.modTenant t f).engines = s.engines := rfl
@[simp] theorem State.modTenant_reqs (t : Nat) (f : Tenant → Tenant) : (s.modTenant t f).reqs = s.reqs := rfl
@[simp] theorem State.modTenant_reqNo (t : Nat) (f : Tenant → Tenant) : (s.modTenant t f).reqNo = s.reqNo := rfl
@[simp] theorem State.modTenant_slices (t : Nat) (f : Tenant → Tenant) : (s.modTenant t f).slices = s.slices := rfl
@[simp] theorem State.modTenant_groups (t : Nat) (f : Tenant → Tenant) : (s.modTenant t f).groups = s.groups := rfl
@[simp] theorem State.modTenant_redWins (t : Nat) (f : Tenant → Tenant) : (s.modTenant t f).redWins = s.redWins := rfl
@[simp] theorem State.modTenant_msgs (t : Nat) (f : Tenant → Tenant) : (s.modTenant t f).msgs = s.msgs := rfl
@[simp] theorem State.modTenant_brambles (t : Nat) (f : Tenant → Tenant) : (s.modTenant t f).brambles = s.brambles := rfl
@[simp] theorem State.modTenant_active (t : Nat) (f : Tenant → Tenant) : (s.modTenant t f).active = s.active := rfl
@[simp] theorem State.modTenant_mgmt (t : Nat) (f : Tenant → Tenant) : (s.modTenant t f).mgmt = s.mgmt := rfl
@[simp] theorem State.modTenant_agenda (t : Nat) (f : Tenant → Tenant) : (s.modTenant t f).agenda = s.agenda := rfl
@[simp] theorem State.modTenant_plan (t : Nat) (f : Tenant → Tenant) : (s.modTenant t f).plan = s.plan := rfl
@[simp] theorem State.modTenant_stale (t : Nat) (f : Tenant → Tenant) : (s.modTenant t f).stale = s.stale := rfl
@[simp] theorem State.modTenant_background (t : Nat) (f : Tenant → Tenant) : (s.modTenant t f).background = s.background := rfl
@[simp] theorem State.modTenant_rot (t : Nat) (f : Tenant → Tenant) : (s.modTenant t f).rot = s.rot := rfl
@[simp] theorem State.modTenant_mlog (t : Nat) (f : Tenant → Tenant) : (s.modTenant t f).mlog = s.mlog := rfl
@[simp] theorem State.modTenant_hostReads (t : Nat) (f : Tenant → Tenant) : (s.modTenant t f).hostReads = s.hostReads := rfl
@[simp] theorem State.modTenant_hostWrites (t : Nat) (f : Tenant → Tenant) : (s.modTenant t f).hostWrites = s.hostWrites := rfl
@[simp] theorem State.modTenant_hostData (t : Nat) (f : Tenant → Tenant) : (s.modTenant t f).hostData = s.hostData := rfl
@[simp] theorem State.modTenant_sealed (t : Nat) (f : Tenant → Tenant) : (s.modTenant t f).sealed = s.sealed := rfl
@[simp] theorem State.modTenant_locks (t : Nat) (f : Tenant → Tenant) : (s.modTenant t f).locks = s.locks := rfl
@[simp] theorem State.modTenant_softLines (t : Nat) (f : Tenant → Tenant) : (s.modTenant t f).softLines = s.softLines := rfl
@[simp] theorem State.modTenant_badLines (t : Nat) (f : Tenant → Tenant) : (s.modTenant t f).badLines = s.badLines := rfl
@[simp] theorem State.modTenant_errs (t : Nat) (f : Tenant → Tenant) : (s.modTenant t f).errs = s.errs := rfl
@[simp] theorem State.modSlice_core (k : Nat) (f : Slice → Slice) : (s.modSlice k f).core = s.core := rfl
@[simp] theorem State.modSlice_cores (k : Nat) (f : Slice → Slice) : (s.modSlice k f).cores = s.cores := rfl
@[simp] theorem State.modSlice_cycle (k : Nat) (f : Slice → Slice) : (s.modSlice k f).cycle = s.cycle := rfl
@[simp] theorem State.modSlice_mem (k : Nat) (f : Slice → Slice) : (s.modSlice k f).mem = s.mem := rfl
@[simp] theorem State.modSlice_host (k : Nat) (f : Slice → Slice) : (s.modSlice k f).host = s.host := rfl
@[simp] theorem State.modSlice_ob (k : Nat) (f : Slice → Slice) : (s.modSlice k f).ob = s.ob := rfl
@[simp] theorem State.modSlice_dies (k : Nat) (f : Slice → Slice) : (s.modSlice k f).dies = s.dies := rfl
@[simp] theorem State.modSlice_poison (k : Nat) (f : Slice → Slice) : (s.modSlice k f).poison = s.poison := rfl
@[simp] theorem State.modSlice_deadGranules (k : Nat) (f : Slice → Slice) : (s.modSlice k f).deadGranules = s.deadGranules := rfl
@[simp] theorem State.modSlice_owners (k : Nat) (f : Slice → Slice) : (s.modSlice k f).owners = s.owners := rfl
@[simp] theorem State.modSlice_scrubbing (k : Nat) (f : Slice → Slice) : (s.modSlice k f).scrubbing = s.scrubbing := rfl
@[simp] theorem State.modSlice_keys (k : Nat) (f : Slice → Slice) : (s.modSlice k f).keys = s.keys := rfl
@[simp] theorem State.modSlice_keyPairs (k : Nat) (f : Slice → Slice) : (s.modSlice k f).keyPairs = s.keyPairs := rfl
@[simp] theorem State.modSlice_tenants (k : Nat) (f : Slice → Slice) : (s.modSlice k f).tenants = s.tenants := rfl
@[simp] theorem State.modSlice_launches (k : Nat) (f : Slice → Slice) : (s.modSlice k f).launches = s.launches := rfl
@[simp] theorem State.modSlice_launchNo (k : Nat) (f : Slice → Slice) : (s.modSlice k f).launchNo = s.launchNo := rfl
@[simp] theorem State.modSlice_quince (k : Nat) (f : Slice → Slice) : (s.modSlice k f).quince = s.quince := rfl
@[simp] theorem State.modSlice_engines (k : Nat) (f : Slice → Slice) : (s.modSlice k f).engines = s.engines := rfl
@[simp] theorem State.modSlice_reqs (k : Nat) (f : Slice → Slice) : (s.modSlice k f).reqs = s.reqs := rfl
@[simp] theorem State.modSlice_reqNo (k : Nat) (f : Slice → Slice) : (s.modSlice k f).reqNo = s.reqNo := rfl
@[simp] theorem State.modSlice_groups (k : Nat) (f : Slice → Slice) : (s.modSlice k f).groups = s.groups := rfl
@[simp] theorem State.modSlice_redWins (k : Nat) (f : Slice → Slice) : (s.modSlice k f).redWins = s.redWins := rfl
@[simp] theorem State.modSlice_msgs (k : Nat) (f : Slice → Slice) : (s.modSlice k f).msgs = s.msgs := rfl
@[simp] theorem State.modSlice_brambles (k : Nat) (f : Slice → Slice) : (s.modSlice k f).brambles = s.brambles := rfl
@[simp] theorem State.modSlice_active (k : Nat) (f : Slice → Slice) : (s.modSlice k f).active = s.active := rfl
@[simp] theorem State.modSlice_mgmt (k : Nat) (f : Slice → Slice) : (s.modSlice k f).mgmt = s.mgmt := rfl
@[simp] theorem State.modSlice_agenda (k : Nat) (f : Slice → Slice) : (s.modSlice k f).agenda = s.agenda := rfl
@[simp] theorem State.modSlice_plan (k : Nat) (f : Slice → Slice) : (s.modSlice k f).plan = s.plan := rfl
@[simp] theorem State.modSlice_stale (k : Nat) (f : Slice → Slice) : (s.modSlice k f).stale = s.stale := rfl
@[simp] theorem State.modSlice_background (k : Nat) (f : Slice → Slice) : (s.modSlice k f).background = s.background := rfl
@[simp] theorem State.modSlice_rot (k : Nat) (f : Slice → Slice) : (s.modSlice k f).rot = s.rot := rfl
@[simp] theorem State.modSlice_mlog (k : Nat) (f : Slice → Slice) : (s.modSlice k f).mlog = s.mlog := rfl
@[simp] theorem State.modSlice_hostReads (k : Nat) (f : Slice → Slice) : (s.modSlice k f).hostReads = s.hostReads := rfl
@[simp] theorem State.modSlice_hostWrites (k : Nat) (f : Slice → Slice) : (s.modSlice k f).hostWrites = s.hostWrites := rfl
@[simp] theorem State.modSlice_hostData (k : Nat) (f : Slice → Slice) : (s.modSlice k f).hostData = s.hostData := rfl
@[simp] theorem State.modSlice_sealed (k : Nat) (f : Slice → Slice) : (s.modSlice k f).sealed = s.sealed := rfl
@[simp] theorem State.modSlice_locks (k : Nat) (f : Slice → Slice) : (s.modSlice k f).locks = s.locks := rfl
@[simp] theorem State.modSlice_softLines (k : Nat) (f : Slice → Slice) : (s.modSlice k f).softLines = s.softLines := rfl
@[simp] theorem State.modSlice_badLines (k : Nat) (f : Slice → Slice) : (s.modSlice k f).badLines = s.badLines := rfl
@[simp] theorem State.modSlice_errs (k : Nat) (f : Slice → Slice) : (s.modSlice k f).errs = s.errs := rfl
@[simp] theorem State.modDie_core (d : Nat) (f : Die → Die) : (s.modDie d f).core = s.core := rfl
@[simp] theorem State.modDie_cores (d : Nat) (f : Die → Die) : (s.modDie d f).cores = s.cores := rfl
@[simp] theorem State.modDie_cycle (d : Nat) (f : Die → Die) : (s.modDie d f).cycle = s.cycle := rfl
@[simp] theorem State.modDie_mem (d : Nat) (f : Die → Die) : (s.modDie d f).mem = s.mem := rfl
@[simp] theorem State.modDie_host (d : Nat) (f : Die → Die) : (s.modDie d f).host = s.host := rfl
@[simp] theorem State.modDie_ob (d : Nat) (f : Die → Die) : (s.modDie d f).ob = s.ob := rfl
@[simp] theorem State.modDie_poison (d : Nat) (f : Die → Die) : (s.modDie d f).poison = s.poison := rfl
@[simp] theorem State.modDie_deadGranules (d : Nat) (f : Die → Die) : (s.modDie d f).deadGranules = s.deadGranules := rfl
@[simp] theorem State.modDie_owners (d : Nat) (f : Die → Die) : (s.modDie d f).owners = s.owners := rfl
@[simp] theorem State.modDie_scrubbing (d : Nat) (f : Die → Die) : (s.modDie d f).scrubbing = s.scrubbing := rfl
@[simp] theorem State.modDie_keys (d : Nat) (f : Die → Die) : (s.modDie d f).keys = s.keys := rfl
@[simp] theorem State.modDie_keyPairs (d : Nat) (f : Die → Die) : (s.modDie d f).keyPairs = s.keyPairs := rfl
@[simp] theorem State.modDie_tenants (d : Nat) (f : Die → Die) : (s.modDie d f).tenants = s.tenants := rfl
@[simp] theorem State.modDie_launches (d : Nat) (f : Die → Die) : (s.modDie d f).launches = s.launches := rfl
@[simp] theorem State.modDie_launchNo (d : Nat) (f : Die → Die) : (s.modDie d f).launchNo = s.launchNo := rfl
@[simp] theorem State.modDie_quince (d : Nat) (f : Die → Die) : (s.modDie d f).quince = s.quince := rfl
@[simp] theorem State.modDie_engines (d : Nat) (f : Die → Die) : (s.modDie d f).engines = s.engines := rfl
@[simp] theorem State.modDie_reqs (d : Nat) (f : Die → Die) : (s.modDie d f).reqs = s.reqs := rfl
@[simp] theorem State.modDie_reqNo (d : Nat) (f : Die → Die) : (s.modDie d f).reqNo = s.reqNo := rfl
@[simp] theorem State.modDie_slices (d : Nat) (f : Die → Die) : (s.modDie d f).slices = s.slices := rfl
@[simp] theorem State.modDie_groups (d : Nat) (f : Die → Die) : (s.modDie d f).groups = s.groups := rfl
@[simp] theorem State.modDie_redWins (d : Nat) (f : Die → Die) : (s.modDie d f).redWins = s.redWins := rfl
@[simp] theorem State.modDie_msgs (d : Nat) (f : Die → Die) : (s.modDie d f).msgs = s.msgs := rfl
@[simp] theorem State.modDie_brambles (d : Nat) (f : Die → Die) : (s.modDie d f).brambles = s.brambles := rfl
@[simp] theorem State.modDie_active (d : Nat) (f : Die → Die) : (s.modDie d f).active = s.active := rfl
@[simp] theorem State.modDie_mgmt (d : Nat) (f : Die → Die) : (s.modDie d f).mgmt = s.mgmt := rfl
@[simp] theorem State.modDie_agenda (d : Nat) (f : Die → Die) : (s.modDie d f).agenda = s.agenda := rfl
@[simp] theorem State.modDie_plan (d : Nat) (f : Die → Die) : (s.modDie d f).plan = s.plan := rfl
@[simp] theorem State.modDie_stale (d : Nat) (f : Die → Die) : (s.modDie d f).stale = s.stale := rfl
@[simp] theorem State.modDie_background (d : Nat) (f : Die → Die) : (s.modDie d f).background = s.background := rfl
@[simp] theorem State.modDie_rot (d : Nat) (f : Die → Die) : (s.modDie d f).rot = s.rot := rfl
@[simp] theorem State.modDie_mlog (d : Nat) (f : Die → Die) : (s.modDie d f).mlog = s.mlog := rfl
@[simp] theorem State.modDie_hostReads (d : Nat) (f : Die → Die) : (s.modDie d f).hostReads = s.hostReads := rfl
@[simp] theorem State.modDie_hostWrites (d : Nat) (f : Die → Die) : (s.modDie d f).hostWrites = s.hostWrites := rfl
@[simp] theorem State.modDie_hostData (d : Nat) (f : Die → Die) : (s.modDie d f).hostData = s.hostData := rfl
@[simp] theorem State.modDie_sealed (d : Nat) (f : Die → Die) : (s.modDie d f).sealed = s.sealed := rfl
@[simp] theorem State.modDie_locks (d : Nat) (f : Die → Die) : (s.modDie d f).locks = s.locks := rfl
@[simp] theorem State.modDie_softLines (d : Nat) (f : Die → Die) : (s.modDie d f).softLines = s.softLines := rfl
@[simp] theorem State.modDie_badLines (d : Nat) (f : Die → Die) : (s.modDie d f).badLines = s.badLines := rfl
@[simp] theorem State.modDie_errs (d : Nat) (f : Die → Die) : (s.modDie d f).errs = s.errs := rfl
@[simp] theorem State.modLaunch_core (l : Nat) (f : Launch → Launch) : (s.modLaunch l f).core = s.core := rfl
@[simp] theorem State.modLaunch_cores (l : Nat) (f : Launch → Launch) : (s.modLaunch l f).cores = s.cores := rfl
@[simp] theorem State.modLaunch_cycle (l : Nat) (f : Launch → Launch) : (s.modLaunch l f).cycle = s.cycle := rfl
@[simp] theorem State.modLaunch_mem (l : Nat) (f : Launch → Launch) : (s.modLaunch l f).mem = s.mem := rfl
@[simp] theorem State.modLaunch_host (l : Nat) (f : Launch → Launch) : (s.modLaunch l f).host = s.host := rfl
@[simp] theorem State.modLaunch_ob (l : Nat) (f : Launch → Launch) : (s.modLaunch l f).ob = s.ob := rfl
@[simp] theorem State.modLaunch_dies (l : Nat) (f : Launch → Launch) : (s.modLaunch l f).dies = s.dies := rfl
@[simp] theorem State.modLaunch_poison (l : Nat) (f : Launch → Launch) : (s.modLaunch l f).poison = s.poison := rfl
@[simp] theorem State.modLaunch_deadGranules (l : Nat) (f : Launch → Launch) : (s.modLaunch l f).deadGranules = s.deadGranules := rfl
@[simp] theorem State.modLaunch_owners (l : Nat) (f : Launch → Launch) : (s.modLaunch l f).owners = s.owners := rfl
@[simp] theorem State.modLaunch_scrubbing (l : Nat) (f : Launch → Launch) : (s.modLaunch l f).scrubbing = s.scrubbing := rfl
@[simp] theorem State.modLaunch_keys (l : Nat) (f : Launch → Launch) : (s.modLaunch l f).keys = s.keys := rfl
@[simp] theorem State.modLaunch_keyPairs (l : Nat) (f : Launch → Launch) : (s.modLaunch l f).keyPairs = s.keyPairs := rfl
@[simp] theorem State.modLaunch_tenants (l : Nat) (f : Launch → Launch) : (s.modLaunch l f).tenants = s.tenants := rfl
@[simp] theorem State.modLaunch_launchNo (l : Nat) (f : Launch → Launch) : (s.modLaunch l f).launchNo = s.launchNo := rfl
@[simp] theorem State.modLaunch_quince (l : Nat) (f : Launch → Launch) : (s.modLaunch l f).quince = s.quince := rfl
@[simp] theorem State.modLaunch_engines (l : Nat) (f : Launch → Launch) : (s.modLaunch l f).engines = s.engines := rfl
@[simp] theorem State.modLaunch_reqs (l : Nat) (f : Launch → Launch) : (s.modLaunch l f).reqs = s.reqs := rfl
@[simp] theorem State.modLaunch_reqNo (l : Nat) (f : Launch → Launch) : (s.modLaunch l f).reqNo = s.reqNo := rfl
@[simp] theorem State.modLaunch_slices (l : Nat) (f : Launch → Launch) : (s.modLaunch l f).slices = s.slices := rfl
@[simp] theorem State.modLaunch_groups (l : Nat) (f : Launch → Launch) : (s.modLaunch l f).groups = s.groups := rfl
@[simp] theorem State.modLaunch_redWins (l : Nat) (f : Launch → Launch) : (s.modLaunch l f).redWins = s.redWins := rfl
@[simp] theorem State.modLaunch_msgs (l : Nat) (f : Launch → Launch) : (s.modLaunch l f).msgs = s.msgs := rfl
@[simp] theorem State.modLaunch_brambles (l : Nat) (f : Launch → Launch) : (s.modLaunch l f).brambles = s.brambles := rfl
@[simp] theorem State.modLaunch_active (l : Nat) (f : Launch → Launch) : (s.modLaunch l f).active = s.active := rfl
@[simp] theorem State.modLaunch_mgmt (l : Nat) (f : Launch → Launch) : (s.modLaunch l f).mgmt = s.mgmt := rfl
@[simp] theorem State.modLaunch_agenda (l : Nat) (f : Launch → Launch) : (s.modLaunch l f).agenda = s.agenda := rfl
@[simp] theorem State.modLaunch_plan (l : Nat) (f : Launch → Launch) : (s.modLaunch l f).plan = s.plan := rfl
@[simp] theorem State.modLaunch_stale (l : Nat) (f : Launch → Launch) : (s.modLaunch l f).stale = s.stale := rfl
@[simp] theorem State.modLaunch_background (l : Nat) (f : Launch → Launch) : (s.modLaunch l f).background = s.background := rfl
@[simp] theorem State.modLaunch_rot (l : Nat) (f : Launch → Launch) : (s.modLaunch l f).rot = s.rot := rfl
@[simp] theorem State.modLaunch_mlog (l : Nat) (f : Launch → Launch) : (s.modLaunch l f).mlog = s.mlog := rfl
@[simp] theorem State.modLaunch_hostReads (l : Nat) (f : Launch → Launch) : (s.modLaunch l f).hostReads = s.hostReads := rfl
@[simp] theorem State.modLaunch_hostWrites (l : Nat) (f : Launch → Launch) : (s.modLaunch l f).hostWrites = s.hostWrites := rfl
@[simp] theorem State.modLaunch_hostData (l : Nat) (f : Launch → Launch) : (s.modLaunch l f).hostData = s.hostData := rfl
@[simp] theorem State.modLaunch_sealed (l : Nat) (f : Launch → Launch) : (s.modLaunch l f).sealed = s.sealed := rfl
@[simp] theorem State.modLaunch_locks (l : Nat) (f : Launch → Launch) : (s.modLaunch l f).locks = s.locks := rfl
@[simp] theorem State.modLaunch_softLines (l : Nat) (f : Launch → Launch) : (s.modLaunch l f).softLines = s.softLines := rfl
@[simp] theorem State.modLaunch_badLines (l : Nat) (f : Launch → Launch) : (s.modLaunch l f).badLines = s.badLines := rfl
@[simp] theorem State.modLaunch_errs (l : Nat) (f : Launch → Launch) : (s.modLaunch l f).errs = s.errs := rfl
@[simp] theorem State.setEngine_core (e : LinkEngine) : (s.setEngine e).core = s.core := rfl
@[simp] theorem State.setEngine_cores (e : LinkEngine) : (s.setEngine e).cores = s.cores := rfl
@[simp] theorem State.setEngine_cycle (e : LinkEngine) : (s.setEngine e).cycle = s.cycle := rfl
@[simp] theorem State.setEngine_mem (e : LinkEngine) : (s.setEngine e).mem = s.mem := rfl
@[simp] theorem State.setEngine_host (e : LinkEngine) : (s.setEngine e).host = s.host := rfl
@[simp] theorem State.setEngine_ob (e : LinkEngine) : (s.setEngine e).ob = s.ob := rfl
@[simp] theorem State.setEngine_dies (e : LinkEngine) : (s.setEngine e).dies = s.dies := rfl
@[simp] theorem State.setEngine_poison (e : LinkEngine) : (s.setEngine e).poison = s.poison := rfl
@[simp] theorem State.setEngine_deadGranules (e : LinkEngine) : (s.setEngine e).deadGranules = s.deadGranules := rfl
@[simp] theorem State.setEngine_owners (e : LinkEngine) : (s.setEngine e).owners = s.owners := rfl
@[simp] theorem State.setEngine_scrubbing (e : LinkEngine) : (s.setEngine e).scrubbing = s.scrubbing := rfl
@[simp] theorem State.setEngine_keys (e : LinkEngine) : (s.setEngine e).keys = s.keys := rfl
@[simp] theorem State.setEngine_keyPairs (e : LinkEngine) : (s.setEngine e).keyPairs = s.keyPairs := rfl
@[simp] theorem State.setEngine_tenants (e : LinkEngine) : (s.setEngine e).tenants = s.tenants := rfl
@[simp] theorem State.setEngine_launches (e : LinkEngine) : (s.setEngine e).launches = s.launches := rfl
@[simp] theorem State.setEngine_launchNo (e : LinkEngine) : (s.setEngine e).launchNo = s.launchNo := rfl
@[simp] theorem State.setEngine_quince (e : LinkEngine) : (s.setEngine e).quince = s.quince := rfl
@[simp] theorem State.setEngine_reqs (e : LinkEngine) : (s.setEngine e).reqs = s.reqs := rfl
@[simp] theorem State.setEngine_reqNo (e : LinkEngine) : (s.setEngine e).reqNo = s.reqNo := rfl
@[simp] theorem State.setEngine_slices (e : LinkEngine) : (s.setEngine e).slices = s.slices := rfl
@[simp] theorem State.setEngine_groups (e : LinkEngine) : (s.setEngine e).groups = s.groups := rfl
@[simp] theorem State.setEngine_redWins (e : LinkEngine) : (s.setEngine e).redWins = s.redWins := rfl
@[simp] theorem State.setEngine_msgs (e : LinkEngine) : (s.setEngine e).msgs = s.msgs := rfl
@[simp] theorem State.setEngine_brambles (e : LinkEngine) : (s.setEngine e).brambles = s.brambles := rfl
@[simp] theorem State.setEngine_active (e : LinkEngine) : (s.setEngine e).active = s.active := rfl
@[simp] theorem State.setEngine_mgmt (e : LinkEngine) : (s.setEngine e).mgmt = s.mgmt := rfl
@[simp] theorem State.setEngine_agenda (e : LinkEngine) : (s.setEngine e).agenda = s.agenda := rfl
@[simp] theorem State.setEngine_plan (e : LinkEngine) : (s.setEngine e).plan = s.plan := rfl
@[simp] theorem State.setEngine_stale (e : LinkEngine) : (s.setEngine e).stale = s.stale := rfl
@[simp] theorem State.setEngine_background (e : LinkEngine) : (s.setEngine e).background = s.background := rfl
@[simp] theorem State.setEngine_rot (e : LinkEngine) : (s.setEngine e).rot = s.rot := rfl
@[simp] theorem State.setEngine_mlog (e : LinkEngine) : (s.setEngine e).mlog = s.mlog := rfl
@[simp] theorem State.setEngine_hostReads (e : LinkEngine) : (s.setEngine e).hostReads = s.hostReads := rfl
@[simp] theorem State.setEngine_hostWrites (e : LinkEngine) : (s.setEngine e).hostWrites = s.hostWrites := rfl
@[simp] theorem State.setEngine_hostData (e : LinkEngine) : (s.setEngine e).hostData = s.hostData := rfl
@[simp] theorem State.setEngine_sealed (e : LinkEngine) : (s.setEngine e).sealed = s.sealed := rfl
@[simp] theorem State.setEngine_locks (e : LinkEngine) : (s.setEngine e).locks = s.locks := rfl
@[simp] theorem State.setEngine_softLines (e : LinkEngine) : (s.setEngine e).softLines = s.softLines := rfl
@[simp] theorem State.setEngine_badLines (e : LinkEngine) : (s.setEngine e).badLines = s.badLines := rfl
@[simp] theorem State.setEngine_errs (e : LinkEngine) : (s.setEngine e).errs = s.errs := rfl

/-! ## Updates of several cores -/

@[simp] theorem State.mapCores_cycle (f : Core → Core) : (s.mapCores f).cycle = s.cycle := rfl
@[simp] theorem State.mapCores_mem (f : Core → Core) : (s.mapCores f).mem = s.mem := rfl
@[simp] theorem State.mapCores_host (f : Core → Core) : (s.mapCores f).host = s.host := rfl
@[simp] theorem State.mapCores_ob (f : Core → Core) : (s.mapCores f).ob = s.ob := rfl
@[simp] theorem State.mapCores_dies (f : Core → Core) : (s.mapCores f).dies = s.dies := rfl
@[simp] theorem State.mapCores_poison (f : Core → Core) : (s.mapCores f).poison = s.poison := rfl
@[simp] theorem State.mapCores_deadGranules (f : Core → Core) : (s.mapCores f).deadGranules = s.deadGranules := rfl
@[simp] theorem State.mapCores_owners (f : Core → Core) : (s.mapCores f).owners = s.owners := rfl
@[simp] theorem State.mapCores_scrubbing (f : Core → Core) : (s.mapCores f).scrubbing = s.scrubbing := rfl
@[simp] theorem State.mapCores_keys (f : Core → Core) : (s.mapCores f).keys = s.keys := rfl
@[simp] theorem State.mapCores_keyPairs (f : Core → Core) : (s.mapCores f).keyPairs = s.keyPairs := rfl
@[simp] theorem State.mapCores_tenants (f : Core → Core) : (s.mapCores f).tenants = s.tenants := rfl
@[simp] theorem State.mapCores_launches (f : Core → Core) : (s.mapCores f).launches = s.launches := rfl
@[simp] theorem State.mapCores_launchNo (f : Core → Core) : (s.mapCores f).launchNo = s.launchNo := rfl
@[simp] theorem State.mapCores_quince (f : Core → Core) : (s.mapCores f).quince = s.quince := rfl
@[simp] theorem State.mapCores_engines (f : Core → Core) : (s.mapCores f).engines = s.engines := rfl
@[simp] theorem State.mapCores_reqs (f : Core → Core) : (s.mapCores f).reqs = s.reqs := rfl
@[simp] theorem State.mapCores_reqNo (f : Core → Core) : (s.mapCores f).reqNo = s.reqNo := rfl
@[simp] theorem State.mapCores_slices (f : Core → Core) : (s.mapCores f).slices = s.slices := rfl
@[simp] theorem State.mapCores_groups (f : Core → Core) : (s.mapCores f).groups = s.groups := rfl
@[simp] theorem State.mapCores_redWins (f : Core → Core) : (s.mapCores f).redWins = s.redWins := rfl
@[simp] theorem State.mapCores_msgs (f : Core → Core) : (s.mapCores f).msgs = s.msgs := rfl
@[simp] theorem State.mapCores_brambles (f : Core → Core) : (s.mapCores f).brambles = s.brambles := rfl
@[simp] theorem State.mapCores_active (f : Core → Core) : (s.mapCores f).active = s.active := rfl
@[simp] theorem State.mapCores_mgmt (f : Core → Core) : (s.mapCores f).mgmt = s.mgmt := rfl
@[simp] theorem State.mapCores_agenda (f : Core → Core) : (s.mapCores f).agenda = s.agenda := rfl
@[simp] theorem State.mapCores_plan (f : Core → Core) : (s.mapCores f).plan = s.plan := rfl
@[simp] theorem State.mapCores_stale (f : Core → Core) : (s.mapCores f).stale = s.stale := rfl
@[simp] theorem State.mapCores_background (f : Core → Core) : (s.mapCores f).background = s.background := rfl
@[simp] theorem State.mapCores_rot (f : Core → Core) : (s.mapCores f).rot = s.rot := rfl
@[simp] theorem State.mapCores_mlog (f : Core → Core) : (s.mapCores f).mlog = s.mlog := rfl
@[simp] theorem State.mapCores_hostReads (f : Core → Core) : (s.mapCores f).hostReads = s.hostReads := rfl
@[simp] theorem State.mapCores_hostWrites (f : Core → Core) : (s.mapCores f).hostWrites = s.hostWrites := rfl
@[simp] theorem State.mapCores_hostData (f : Core → Core) : (s.mapCores f).hostData = s.hostData := rfl
@[simp] theorem State.mapCores_sealed (f : Core → Core) : (s.mapCores f).sealed = s.sealed := rfl
@[simp] theorem State.mapCores_locks (f : Core → Core) : (s.mapCores f).locks = s.locks := rfl
@[simp] theorem State.mapCores_softLines (f : Core → Core) : (s.mapCores f).softLines = s.softLines := rfl
@[simp] theorem State.mapCores_badLines (f : Core → Core) : (s.mapCores f).badLines = s.badLines := rfl
@[simp] theorem State.mapCores_errs (f : Core → Core) : (s.mapCores f).errs = s.errs := rfl
@[simp] theorem State.setCore_cycle  : (s.setCore c).cycle = s.cycle := by unfold State.setCore; split <;> rfl
@[simp] theorem State.setCore_mem  : (s.setCore c).mem = s.mem := by unfold State.setCore; split <;> rfl
@[simp] theorem State.setCore_host  : (s.setCore c).host = s.host := by unfold State.setCore; split <;> rfl
@[simp] theorem State.setCore_ob  : (s.setCore c).ob = s.ob := by unfold State.setCore; split <;> rfl
@[simp] theorem State.setCore_dies  : (s.setCore c).dies = s.dies := by unfold State.setCore; split <;> rfl
@[simp] theorem State.setCore_poison  : (s.setCore c).poison = s.poison := by unfold State.setCore; split <;> rfl
@[simp] theorem State.setCore_deadGranules  : (s.setCore c).deadGranules = s.deadGranules := by unfold State.setCore; split <;> rfl
@[simp] theorem State.setCore_owners  : (s.setCore c).owners = s.owners := by unfold State.setCore; split <;> rfl
@[simp] theorem State.setCore_scrubbing  : (s.setCore c).scrubbing = s.scrubbing := by unfold State.setCore; split <;> rfl
@[simp] theorem State.setCore_keys  : (s.setCore c).keys = s.keys := by unfold State.setCore; split <;> rfl
@[simp] theorem State.setCore_keyPairs  : (s.setCore c).keyPairs = s.keyPairs := by unfold State.setCore; split <;> rfl
@[simp] theorem State.setCore_tenants  : (s.setCore c).tenants = s.tenants := by unfold State.setCore; split <;> rfl
@[simp] theorem State.setCore_launches  : (s.setCore c).launches = s.launches := by unfold State.setCore; split <;> rfl
@[simp] theorem State.setCore_launchNo  : (s.setCore c).launchNo = s.launchNo := by unfold State.setCore; split <;> rfl
@[simp] theorem State.setCore_quince  : (s.setCore c).quince = s.quince := by unfold State.setCore; split <;> rfl
@[simp] theorem State.setCore_engines  : (s.setCore c).engines = s.engines := by unfold State.setCore; split <;> rfl
@[simp] theorem State.setCore_reqs  : (s.setCore c).reqs = s.reqs := by unfold State.setCore; split <;> rfl
@[simp] theorem State.setCore_reqNo  : (s.setCore c).reqNo = s.reqNo := by unfold State.setCore; split <;> rfl
@[simp] theorem State.setCore_slices  : (s.setCore c).slices = s.slices := by unfold State.setCore; split <;> rfl
@[simp] theorem State.setCore_groups  : (s.setCore c).groups = s.groups := by unfold State.setCore; split <;> rfl
@[simp] theorem State.setCore_redWins  : (s.setCore c).redWins = s.redWins := by unfold State.setCore; split <;> rfl
@[simp] theorem State.setCore_msgs  : (s.setCore c).msgs = s.msgs := by unfold State.setCore; split <;> rfl
@[simp] theorem State.setCore_brambles  : (s.setCore c).brambles = s.brambles := by unfold State.setCore; split <;> rfl
@[simp] theorem State.setCore_active  : (s.setCore c).active = s.active := by unfold State.setCore; split <;> rfl
@[simp] theorem State.setCore_mgmt  : (s.setCore c).mgmt = s.mgmt := by unfold State.setCore; split <;> rfl
@[simp] theorem State.setCore_agenda  : (s.setCore c).agenda = s.agenda := by unfold State.setCore; split <;> rfl
@[simp] theorem State.setCore_plan  : (s.setCore c).plan = s.plan := by unfold State.setCore; split <;> rfl
@[simp] theorem State.setCore_stale  : (s.setCore c).stale = s.stale := by unfold State.setCore; split <;> rfl
@[simp] theorem State.setCore_background  : (s.setCore c).background = s.background := by unfold State.setCore; split <;> rfl
@[simp] theorem State.setCore_rot  : (s.setCore c).rot = s.rot := by unfold State.setCore; split <;> rfl
@[simp] theorem State.setCore_mlog  : (s.setCore c).mlog = s.mlog := by unfold State.setCore; split <;> rfl
@[simp] theorem State.setCore_hostReads  : (s.setCore c).hostReads = s.hostReads := by unfold State.setCore; split <;> rfl
@[simp] theorem State.setCore_hostWrites  : (s.setCore c).hostWrites = s.hostWrites := by unfold State.setCore; split <;> rfl
@[simp] theorem State.setCore_hostData  : (s.setCore c).hostData = s.hostData := by unfold State.setCore; split <;> rfl
@[simp] theorem State.setCore_sealed  : (s.setCore c).sealed = s.sealed := by unfold State.setCore; split <;> rfl
@[simp] theorem State.setCore_locks  : (s.setCore c).locks = s.locks := by unfold State.setCore; split <;> rfl
@[simp] theorem State.setCore_softLines  : (s.setCore c).softLines = s.softLines := by unfold State.setCore; split <;> rfl
@[simp] theorem State.setCore_badLines  : (s.setCore c).badLines = s.badLines := by unfold State.setCore; split <;> rfl
@[simp] theorem State.setCore_errs  : (s.setCore c).errs = s.errs := by unfold State.setCore; split <;> rfl
@[simp] theorem State.mapCores_core (f : Core → Core) : (s.mapCores f).core = f s.core := rfl
@[simp] theorem State.mapCores_cores (f : Core → Core) : (s.mapCores f).cores = s.cores.map f := rfl

/-! ## A register written -/

@[simp] theorem Core.setX_loc (r : XReg) (v : W64) : (c.setX r v).loc = c.loc := by unfold Core.setX; split <;> rfl
@[simp] theorem Core.setX_run (r : XReg) (v : W64) : (c.setX r v).run = c.run := by unfold Core.setX; split <;> rfl
@[simp] theorem Core.setX_place (r : XReg) (v : W64) : (c.setX r v).place = c.place := by unfold Core.setX; split <;> rfl
@[simp] theorem Core.setX_codeBase (r : XReg) (v : W64) : (c.setX r v).codeBase = c.codeBase := by unfold Core.setX; split <;> rfl
@[simp] theorem Core.setX_codeLimit (r : XReg) (v : W64) : (c.setX r v).codeLimit = c.codeLimit := by unfold Core.setX; split <;> rfl
@[simp] theorem Core.setX_pc (r : XReg) (v : W64) : (c.setX r v).pc = c.pc := by unfold Core.setX; split <;> rfl
@[simp] theorem Core.setX_npc (r : XReg) (v : W64) : (c.setX r v).npc = c.npc := by unfold Core.setX; split <;> rfl
@[simp] theorem Core.setX_ir (r : XReg) (v : W64) : (c.setX r v).ir = c.ir := by unfold Core.setX; split <;> rfl
@[simp] theorem Core.setX_held (r : XReg) (v : W64) : (c.setX r v).held = c.held := by unfold Core.setX; split <;> rfl
@[simp] theorem Core.setX_prog (r : XReg) (v : W64) : (c.setX r v).prog = c.prog := by unfold Core.setX; split <;> rfl
@[simp] theorem Core.setX_g (r : XReg) (v : W64) : (c.setX r v).g = c.g := by unfold Core.setX; split <;> rfl
@[simp] theorem Core.setX_v (r : XReg) (v : W64) : (c.setX r v).v = c.v := by unfold Core.setX; split <;> rfl
@[simp] theorem Core.setX_m (r : XReg) (v : W64) : (c.setX r v).m = c.m := by unfold Core.setX; split <;> rfl
@[simp] theorem Core.setX_bankfmt (r : XReg) (v : W64) : (c.setX r v).bankfmt = c.bankfmt := by unfold Core.setX; split <;> rfl
@[simp] theorem Core.setX_sys (r : XReg) (v : W64) : (c.setX r v).sys = c.sys := by unfold Core.setX; split <;> rfl
@[simp] theorem Core.setX_lmem (r : XReg) (v : W64) : (c.setX r v).lmem = c.lmem := by unfold Core.setX; split <;> rfl
@[simp] theorem Core.setX_badLocal (r : XReg) (v : W64) : (c.setX r v).badLocal = c.badLocal := by unfold Core.setX; split <;> rfl
@[simp] theorem Core.setX_streams (r : XReg) (v : W64) : (c.setX r v).streams = c.streams := by unfold Core.setX; split <;> rfl
@[simp] theorem Core.setX_fifo (r : XReg) (v : W64) : (c.setX r v).fifo = c.fifo := by unfold Core.setX; split <;> rfl
@[simp] theorem Core.setX_ports (r : XReg) (v : W64) : (c.setX r v).ports = c.ports := by unfold Core.setX; split <;> rfl
@[simp] theorem Core.setX_rings (r : XReg) (v : W64) : (c.setX r v).rings = c.rings := by unfold Core.setX; split <;> rfl
@[simp] theorem Core.setX_wins (r : XReg) (v : W64) : (c.setX r v).wins = c.wins := by unfold Core.setX; split <;> rfl
@[simp] theorem Core.setX_ctrs (r : XReg) (v : W64) : (c.setX r v).ctrs = c.ctrs := by unfold Core.setX; split <;> rfl
@[simp] theorem Core.setX_stashes (r : XReg) (v : W64) : (c.setX r v).stashes = c.stashes := by unfold Core.setX; split <;> rfl
@[simp] theorem Core.setX_linebuf (r : XReg) (v : W64) : (c.setX r v).linebuf = c.linebuf := by unfold Core.setX; split <;> rfl
@[simp] theorem Core.setX_mon (r : XReg) (v : W64) : (c.setX r v).mon = c.mon := by unfold Core.setX; split <;> rfl
@[simp] theorem Core.setX_trig (r : XReg) (v : W64) : (c.setX r v).trig = c.trig := by unfold Core.setX; split <;> rfl
@[simp] theorem Core.setX_bindings (r : XReg) (v : W64) : (c.setX r v).bindings = c.bindings := by unfold Core.setX; split <;> rfl
@[simp] theorem Core.setX_homes (r : XReg) (v : W64) : (c.setX r v).homes = c.homes := by unfold Core.setX; split <;> rfl
@[simp] theorem Core.setX_stage (r : XReg) (v : W64) : (c.setX r v).stage = c.stage := by unfold Core.setX; split <;> rfl
@[simp] theorem Core.setX_gang (r : XReg) (v : W64) : (c.setX r v).gang = c.gang := by unfold Core.setX; split <;> rfl
@[simp] theorem Core.setX_yielded (r : XReg) (v : W64) : (c.setX r v).yielded = c.yielded := by unfold Core.setX; split <;> rfl
@[simp] theorem Core.setX_diverted (r : XReg) (v : W64) : (c.setX r v).diverted = c.diverted := by unfold Core.setX; split <;> rfl
@[simp] theorem Core.setX_pos (r : XReg) (v : W64) : (c.setX r v).pos = c.pos := by unfold Core.setX; split <;> rfl
@[simp] theorem Core.setX_pq (r : XReg) (v : W64) : (c.setX r v).pq = c.pq := by unfold Core.setX; split <;> rfl
@[simp] theorem Core.setX_sb (r : XReg) (v : W64) : (c.setX r v).sb = c.sb := by unfold Core.setX; split <;> rfl
@[simp] theorem Core.setX_sigs (r : XReg) (v : W64) : (c.setX r v).sigs = c.sigs := by unfold Core.setX; split <;> rfl
@[simp] theorem Core.setX_cmds (r : XReg) (v : W64) : (c.setX r v).cmds = c.cmds := by unfold Core.setX; split <;> rfl
@[simp] theorem Core.setX_cmdNo (r : XReg) (v : W64) : (c.setX r v).cmdNo = c.cmdNo := by unfold Core.setX; split <;> rfl
@[simp] theorem Core.setX_logSeq (r : XReg) (v : W64) : (c.setX r v).logSeq = c.logSeq := by unfold Core.setX; split <;> rfl
@[simp] theorem Core.setX_credits (r : XReg) (v : W64) : (c.setX r v).credits = c.credits := by unfold Core.setX; split <;> rfl
@[simp] theorem Core.setX_tlb (r : XReg) (v : W64) : (c.setX r v).tlb = c.tlb := by unfold Core.setX; split <;> rfl
@[simp] theorem Core.setX_walk (r : XReg) (v : W64) : (c.setX r v).walk = c.walk := by unfold Core.setX; split <;> rfl
@[simp] theorem Core.setX_uncorrected (r : XReg) (v : W64) : (c.setX r v).uncorrected = c.uncorrected := by unfold Core.setX; split <;> rfl
@[simp] theorem Core.setX_linkstall (r : XReg) (v : W64) : (c.setX r v).linkstall = c.linkstall := by unfold Core.setX; split <;> rfl
@[simp] theorem Core.setX_barred (r : XReg) (v : W64) : (c.setX r v).barred = c.barred := by unfold Core.setX; split <;> rfl
@[simp] theorem Core.setX_chanbroken (r : XReg) (v : W64) : (c.setX r v).chanbroken = c.chanbroken := by unfold Core.setX; split <;> rfl
@[simp] theorem Core.setX_slowUntil (r : XReg) (v : W64) : (c.setX r v).slowUntil = c.slowUntil := by unfold Core.setX; split <;> rfl
@[simp] theorem Core.setX_kept (r : XReg) (v : W64) : (c.setX r v).kept = c.kept := by unfold Core.setX; split <;> rfl
@[simp] theorem Core.setX_inRep (r : XReg) (v : W64) : (c.setX r v).inRep = c.inRep := by unfold Core.setX; split <;> rfl
@[simp] theorem Core.setX_captures (r : XReg) (v : W64) : (c.setX r v).captures = c.captures := by unfold Core.setX; split <;> rfl
@[simp] theorem Core.setX_soft (r : XReg) (v : W64) : (c.setX r v).soft = c.soft := by unfold Core.setX; split <;> rfl
@[simp] theorem Core.setX_wordErr (r : XReg) (v : W64) : (c.setX r v).wordErr = c.wordErr := by unfold Core.setX; split <;> rfl
@[simp] theorem Core.setX_regBad (r : XReg) (v : W64) : (c.setX r v).regBad = c.regBad := by unfold Core.setX; split <;> rfl
@[simp] theorem Core.setX_fenceAt (r : XReg) (v : W64) : (c.setX r v).fenceAt = c.fenceAt := by unfold Core.setX; split <;> rfl
@[simp] theorem Core.setX_fencePos (r : XReg) (v : W64) : (c.setX r v).fencePos = c.fencePos := by unfold Core.setX; split <;> rfl
@[simp] theorem Core.setX_portSince (r : XReg) (v : W64) : (c.setX r v).portSince = c.portSince := by unfold Core.setX; split <;> rfl
@[simp] theorem Core.setG_loc (r : GReg) (b : Bool) : (c.setG r b).loc = c.loc := by unfold Core.setG; split <;> rfl
@[simp] theorem Core.setG_run (r : GReg) (b : Bool) : (c.setG r b).run = c.run := by unfold Core.setG; split <;> rfl
@[simp] theorem Core.setG_place (r : GReg) (b : Bool) : (c.setG r b).place = c.place := by unfold Core.setG; split <;> rfl
@[simp] theorem Core.setG_codeBase (r : GReg) (b : Bool) : (c.setG r b).codeBase = c.codeBase := by unfold Core.setG; split <;> rfl
@[simp] theorem Core.setG_codeLimit (r : GReg) (b : Bool) : (c.setG r b).codeLimit = c.codeLimit := by unfold Core.setG; split <;> rfl
@[simp] theorem Core.setG_pc (r : GReg) (b : Bool) : (c.setG r b).pc = c.pc := by unfold Core.setG; split <;> rfl
@[simp] theorem Core.setG_npc (r : GReg) (b : Bool) : (c.setG r b).npc = c.npc := by unfold Core.setG; split <;> rfl
@[simp] theorem Core.setG_ir (r : GReg) (b : Bool) : (c.setG r b).ir = c.ir := by unfold Core.setG; split <;> rfl
@[simp] theorem Core.setG_held (r : GReg) (b : Bool) : (c.setG r b).held = c.held := by unfold Core.setG; split <;> rfl
@[simp] theorem Core.setG_prog (r : GReg) (b : Bool) : (c.setG r b).prog = c.prog := by unfold Core.setG; split <;> rfl
@[simp] theorem Core.setG_x (r : GReg) (b : Bool) : (c.setG r b).x = c.x := by unfold Core.setG; split <;> rfl
@[simp] theorem Core.setG_v (r : GReg) (b : Bool) : (c.setG r b).v = c.v := by unfold Core.setG; split <;> rfl
@[simp] theorem Core.setG_m (r : GReg) (b : Bool) : (c.setG r b).m = c.m := by unfold Core.setG; split <;> rfl
@[simp] theorem Core.setG_bankfmt (r : GReg) (b : Bool) : (c.setG r b).bankfmt = c.bankfmt := by unfold Core.setG; split <;> rfl
@[simp] theorem Core.setG_sys (r : GReg) (b : Bool) : (c.setG r b).sys = c.sys := by unfold Core.setG; split <;> rfl
@[simp] theorem Core.setG_lmem (r : GReg) (b : Bool) : (c.setG r b).lmem = c.lmem := by unfold Core.setG; split <;> rfl
@[simp] theorem Core.setG_badLocal (r : GReg) (b : Bool) : (c.setG r b).badLocal = c.badLocal := by unfold Core.setG; split <;> rfl
@[simp] theorem Core.setG_streams (r : GReg) (b : Bool) : (c.setG r b).streams = c.streams := by unfold Core.setG; split <;> rfl
@[simp] theorem Core.setG_fifo (r : GReg) (b : Bool) : (c.setG r b).fifo = c.fifo := by unfold Core.setG; split <;> rfl
@[simp] theorem Core.setG_ports (r : GReg) (b : Bool) : (c.setG r b).ports = c.ports := by unfold Core.setG; split <;> rfl
@[simp] theorem Core.setG_rings (r : GReg) (b : Bool) : (c.setG r b).rings = c.rings := by unfold Core.setG; split <;> rfl
@[simp] theorem Core.setG_wins (r : GReg) (b : Bool) : (c.setG r b).wins = c.wins := by unfold Core.setG; split <;> rfl
@[simp] theorem Core.setG_ctrs (r : GReg) (b : Bool) : (c.setG r b).ctrs = c.ctrs := by unfold Core.setG; split <;> rfl
@[simp] theorem Core.setG_stashes (r : GReg) (b : Bool) : (c.setG r b).stashes = c.stashes := by unfold Core.setG; split <;> rfl
@[simp] theorem Core.setG_linebuf (r : GReg) (b : Bool) : (c.setG r b).linebuf = c.linebuf := by unfold Core.setG; split <;> rfl
@[simp] theorem Core.setG_mon (r : GReg) (b : Bool) : (c.setG r b).mon = c.mon := by unfold Core.setG; split <;> rfl
@[simp] theorem Core.setG_trig (r : GReg) (b : Bool) : (c.setG r b).trig = c.trig := by unfold Core.setG; split <;> rfl
@[simp] theorem Core.setG_bindings (r : GReg) (b : Bool) : (c.setG r b).bindings = c.bindings := by unfold Core.setG; split <;> rfl
@[simp] theorem Core.setG_homes (r : GReg) (b : Bool) : (c.setG r b).homes = c.homes := by unfold Core.setG; split <;> rfl
@[simp] theorem Core.setG_stage (r : GReg) (b : Bool) : (c.setG r b).stage = c.stage := by unfold Core.setG; split <;> rfl
@[simp] theorem Core.setG_gang (r : GReg) (b : Bool) : (c.setG r b).gang = c.gang := by unfold Core.setG; split <;> rfl
@[simp] theorem Core.setG_yielded (r : GReg) (b : Bool) : (c.setG r b).yielded = c.yielded := by unfold Core.setG; split <;> rfl
@[simp] theorem Core.setG_diverted (r : GReg) (b : Bool) : (c.setG r b).diverted = c.diverted := by unfold Core.setG; split <;> rfl
@[simp] theorem Core.setG_pos (r : GReg) (b : Bool) : (c.setG r b).pos = c.pos := by unfold Core.setG; split <;> rfl
@[simp] theorem Core.setG_pq (r : GReg) (b : Bool) : (c.setG r b).pq = c.pq := by unfold Core.setG; split <;> rfl
@[simp] theorem Core.setG_sb (r : GReg) (b : Bool) : (c.setG r b).sb = c.sb := by unfold Core.setG; split <;> rfl
@[simp] theorem Core.setG_sigs (r : GReg) (b : Bool) : (c.setG r b).sigs = c.sigs := by unfold Core.setG; split <;> rfl
@[simp] theorem Core.setG_cmds (r : GReg) (b : Bool) : (c.setG r b).cmds = c.cmds := by unfold Core.setG; split <;> rfl
@[simp] theorem Core.setG_cmdNo (r : GReg) (b : Bool) : (c.setG r b).cmdNo = c.cmdNo := by unfold Core.setG; split <;> rfl
@[simp] theorem Core.setG_logSeq (r : GReg) (b : Bool) : (c.setG r b).logSeq = c.logSeq := by unfold Core.setG; split <;> rfl
@[simp] theorem Core.setG_credits (r : GReg) (b : Bool) : (c.setG r b).credits = c.credits := by unfold Core.setG; split <;> rfl
@[simp] theorem Core.setG_tlb (r : GReg) (b : Bool) : (c.setG r b).tlb = c.tlb := by unfold Core.setG; split <;> rfl
@[simp] theorem Core.setG_walk (r : GReg) (b : Bool) : (c.setG r b).walk = c.walk := by unfold Core.setG; split <;> rfl
@[simp] theorem Core.setG_uncorrected (r : GReg) (b : Bool) : (c.setG r b).uncorrected = c.uncorrected := by unfold Core.setG; split <;> rfl
@[simp] theorem Core.setG_linkstall (r : GReg) (b : Bool) : (c.setG r b).linkstall = c.linkstall := by unfold Core.setG; split <;> rfl
@[simp] theorem Core.setG_barred (r : GReg) (b : Bool) : (c.setG r b).barred = c.barred := by unfold Core.setG; split <;> rfl
@[simp] theorem Core.setG_chanbroken (r : GReg) (b : Bool) : (c.setG r b).chanbroken = c.chanbroken := by unfold Core.setG; split <;> rfl
@[simp] theorem Core.setG_slowUntil (r : GReg) (b : Bool) : (c.setG r b).slowUntil = c.slowUntil := by unfold Core.setG; split <;> rfl
@[simp] theorem Core.setG_kept (r : GReg) (b : Bool) : (c.setG r b).kept = c.kept := by unfold Core.setG; split <;> rfl
@[simp] theorem Core.setG_inRep (r : GReg) (b : Bool) : (c.setG r b).inRep = c.inRep := by unfold Core.setG; split <;> rfl
@[simp] theorem Core.setG_captures (r : GReg) (b : Bool) : (c.setG r b).captures = c.captures := by unfold Core.setG; split <;> rfl
@[simp] theorem Core.setG_soft (r : GReg) (b : Bool) : (c.setG r b).soft = c.soft := by unfold Core.setG; split <;> rfl
@[simp] theorem Core.setG_wordErr (r : GReg) (b : Bool) : (c.setG r b).wordErr = c.wordErr := by unfold Core.setG; split <;> rfl
@[simp] theorem Core.setG_regBad (r : GReg) (b : Bool) : (c.setG r b).regBad = c.regBad := by unfold Core.setG; split <;> rfl
@[simp] theorem Core.setG_fenceAt (r : GReg) (b : Bool) : (c.setG r b).fenceAt = c.fenceAt := by unfold Core.setG; split <;> rfl
@[simp] theorem Core.setG_fencePos (r : GReg) (b : Bool) : (c.setG r b).fencePos = c.fencePos := by unfold Core.setG; split <;> rfl
@[simp] theorem Core.setG_portSince (r : GReg) (b : Bool) : (c.setG r b).portSince = c.portSince := by unfold Core.setG; split <;> rfl
@[simp] theorem Core.setM_loc (r : BitVec 3) (w : W64) : (c.setM r w).loc = c.loc := by unfold Core.setM; split <;> rfl
@[simp] theorem Core.setM_run (r : BitVec 3) (w : W64) : (c.setM r w).run = c.run := by unfold Core.setM; split <;> rfl
@[simp] theorem Core.setM_place (r : BitVec 3) (w : W64) : (c.setM r w).place = c.place := by unfold Core.setM; split <;> rfl
@[simp] theorem Core.setM_codeBase (r : BitVec 3) (w : W64) : (c.setM r w).codeBase = c.codeBase := by unfold Core.setM; split <;> rfl
@[simp] theorem Core.setM_codeLimit (r : BitVec 3) (w : W64) : (c.setM r w).codeLimit = c.codeLimit := by unfold Core.setM; split <;> rfl
@[simp] theorem Core.setM_pc (r : BitVec 3) (w : W64) : (c.setM r w).pc = c.pc := by unfold Core.setM; split <;> rfl
@[simp] theorem Core.setM_npc (r : BitVec 3) (w : W64) : (c.setM r w).npc = c.npc := by unfold Core.setM; split <;> rfl
@[simp] theorem Core.setM_ir (r : BitVec 3) (w : W64) : (c.setM r w).ir = c.ir := by unfold Core.setM; split <;> rfl
@[simp] theorem Core.setM_held (r : BitVec 3) (w : W64) : (c.setM r w).held = c.held := by unfold Core.setM; split <;> rfl
@[simp] theorem Core.setM_prog (r : BitVec 3) (w : W64) : (c.setM r w).prog = c.prog := by unfold Core.setM; split <;> rfl
@[simp] theorem Core.setM_x (r : BitVec 3) (w : W64) : (c.setM r w).x = c.x := by unfold Core.setM; split <;> rfl
@[simp] theorem Core.setM_g (r : BitVec 3) (w : W64) : (c.setM r w).g = c.g := by unfold Core.setM; split <;> rfl
@[simp] theorem Core.setM_v (r : BitVec 3) (w : W64) : (c.setM r w).v = c.v := by unfold Core.setM; split <;> rfl
@[simp] theorem Core.setM_bankfmt (r : BitVec 3) (w : W64) : (c.setM r w).bankfmt = c.bankfmt := by unfold Core.setM; split <;> rfl
@[simp] theorem Core.setM_sys (r : BitVec 3) (w : W64) : (c.setM r w).sys = c.sys := by unfold Core.setM; split <;> rfl
@[simp] theorem Core.setM_lmem (r : BitVec 3) (w : W64) : (c.setM r w).lmem = c.lmem := by unfold Core.setM; split <;> rfl
@[simp] theorem Core.setM_badLocal (r : BitVec 3) (w : W64) : (c.setM r w).badLocal = c.badLocal := by unfold Core.setM; split <;> rfl
@[simp] theorem Core.setM_streams (r : BitVec 3) (w : W64) : (c.setM r w).streams = c.streams := by unfold Core.setM; split <;> rfl
@[simp] theorem Core.setM_fifo (r : BitVec 3) (w : W64) : (c.setM r w).fifo = c.fifo := by unfold Core.setM; split <;> rfl
@[simp] theorem Core.setM_ports (r : BitVec 3) (w : W64) : (c.setM r w).ports = c.ports := by unfold Core.setM; split <;> rfl
@[simp] theorem Core.setM_rings (r : BitVec 3) (w : W64) : (c.setM r w).rings = c.rings := by unfold Core.setM; split <;> rfl
@[simp] theorem Core.setM_wins (r : BitVec 3) (w : W64) : (c.setM r w).wins = c.wins := by unfold Core.setM; split <;> rfl
@[simp] theorem Core.setM_ctrs (r : BitVec 3) (w : W64) : (c.setM r w).ctrs = c.ctrs := by unfold Core.setM; split <;> rfl
@[simp] theorem Core.setM_stashes (r : BitVec 3) (w : W64) : (c.setM r w).stashes = c.stashes := by unfold Core.setM; split <;> rfl
@[simp] theorem Core.setM_linebuf (r : BitVec 3) (w : W64) : (c.setM r w).linebuf = c.linebuf := by unfold Core.setM; split <;> rfl
@[simp] theorem Core.setM_mon (r : BitVec 3) (w : W64) : (c.setM r w).mon = c.mon := by unfold Core.setM; split <;> rfl
@[simp] theorem Core.setM_trig (r : BitVec 3) (w : W64) : (c.setM r w).trig = c.trig := by unfold Core.setM; split <;> rfl
@[simp] theorem Core.setM_bindings (r : BitVec 3) (w : W64) : (c.setM r w).bindings = c.bindings := by unfold Core.setM; split <;> rfl
@[simp] theorem Core.setM_homes (r : BitVec 3) (w : W64) : (c.setM r w).homes = c.homes := by unfold Core.setM; split <;> rfl
@[simp] theorem Core.setM_stage (r : BitVec 3) (w : W64) : (c.setM r w).stage = c.stage := by unfold Core.setM; split <;> rfl
@[simp] theorem Core.setM_gang (r : BitVec 3) (w : W64) : (c.setM r w).gang = c.gang := by unfold Core.setM; split <;> rfl
@[simp] theorem Core.setM_yielded (r : BitVec 3) (w : W64) : (c.setM r w).yielded = c.yielded := by unfold Core.setM; split <;> rfl
@[simp] theorem Core.setM_diverted (r : BitVec 3) (w : W64) : (c.setM r w).diverted = c.diverted := by unfold Core.setM; split <;> rfl
@[simp] theorem Core.setM_pos (r : BitVec 3) (w : W64) : (c.setM r w).pos = c.pos := by unfold Core.setM; split <;> rfl
@[simp] theorem Core.setM_pq (r : BitVec 3) (w : W64) : (c.setM r w).pq = c.pq := by unfold Core.setM; split <;> rfl
@[simp] theorem Core.setM_sb (r : BitVec 3) (w : W64) : (c.setM r w).sb = c.sb := by unfold Core.setM; split <;> rfl
@[simp] theorem Core.setM_sigs (r : BitVec 3) (w : W64) : (c.setM r w).sigs = c.sigs := by unfold Core.setM; split <;> rfl
@[simp] theorem Core.setM_cmds (r : BitVec 3) (w : W64) : (c.setM r w).cmds = c.cmds := by unfold Core.setM; split <;> rfl
@[simp] theorem Core.setM_cmdNo (r : BitVec 3) (w : W64) : (c.setM r w).cmdNo = c.cmdNo := by unfold Core.setM; split <;> rfl
@[simp] theorem Core.setM_logSeq (r : BitVec 3) (w : W64) : (c.setM r w).logSeq = c.logSeq := by unfold Core.setM; split <;> rfl
@[simp] theorem Core.setM_credits (r : BitVec 3) (w : W64) : (c.setM r w).credits = c.credits := by unfold Core.setM; split <;> rfl
@[simp] theorem Core.setM_tlb (r : BitVec 3) (w : W64) : (c.setM r w).tlb = c.tlb := by unfold Core.setM; split <;> rfl
@[simp] theorem Core.setM_walk (r : BitVec 3) (w : W64) : (c.setM r w).walk = c.walk := by unfold Core.setM; split <;> rfl
@[simp] theorem Core.setM_uncorrected (r : BitVec 3) (w : W64) : (c.setM r w).uncorrected = c.uncorrected := by unfold Core.setM; split <;> rfl
@[simp] theorem Core.setM_linkstall (r : BitVec 3) (w : W64) : (c.setM r w).linkstall = c.linkstall := by unfold Core.setM; split <;> rfl
@[simp] theorem Core.setM_barred (r : BitVec 3) (w : W64) : (c.setM r w).barred = c.barred := by unfold Core.setM; split <;> rfl
@[simp] theorem Core.setM_chanbroken (r : BitVec 3) (w : W64) : (c.setM r w).chanbroken = c.chanbroken := by unfold Core.setM; split <;> rfl
@[simp] theorem Core.setM_slowUntil (r : BitVec 3) (w : W64) : (c.setM r w).slowUntil = c.slowUntil := by unfold Core.setM; split <;> rfl
@[simp] theorem Core.setM_kept (r : BitVec 3) (w : W64) : (c.setM r w).kept = c.kept := by unfold Core.setM; split <;> rfl
@[simp] theorem Core.setM_inRep (r : BitVec 3) (w : W64) : (c.setM r w).inRep = c.inRep := by unfold Core.setM; split <;> rfl
@[simp] theorem Core.setM_captures (r : BitVec 3) (w : W64) : (c.setM r w).captures = c.captures := by unfold Core.setM; split <;> rfl
@[simp] theorem Core.setM_soft (r : BitVec 3) (w : W64) : (c.setM r w).soft = c.soft := by unfold Core.setM; split <;> rfl
@[simp] theorem Core.setM_wordErr (r : BitVec 3) (w : W64) : (c.setM r w).wordErr = c.wordErr := by unfold Core.setM; split <;> rfl
@[simp] theorem Core.setM_regBad (r : BitVec 3) (w : W64) : (c.setM r w).regBad = c.regBad := by unfold Core.setM; split <;> rfl
@[simp] theorem Core.setM_fenceAt (r : BitVec 3) (w : W64) : (c.setM r w).fenceAt = c.fenceAt := by unfold Core.setM; split <;> rfl
@[simp] theorem Core.setM_fencePos (r : BitVec 3) (w : W64) : (c.setM r w).fencePos = c.fencePos := by unfold Core.setM; split <;> rfl
@[simp] theorem Core.setM_portSince (r : BitVec 3) (w : W64) : (c.setM r w).portSince = c.portSince := by unfold Core.setM; split <;> rfl
@[simp] theorem Core.setV_loc (r : BitVec 5) (w : V512) : (c.setV r w).loc = c.loc := rfl
@[simp] theorem Core.setV_run (r : BitVec 5) (w : V512) : (c.setV r w).run = c.run := rfl
@[simp] theorem Core.setV_place (r : BitVec 5) (w : V512) : (c.setV r w).place = c.place := rfl
@[simp] theorem Core.setV_codeBase (r : BitVec 5) (w : V512) : (c.setV r w).codeBase = c.codeBase := rfl
@[simp] theorem Core.setV_codeLimit (r : BitVec 5) (w : V512) : (c.setV r w).codeLimit = c.codeLimit := rfl
@[simp] theorem Core.setV_pc (r : BitVec 5) (w : V512) : (c.setV r w).pc = c.pc := rfl
@[simp] theorem Core.setV_npc (r : BitVec 5) (w : V512) : (c.setV r w).npc = c.npc := rfl
@[simp] theorem Core.setV_ir (r : BitVec 5) (w : V512) : (c.setV r w).ir = c.ir := rfl
@[simp] theorem Core.setV_held (r : BitVec 5) (w : V512) : (c.setV r w).held = c.held := rfl
@[simp] theorem Core.setV_prog (r : BitVec 5) (w : V512) : (c.setV r w).prog = c.prog := rfl
@[simp] theorem Core.setV_x (r : BitVec 5) (w : V512) : (c.setV r w).x = c.x := rfl
@[simp] theorem Core.setV_g (r : BitVec 5) (w : V512) : (c.setV r w).g = c.g := rfl
@[simp] theorem Core.setV_m (r : BitVec 5) (w : V512) : (c.setV r w).m = c.m := rfl
@[simp] theorem Core.setV_bankfmt (r : BitVec 5) (w : V512) : (c.setV r w).bankfmt = c.bankfmt := rfl
@[simp] theorem Core.setV_sys (r : BitVec 5) (w : V512) : (c.setV r w).sys = c.sys := rfl
@[simp] theorem Core.setV_lmem (r : BitVec 5) (w : V512) : (c.setV r w).lmem = c.lmem := rfl
@[simp] theorem Core.setV_badLocal (r : BitVec 5) (w : V512) : (c.setV r w).badLocal = c.badLocal := rfl
@[simp] theorem Core.setV_streams (r : BitVec 5) (w : V512) : (c.setV r w).streams = c.streams := rfl
@[simp] theorem Core.setV_fifo (r : BitVec 5) (w : V512) : (c.setV r w).fifo = c.fifo := rfl
@[simp] theorem Core.setV_ports (r : BitVec 5) (w : V512) : (c.setV r w).ports = c.ports := rfl
@[simp] theorem Core.setV_rings (r : BitVec 5) (w : V512) : (c.setV r w).rings = c.rings := rfl
@[simp] theorem Core.setV_wins (r : BitVec 5) (w : V512) : (c.setV r w).wins = c.wins := rfl
@[simp] theorem Core.setV_ctrs (r : BitVec 5) (w : V512) : (c.setV r w).ctrs = c.ctrs := rfl
@[simp] theorem Core.setV_stashes (r : BitVec 5) (w : V512) : (c.setV r w).stashes = c.stashes := rfl
@[simp] theorem Core.setV_linebuf (r : BitVec 5) (w : V512) : (c.setV r w).linebuf = c.linebuf := rfl
@[simp] theorem Core.setV_mon (r : BitVec 5) (w : V512) : (c.setV r w).mon = c.mon := rfl
@[simp] theorem Core.setV_trig (r : BitVec 5) (w : V512) : (c.setV r w).trig = c.trig := rfl
@[simp] theorem Core.setV_bindings (r : BitVec 5) (w : V512) : (c.setV r w).bindings = c.bindings := rfl
@[simp] theorem Core.setV_homes (r : BitVec 5) (w : V512) : (c.setV r w).homes = c.homes := rfl
@[simp] theorem Core.setV_stage (r : BitVec 5) (w : V512) : (c.setV r w).stage = c.stage := rfl
@[simp] theorem Core.setV_gang (r : BitVec 5) (w : V512) : (c.setV r w).gang = c.gang := rfl
@[simp] theorem Core.setV_yielded (r : BitVec 5) (w : V512) : (c.setV r w).yielded = c.yielded := rfl
@[simp] theorem Core.setV_diverted (r : BitVec 5) (w : V512) : (c.setV r w).diverted = c.diverted := rfl
@[simp] theorem Core.setV_pos (r : BitVec 5) (w : V512) : (c.setV r w).pos = c.pos := rfl
@[simp] theorem Core.setV_pq (r : BitVec 5) (w : V512) : (c.setV r w).pq = c.pq := rfl
@[simp] theorem Core.setV_sb (r : BitVec 5) (w : V512) : (c.setV r w).sb = c.sb := rfl
@[simp] theorem Core.setV_sigs (r : BitVec 5) (w : V512) : (c.setV r w).sigs = c.sigs := rfl
@[simp] theorem Core.setV_cmds (r : BitVec 5) (w : V512) : (c.setV r w).cmds = c.cmds := rfl
@[simp] theorem Core.setV_cmdNo (r : BitVec 5) (w : V512) : (c.setV r w).cmdNo = c.cmdNo := rfl
@[simp] theorem Core.setV_logSeq (r : BitVec 5) (w : V512) : (c.setV r w).logSeq = c.logSeq := rfl
@[simp] theorem Core.setV_credits (r : BitVec 5) (w : V512) : (c.setV r w).credits = c.credits := rfl
@[simp] theorem Core.setV_tlb (r : BitVec 5) (w : V512) : (c.setV r w).tlb = c.tlb := rfl
@[simp] theorem Core.setV_walk (r : BitVec 5) (w : V512) : (c.setV r w).walk = c.walk := rfl
@[simp] theorem Core.setV_uncorrected (r : BitVec 5) (w : V512) : (c.setV r w).uncorrected = c.uncorrected := rfl
@[simp] theorem Core.setV_linkstall (r : BitVec 5) (w : V512) : (c.setV r w).linkstall = c.linkstall := rfl
@[simp] theorem Core.setV_barred (r : BitVec 5) (w : V512) : (c.setV r w).barred = c.barred := rfl
@[simp] theorem Core.setV_chanbroken (r : BitVec 5) (w : V512) : (c.setV r w).chanbroken = c.chanbroken := rfl
@[simp] theorem Core.setV_slowUntil (r : BitVec 5) (w : V512) : (c.setV r w).slowUntil = c.slowUntil := rfl
@[simp] theorem Core.setV_kept (r : BitVec 5) (w : V512) : (c.setV r w).kept = c.kept := rfl
@[simp] theorem Core.setV_inRep (r : BitVec 5) (w : V512) : (c.setV r w).inRep = c.inRep := rfl
@[simp] theorem Core.setV_captures (r : BitVec 5) (w : V512) : (c.setV r w).captures = c.captures := rfl
@[simp] theorem Core.setV_soft (r : BitVec 5) (w : V512) : (c.setV r w).soft = c.soft := rfl
@[simp] theorem Core.setV_wordErr (r : BitVec 5) (w : V512) : (c.setV r w).wordErr = c.wordErr := rfl
@[simp] theorem Core.setV_regBad (r : BitVec 5) (w : V512) : (c.setV r w).regBad = c.regBad := rfl
@[simp] theorem Core.setV_fenceAt (r : BitVec 5) (w : V512) : (c.setV r w).fenceAt = c.fenceAt := rfl
@[simp] theorem Core.setV_fencePos (r : BitVec 5) (w : V512) : (c.setV r w).fencePos = c.fencePos := rfl
@[simp] theorem Core.setV_portSince (r : BitVec 5) (w : V512) : (c.setV r w).portSince = c.portSince := rfl

/-! ## The end of an instruction -/

@[simp] theorem Core.jumpTo_pc (p : W64) : (c.jumpTo p).pc = p := rfl
@[simp] theorem Core.jumpTo_held (p : W64) : (c.jumpTo p).held = false := rfl
@[simp] theorem Core.jumpTo_prog (p : W64) : (c.jumpTo p).prog = none := rfl
@[simp] theorem Core.jumpTo_walk (p : W64) : (c.jumpTo p).walk = none := rfl
@[simp] theorem Core.jumpTo_loc (p : W64) : (c.jumpTo p).loc = c.loc := rfl
@[simp] theorem Core.jumpTo_run (p : W64) : (c.jumpTo p).run = c.run := rfl
@[simp] theorem Core.jumpTo_place (p : W64) : (c.jumpTo p).place = c.place := rfl
@[simp] theorem Core.jumpTo_codeBase (p : W64) : (c.jumpTo p).codeBase = c.codeBase := rfl
@[simp] theorem Core.jumpTo_codeLimit (p : W64) : (c.jumpTo p).codeLimit = c.codeLimit := rfl
@[simp] theorem Core.jumpTo_npc (p : W64) : (c.jumpTo p).npc = c.npc := rfl
@[simp] theorem Core.jumpTo_ir (p : W64) : (c.jumpTo p).ir = c.ir := rfl
@[simp] theorem Core.jumpTo_x (p : W64) : (c.jumpTo p).x = c.x := rfl
@[simp] theorem Core.jumpTo_g (p : W64) : (c.jumpTo p).g = c.g := rfl
@[simp] theorem Core.jumpTo_v (p : W64) : (c.jumpTo p).v = c.v := rfl
@[simp] theorem Core.jumpTo_m (p : W64) : (c.jumpTo p).m = c.m := rfl
@[simp] theorem Core.jumpTo_bankfmt (p : W64) : (c.jumpTo p).bankfmt = c.bankfmt := rfl
@[simp] theorem Core.jumpTo_sys (p : W64) : (c.jumpTo p).sys = c.sys := rfl
@[simp] theorem Core.jumpTo_lmem (p : W64) : (c.jumpTo p).lmem = c.lmem := rfl
@[simp] theorem Core.jumpTo_badLocal (p : W64) : (c.jumpTo p).badLocal = c.badLocal := rfl
@[simp] theorem Core.jumpTo_streams (p : W64) : (c.jumpTo p).streams = c.streams := rfl
@[simp] theorem Core.jumpTo_fifo (p : W64) : (c.jumpTo p).fifo = c.fifo := rfl
@[simp] theorem Core.jumpTo_ports (p : W64) : (c.jumpTo p).ports = c.ports := rfl
@[simp] theorem Core.jumpTo_rings (p : W64) : (c.jumpTo p).rings = c.rings := rfl
@[simp] theorem Core.jumpTo_wins (p : W64) : (c.jumpTo p).wins = c.wins := rfl
@[simp] theorem Core.jumpTo_ctrs (p : W64) : (c.jumpTo p).ctrs = c.ctrs := rfl
@[simp] theorem Core.jumpTo_stashes (p : W64) : (c.jumpTo p).stashes = c.stashes := rfl
@[simp] theorem Core.jumpTo_linebuf (p : W64) : (c.jumpTo p).linebuf = c.linebuf := rfl
@[simp] theorem Core.jumpTo_mon (p : W64) : (c.jumpTo p).mon = c.mon := rfl
@[simp] theorem Core.jumpTo_trig (p : W64) : (c.jumpTo p).trig = c.trig := rfl
@[simp] theorem Core.jumpTo_bindings (p : W64) : (c.jumpTo p).bindings = c.bindings := rfl
@[simp] theorem Core.jumpTo_homes (p : W64) : (c.jumpTo p).homes = c.homes := rfl
@[simp] theorem Core.jumpTo_stage (p : W64) : (c.jumpTo p).stage = c.stage := rfl
@[simp] theorem Core.jumpTo_gang (p : W64) : (c.jumpTo p).gang = c.gang := rfl
@[simp] theorem Core.jumpTo_yielded (p : W64) : (c.jumpTo p).yielded = c.yielded := rfl
@[simp] theorem Core.jumpTo_diverted (p : W64) : (c.jumpTo p).diverted = c.diverted := rfl
@[simp] theorem Core.jumpTo_pos (p : W64) : (c.jumpTo p).pos = c.pos := rfl
@[simp] theorem Core.jumpTo_pq (p : W64) : (c.jumpTo p).pq = c.pq := rfl
@[simp] theorem Core.jumpTo_sb (p : W64) : (c.jumpTo p).sb = c.sb := rfl
@[simp] theorem Core.jumpTo_sigs (p : W64) : (c.jumpTo p).sigs = c.sigs := rfl
@[simp] theorem Core.jumpTo_cmds (p : W64) : (c.jumpTo p).cmds = c.cmds := rfl
@[simp] theorem Core.jumpTo_cmdNo (p : W64) : (c.jumpTo p).cmdNo = c.cmdNo := rfl
@[simp] theorem Core.jumpTo_logSeq (p : W64) : (c.jumpTo p).logSeq = c.logSeq := rfl
@[simp] theorem Core.jumpTo_credits (p : W64) : (c.jumpTo p).credits = c.credits := rfl
@[simp] theorem Core.jumpTo_tlb (p : W64) : (c.jumpTo p).tlb = c.tlb := rfl
@[simp] theorem Core.jumpTo_uncorrected (p : W64) : (c.jumpTo p).uncorrected = c.uncorrected := rfl
@[simp] theorem Core.jumpTo_linkstall (p : W64) : (c.jumpTo p).linkstall = c.linkstall := rfl
@[simp] theorem Core.jumpTo_barred (p : W64) : (c.jumpTo p).barred = c.barred := rfl
@[simp] theorem Core.jumpTo_chanbroken (p : W64) : (c.jumpTo p).chanbroken = c.chanbroken := rfl
@[simp] theorem Core.jumpTo_slowUntil (p : W64) : (c.jumpTo p).slowUntil = c.slowUntil := rfl
@[simp] theorem Core.jumpTo_kept (p : W64) : (c.jumpTo p).kept = c.kept := rfl
@[simp] theorem Core.jumpTo_inRep (p : W64) : (c.jumpTo p).inRep = c.inRep := rfl
@[simp] theorem Core.jumpTo_captures (p : W64) : (c.jumpTo p).captures = c.captures := rfl
@[simp] theorem Core.jumpTo_soft (p : W64) : (c.jumpTo p).soft = c.soft := rfl
@[simp] theorem Core.jumpTo_wordErr (p : W64) : (c.jumpTo p).wordErr = c.wordErr := rfl
@[simp] theorem Core.jumpTo_regBad (p : W64) : (c.jumpTo p).regBad = c.regBad := rfl
@[simp] theorem Core.jumpTo_fenceAt (p : W64) : (c.jumpTo p).fenceAt = c.fenceAt := rfl
@[simp] theorem Core.jumpTo_fencePos (p : W64) : (c.jumpTo p).fencePos = c.fencePos := rfl
@[simp] theorem Core.jumpTo_portSince (p : W64) : (c.jumpTo p).portSince = none := rfl
@[simp] theorem Core.repNext_loc : c.repNext.loc = c.loc := by unfold Core.repNext; split <;> first | rfl | (split <;> rfl)
@[simp] theorem Core.repNext_run : c.repNext.run = c.run := by unfold Core.repNext; split <;> first | rfl | (split <;> rfl)
@[simp] theorem Core.repNext_place : c.repNext.place = c.place := by unfold Core.repNext; split <;> first | rfl | (split <;> rfl)
@[simp] theorem Core.repNext_codeBase : c.repNext.codeBase = c.codeBase := by unfold Core.repNext; split <;> first | rfl | (split <;> rfl)
@[simp] theorem Core.repNext_codeLimit : c.repNext.codeLimit = c.codeLimit := by unfold Core.repNext; split <;> first | rfl | (split <;> rfl)
@[simp] theorem Core.repNext_npc : c.repNext.npc = c.npc := by unfold Core.repNext; split <;> first | rfl | (split <;> rfl)
@[simp] theorem Core.repNext_ir : c.repNext.ir = c.ir := by unfold Core.repNext; split <;> first | rfl | (split <;> rfl)
@[simp] theorem Core.repNext_held : c.repNext.held = c.held := by unfold Core.repNext; split <;> first | rfl | (split <;> rfl)
@[simp] theorem Core.repNext_prog : c.repNext.prog = c.prog := by unfold Core.repNext; split <;> first | rfl | (split <;> rfl)
@[simp] theorem Core.repNext_x : c.repNext.x = c.x := by unfold Core.repNext; split <;> first | rfl | (split <;> rfl)
@[simp] theorem Core.repNext_g : c.repNext.g = c.g := by unfold Core.repNext; split <;> first | rfl | (split <;> rfl)
@[simp] theorem Core.repNext_v : c.repNext.v = c.v := by unfold Core.repNext; split <;> first | rfl | (split <;> rfl)
@[simp] theorem Core.repNext_m : c.repNext.m = c.m := by unfold Core.repNext; split <;> first | rfl | (split <;> rfl)
@[simp] theorem Core.repNext_bankfmt : c.repNext.bankfmt = c.bankfmt := by unfold Core.repNext; split <;> first | rfl | (split <;> rfl)
@[simp] theorem Core.repNext_lmem : c.repNext.lmem = c.lmem := by unfold Core.repNext; split <;> first | rfl | (split <;> rfl)
@[simp] theorem Core.repNext_badLocal : c.repNext.badLocal = c.badLocal := by unfold Core.repNext; split <;> first | rfl | (split <;> rfl)
@[simp] theorem Core.repNext_streams : c.repNext.streams = c.streams := by unfold Core.repNext; split <;> first | rfl | (split <;> rfl)
@[simp] theorem Core.repNext_fifo : c.repNext.fifo = c.fifo := by unfold Core.repNext; split <;> first | rfl | (split <;> rfl)
@[simp] theorem Core.repNext_ports : c.repNext.ports = c.ports := by unfold Core.repNext; split <;> first | rfl | (split <;> rfl)
@[simp] theorem Core.repNext_rings : c.repNext.rings = c.rings := by unfold Core.repNext; split <;> first | rfl | (split <;> rfl)
@[simp] theorem Core.repNext_wins : c.repNext.wins = c.wins := by unfold Core.repNext; split <;> first | rfl | (split <;> rfl)
@[simp] theorem Core.repNext_ctrs : c.repNext.ctrs = c.ctrs := by unfold Core.repNext; split <;> first | rfl | (split <;> rfl)
@[simp] theorem Core.repNext_stashes : c.repNext.stashes = c.stashes := by unfold Core.repNext; split <;> first | rfl | (split <;> rfl)
@[simp] theorem Core.repNext_linebuf : c.repNext.linebuf = c.linebuf := by unfold Core.repNext; split <;> first | rfl | (split <;> rfl)
@[simp] theorem Core.repNext_mon : c.repNext.mon = c.mon := by unfold Core.repNext; split <;> first | rfl | (split <;> rfl)
@[simp] theorem Core.repNext_trig : c.repNext.trig = c.trig := by unfold Core.repNext; split <;> first | rfl | (split <;> rfl)
@[simp] theorem Core.repNext_bindings : c.repNext.bindings = c.bindings := by unfold Core.repNext; split <;> first | rfl | (split <;> rfl)
@[simp] theorem Core.repNext_homes : c.repNext.homes = c.homes := by unfold Core.repNext; split <;> first | rfl | (split <;> rfl)
@[simp] theorem Core.repNext_stage : c.repNext.stage = c.stage := by unfold Core.repNext; split <;> first | rfl | (split <;> rfl)
@[simp] theorem Core.repNext_gang : c.repNext.gang = c.gang := by unfold Core.repNext; split <;> first | rfl | (split <;> rfl)
@[simp] theorem Core.repNext_yielded : c.repNext.yielded = c.yielded := by unfold Core.repNext; split <;> first | rfl | (split <;> rfl)
@[simp] theorem Core.repNext_diverted : c.repNext.diverted = c.diverted := by unfold Core.repNext; split <;> first | rfl | (split <;> rfl)
@[simp] theorem Core.repNext_pos : c.repNext.pos = c.pos := by unfold Core.repNext; split <;> first | rfl | (split <;> rfl)
@[simp] theorem Core.repNext_pq : c.repNext.pq = c.pq := by unfold Core.repNext; split <;> first | rfl | (split <;> rfl)
@[simp] theorem Core.repNext_sb : c.repNext.sb = c.sb := by unfold Core.repNext; split <;> first | rfl | (split <;> rfl)
@[simp] theorem Core.repNext_sigs : c.repNext.sigs = c.sigs := by unfold Core.repNext; split <;> first | rfl | (split <;> rfl)
@[simp] theorem Core.repNext_cmds : c.repNext.cmds = c.cmds := by unfold Core.repNext; split <;> first | rfl | (split <;> rfl)
@[simp] theorem Core.repNext_cmdNo : c.repNext.cmdNo = c.cmdNo := by unfold Core.repNext; split <;> first | rfl | (split <;> rfl)
@[simp] theorem Core.repNext_logSeq : c.repNext.logSeq = c.logSeq := by unfold Core.repNext; split <;> first | rfl | (split <;> rfl)
@[simp] theorem Core.repNext_credits : c.repNext.credits = c.credits := by unfold Core.repNext; split <;> first | rfl | (split <;> rfl)
@[simp] theorem Core.repNext_tlb : c.repNext.tlb = c.tlb := by unfold Core.repNext; split <;> first | rfl | (split <;> rfl)
@[simp] theorem Core.repNext_walk : c.repNext.walk = c.walk := by unfold Core.repNext; split <;> first | rfl | (split <;> rfl)
@[simp] theorem Core.repNext_uncorrected : c.repNext.uncorrected = c.uncorrected := by unfold Core.repNext; split <;> first | rfl | (split <;> rfl)
@[simp] theorem Core.repNext_linkstall : c.repNext.linkstall = c.linkstall := by unfold Core.repNext; split <;> first | rfl | (split <;> rfl)
@[simp] theorem Core.repNext_barred : c.repNext.barred = c.barred := by unfold Core.repNext; split <;> first | rfl | (split <;> rfl)
@[simp] theorem Core.repNext_chanbroken : c.repNext.chanbroken = c.chanbroken := by unfold Core.repNext; split <;> first | rfl | (split <;> rfl)
@[simp] theorem Core.repNext_slowUntil : c.repNext.slowUntil = c.slowUntil := by unfold Core.repNext; split <;> first | rfl | (split <;> rfl)
@[simp] theorem Core.repNext_kept : c.repNext.kept = c.kept := by unfold Core.repNext; split <;> first | rfl | (split <;> rfl)
@[simp] theorem Core.repNext_captures : c.repNext.captures = c.captures := by unfold Core.repNext; split <;> first | rfl | (split <;> rfl)
@[simp] theorem Core.repNext_soft : c.repNext.soft = c.soft := by unfold Core.repNext; split <;> first | rfl | (split <;> rfl)
@[simp] theorem Core.repNext_wordErr : c.repNext.wordErr = c.wordErr := by unfold Core.repNext; split <;> first | rfl | (split <;> rfl)
@[simp] theorem Core.repNext_regBad : c.repNext.regBad = c.regBad := by unfold Core.repNext; split <;> first | rfl | (split <;> rfl)
@[simp] theorem Core.repNext_fenceAt : c.repNext.fenceAt = c.fenceAt := by unfold Core.repNext; split <;> first | rfl | (split <;> rfl)
@[simp] theorem Core.repNext_fencePos : c.repNext.fencePos = c.fencePos := by unfold Core.repNext; split <;> first | rfl | (split <;> rfl)
@[simp] theorem Core.repNext_portSince : c.repNext.portSince = c.portSince := by unfold Core.repNext; split <;> first | rfl | (split <;> rfl)
@[simp] theorem Core.advance_held : c.advance.held = false := rfl
@[simp] theorem Core.advance_prog : c.advance.prog = none := rfl
@[simp] theorem Core.advance_walk : c.advance.walk = none := rfl
@[simp] theorem Core.advance_loc : c.advance.loc = c.loc := by unfold Core.advance; split <;> simp
@[simp] theorem Core.advance_run : c.advance.run = c.run := by unfold Core.advance; split <;> simp
@[simp] theorem Core.advance_place : c.advance.place = c.place := by unfold Core.advance; split <;> simp
@[simp] theorem Core.advance_codeBase : c.advance.codeBase = c.codeBase := by unfold Core.advance; split <;> simp
@[simp] theorem Core.advance_codeLimit : c.advance.codeLimit = c.codeLimit := by unfold Core.advance; split <;> simp
@[simp] theorem Core.advance_npc : c.advance.npc = c.npc := by unfold Core.advance; split <;> simp
@[simp] theorem Core.advance_ir : c.advance.ir = c.ir := by unfold Core.advance; split <;> simp
@[simp] theorem Core.advance_x : c.advance.x = c.x := by unfold Core.advance; split <;> simp
@[simp] theorem Core.advance_g : c.advance.g = c.g := by unfold Core.advance; split <;> simp
@[simp] theorem Core.advance_v : c.advance.v = c.v := by unfold Core.advance; split <;> simp
@[simp] theorem Core.advance_m : c.advance.m = c.m := by unfold Core.advance; split <;> simp
@[simp] theorem Core.advance_bankfmt : c.advance.bankfmt = c.bankfmt := by unfold Core.advance; split <;> simp
@[simp] theorem Core.advance_lmem : c.advance.lmem = c.lmem := by unfold Core.advance; split <;> simp
@[simp] theorem Core.advance_badLocal : c.advance.badLocal = c.badLocal := by unfold Core.advance; split <;> simp
@[simp] theorem Core.advance_streams : c.advance.streams = c.streams := by unfold Core.advance; split <;> simp
@[simp] theorem Core.advance_fifo : c.advance.fifo = c.fifo := by unfold Core.advance; split <;> simp
@[simp] theorem Core.advance_ports : c.advance.ports = c.ports := by unfold Core.advance; split <;> simp
@[simp] theorem Core.advance_rings : c.advance.rings = c.rings := by unfold Core.advance; split <;> simp
@[simp] theorem Core.advance_wins : c.advance.wins = c.wins := by unfold Core.advance; split <;> simp
@[simp] theorem Core.advance_ctrs : c.advance.ctrs = c.ctrs := by unfold Core.advance; split <;> simp
@[simp] theorem Core.advance_stashes : c.advance.stashes = c.stashes := by unfold Core.advance; split <;> simp
@[simp] theorem Core.advance_linebuf : c.advance.linebuf = c.linebuf := by unfold Core.advance; split <;> simp
@[simp] theorem Core.advance_mon : c.advance.mon = c.mon := by unfold Core.advance; split <;> simp
@[simp] theorem Core.advance_trig : c.advance.trig = c.trig := by unfold Core.advance; split <;> simp
@[simp] theorem Core.advance_bindings : c.advance.bindings = c.bindings := by unfold Core.advance; split <;> simp
@[simp] theorem Core.advance_homes : c.advance.homes = c.homes := by unfold Core.advance; split <;> simp
@[simp] theorem Core.advance_stage : c.advance.stage = c.stage := by unfold Core.advance; split <;> simp
@[simp] theorem Core.advance_gang : c.advance.gang = c.gang := by unfold Core.advance; split <;> simp
@[simp] theorem Core.advance_yielded : c.advance.yielded = c.yielded := by unfold Core.advance; split <;> simp
@[simp] theorem Core.advance_diverted : c.advance.diverted = c.diverted := by unfold Core.advance; split <;> simp
@[simp] theorem Core.advance_pos : c.advance.pos = c.pos := by unfold Core.advance; split <;> simp
@[simp] theorem Core.advance_pq : c.advance.pq = c.pq := by unfold Core.advance; split <;> simp
@[simp] theorem Core.advance_sb : c.advance.sb = c.sb := by unfold Core.advance; split <;> simp
@[simp] theorem Core.advance_sigs : c.advance.sigs = c.sigs := by unfold Core.advance; split <;> simp
@[simp] theorem Core.advance_cmds : c.advance.cmds = c.cmds := by unfold Core.advance; split <;> simp
@[simp] theorem Core.advance_cmdNo : c.advance.cmdNo = c.cmdNo := by unfold Core.advance; split <;> simp
@[simp] theorem Core.advance_logSeq : c.advance.logSeq = c.logSeq := by unfold Core.advance; split <;> simp
@[simp] theorem Core.advance_credits : c.advance.credits = c.credits := by unfold Core.advance; split <;> simp
@[simp] theorem Core.advance_tlb : c.advance.tlb = c.tlb := by unfold Core.advance; split <;> simp
@[simp] theorem Core.advance_uncorrected : c.advance.uncorrected = c.uncorrected := by unfold Core.advance; split <;> simp
@[simp] theorem Core.advance_linkstall : c.advance.linkstall = c.linkstall := by unfold Core.advance; split <;> simp
@[simp] theorem Core.advance_barred : c.advance.barred = c.barred := by unfold Core.advance; split <;> simp
@[simp] theorem Core.advance_chanbroken : c.advance.chanbroken = c.chanbroken := by unfold Core.advance; split <;> simp
@[simp] theorem Core.advance_slowUntil : c.advance.slowUntil = c.slowUntil := by unfold Core.advance; split <;> simp
@[simp] theorem Core.advance_captures : c.advance.captures = c.captures := by unfold Core.advance; split <;> simp
@[simp] theorem Core.advance_soft : c.advance.soft = c.soft := by unfold Core.advance; split <;> simp
@[simp] theorem Core.advance_wordErr : c.advance.wordErr = c.wordErr := by unfold Core.advance; split <;> simp
@[simp] theorem Core.advance_regBad : c.advance.regBad = c.regBad := by unfold Core.advance; split <;> simp
@[simp] theorem Core.advance_fenceAt : c.advance.fenceAt = c.fenceAt := by unfold Core.advance; split <;> simp
@[simp] theorem Core.advance_fencePos : c.advance.fencePos = c.fencePos := by unfold Core.advance; split <;> simp
@[simp] theorem Core.advance_portSince : c.advance.portSince = none := by unfold Core.advance; split <;> simp
@[simp] theorem Core.advance_kept : c.advance.kept = none := by unfold Core.advance; split <;> simp

/-- Going on changes no system register but the position in a repetition block (R201, R203). -/
theorem Core.advance_sys : c.advance.sys = { c.sys with repstate := c.advance.sys.repstate } := by
  cases c with | mk => unfold Core.advance Core.repNext; repeat' (first | rfl | split)

end Sys2Proof.Machine
end

