-- ==== Sys2Proof/Tests/Slice0.lean ====
section
/-! SUPPORT. Sys2Proof/Tests/Slice0.lean: the model's own tests: ill-formed terms that WellFormed refuses, words decoded as the encodings
of spec/ give them, single steps against values worked out by hand from spec/, and for each statement with hypotheses a concrete state
and operands that meet them. -/

namespace Sys2Proof.Tests

set_option Elab.async false

open Sys2Proof.Machine

/-! ## Small states -/

/-- A core that runs a thread of one plot of one core, at a line of its own (Place.lean), its next instruction `ws`. -/
def placed (ws : List Half) : State := State.reset.placeWords ws

/-- Such a machine about to execute an instruction, what the thread holds changed by `f`. -/
def st (f : Core → Core) : State := (placed [0x0000]).onCore fun c => f { c with npc := 0x40004 }

/-- Its x registers set. -/
def regs (l : List (XReg × W64)) : State := st fun c => l.foldl (fun (c : Core) p => c.setX p.1 p.2) c

/-- The control core, running. -/
def control (f : Core → Core) : State := (placed [0x3100]).onCore f

/-- A slice core in an invocation of its handler. -/
def inSlice (f : Invocation → Invocation) : State :=
  (placed [0x6C40, 0x0000]).modSlice 0 fun q => { q with inv := q.inv.map f }

def locAt (x y : Nat) : Loc := { kind := .compute, die := 0, x := x, y := y }

/-- The plot made two cores wide: the second core's thread is `f` of the first's. -/
def pair (f : Core → Core) (s : State) : State :=
  { s with
    cores := [f { s.core with loc := locAt 1 0, place := s.core.place.map fun p => { p with px := 1 } }]
    launches := s.launches.map fun l => { l with cmd := { l.cmd with w := 2 } } }

def isNext (o : Host.Outcome State Fault Refusal) : Bool := match o with | .next _ => true | _ => false

/-- What a next state says; `d` where there is none. -/
def after (d : α) (f : State → α) (o : Host.Outcome State Fault Refusal) : α := match o with | .next t => f t | _ => d

/-- x register `r` after an instruction. -/
def xAfter (i : Instr) (s : State) (r : XReg) : Option W64 := after none (fun t => some (t.x r)) (exec i s)
def gAfter (i : Instr) (s : State) (r : GReg) : Option Bool := after none (fun t => some (t.core.getG r)) (exec i s)
def vAfter (i : Instr) (s : State) (r : BitVec 5) : Option V512 := after none (fun t => some (t.core.getV r)) (exec i s)
/-- The trap an instruction takes to the supervisor: its code and XINFO2. -/
def trapOf (i : Instr) (s : State) : Option (W64 × W64) :=
  after none (fun t => if t.core.run = .stopped then some (t.core.sys.xcause, t.core.sys.xinfo[2]) else none) (exec i s)
/-- The PC after it. -/
def pcAfter (i : Instr) (s : State) : Option W64 := after none (fun t => some t.core.pc) (exec i s)
/-- Whether it is held. -/
def holds (i : Instr) (s : State) : Bool := after false (fun t => t.core.held) (exec i s)

/-! ## Ill-formed terms (R97, R172, R174, R178, R180, R181, R192, R200, R380, R399) -/

/-- One ill-formed term for each check on operands, each at the boundary the check draws. -/
theorem test_wf_refuses_fields :
    ([.bfx 1 2 0 0 none, .bfx 1 2 2 63 none, .bfxs 1 2 63 2 none, .bfi 1 2 3 0 0 none, .vabs .null .null .n32 ⟨0, false⟩ none,
      .vneg .null .null .n8 ⟨0, false⟩ none, .vadds .null .null .null .f32 ⟨0, false⟩ none, .vsubs .null .null .null .bf16 ⟨0, false⟩ none,
      .vshl .null .null .null .f16 ⟨0, false⟩ none, .vshr .null .null .null .f32 ⟨0, false⟩ none,
      .vsar .null .null .null .bf16 ⟨0, false⟩ none, .vcvt .null .null 1 0 (.ty .f32) (.ty .f16) .rne false none,
      .vcvt .null .null 0 2 (.ty .f32) (.ty .f16) .rne false none, .vredadd 1 .null .rs .f32 0 none,
      .vscanadd .null .null 1 .rs .f32 ⟨0, false⟩ none, .visect (.link .w) 1 2 3 0 none, .rep 1 0 0 none, .rep 1 17 0 none,
      .sysWr 1 .cycle none, .sysWr 1 .cecnt none, .ldred 31 1 2 3 0 true false none] : List Instr).all (fun i => !i.wf) = true := by
  decide

/-- The neighbours of those boundaries are well formed. -/
theorem test_wf_accepts_fields :
    ([.bfx 1 2 1 63 none, .bfx 1 2 63 1 none, .bfxs 1 2 0 1 none, .bfi 1 2 3 32 32 none, .vabs .null .null .i8 ⟨0, false⟩ none,
      .vadds .null .null .null .n8 ⟨0, false⟩ none, .vshl .null .null .null .i32 ⟨0, false⟩ none,
      .vcvt .null .null 0 1 (.ty .f32) (.ty .f16) .rs true none, .vredadd 1 .null .rd .f32 0 none, .visect .null 1 2 3 0 none,
      .rep 1 1 0 none, .rep 1 16 31 none, .sysWr 1 .status none, .ldred 30 1 2 3 0 true false none, .ldred 31 1 2 3 0 true true none] :
        List Instr).all (fun i => i.wf) = true := by
  decide

/-- One event for each check, naming a unit that does not exist. -/
theorem test_wf_refuses_events :
    Instr.wf (.fp6Assist (locAt 18 0)) = false ∧ Instr.wf (.loadSatisfy { kind := .slice, die := 0, x := 16, y := 0 } 0) = false ∧
    Instr.wf (.logCreditGrant (locAt 0 0) 64) = false ∧ Instr.wf (.dieBufferDrain 4 0) = false ∧
    Instr.wf (.mgmtRetrainChannel 0 12) = false ∧ Instr.wf (.mgmtRetrainBramble 1 1) = false ∧
    Instr.wf (.sliceRequestBegin 64) = false ∧ Instr.wf (.waymaskDrain 0 64) = false ∧ Instr.wf (.eventActivate 0 65536) = false ∧
    Instr.wf (.launchDequeue 0 16) = false ∧ Instr.wf (.flr 64) = false ∧ Instr.wf (.evsigWrite 0 65536 0) = false ∧
    Instr.wf (.irqpendWrite (some 64) 0) = false ∧ Instr.wf (.quinceKeysLoaded 4 0) = false ∧ Instr.wf (.peerWrite 0 0 0) = false ∧
    Instr.wf (.granuleOwnerWrite 4096 0) = false ∧ Instr.wf (.brambleRetrain 4) = false := by
  decide

/-! ## Words of the spec's listings and encodings -/

def dec (k : CoreKind) (ws : List Half) : Option Instr :=
  match ws with
  | h :: t => (decode k h t).toOption
  | [] => none

/-- Scalar words, from the listings of R45 and R116 and the worked cases of the later chapters. -/
theorem test_decode_scalar :
    dec .compute [0x0000] = some (.nop none) ∧ dec .compute [0x0040] = some (.halt 0 none) ∧
    dec .compute [0x4041, 0x0009] = some (.halt 1 (some 9)) ∧ dec .compute [0x4141, 0x0004] = some (.li 1 4 none) ∧
    dec .compute [0x4082, 0x00C2] = some (.add false 2 3 2 none) ∧ dec .compute [0x4781, 0xFFFF] = some (.loop 1 0xFFFF none) ∧
    dec .compute [0x8301, 0x0002, 0x0014] = some (.cmpi 1 .eq 2 20 none) ∧ dec .compute [0x8107, 0x4006, 0x0003] = some (.shli 7 6 3 none) ∧
    dec .compute [0x42C3, 0x2207] = some (.cmp 3 .lt 8 7 none) ∧ dec .compute [0x41C3, 0x3001] = some (.div 3 0 1 none) ∧
    dec .compute [0x8187, 0x1000, 0x0028] = some (.lic 7 0 1 0x28 none) ∧ dec .compute [0x824B, 0x0009, 0x0148] = some (.bfx 11 9 8 5 none) := by
  decide

theorem test_decode_scalar_more :
    dec .compute [0x8700, 0x0002, 0x0000] = some (.call 2 none) ∧ dec .compute [0x4740, 0x001F] = some (.jr 31 none) ∧
    dec .compute [0x8649, 0x0001, 0x0016] = some (.fcvt 9 1 .i64 .f32 .rne false none) ∧
    dec .compute [0x864B, 0x000A, 0x0046] = some (.fcvt 11 10 .i64 .e4m3 .rne false none) ∧
    dec .compute [0x84C6, 0x300B, 0x0000] = some (.st 6 11 .s64 0 none) ∧ dec .compute [0x848E, 0x300D, 0x0000] = some (.ld 14 13 .n64 0 none) ∧
    dec .compute [0x840A, 0x2007, 0x0000] = some (.ldl 10 7 .n32 0 none) ∧ dec .compute [0x4689, 0x001A] = some (.br 9 0x1A none) ∧
    dec .compute [0xC107, 0x4006, 0x0001, 0x0001] = some (.shli 7 6 1 (some 1)) := by
  decide

/-- Vector words: the listings of R66, R204 and the worked case of VISECT. -/
theorem test_decode_vector :
    dec .compute [0xD044, 0x0081, 0x0043, 0x01B2] = some (.vfma (.reg 4) (.reg 3) (.reg 2) (.reg 1) .f32 ⟨1, false⟩ (some 0x01B2)) ∧
    dec .compute [0x5564, 0x0001] = some (.scfgRead 0 1 none) ∧ dec .compute [0x9500, 0x0002, 0x0021] = some (.rep 2 1 1 none) ∧
    dec .compute [0x54C0, 0x0024] = some (.vmov (.reg 0) (.stream 0) none) ∧
    dec .compute [0x9004, 0x0040, 0x3000] = some (.vadd (.reg 4) (.reg 1) (.reg 0) .i32 ⟨0, false⟩ none) ∧
    dec .compute [0x91C3, 0x0004, 0x3000] = some (.vredadd 3 (.reg 4) .rne .i32 0 none) ∧
    dec .compute [0x92E2, 0x0007, 0x1000] = some (.vldl (.link .e) 7 (.ty .f16) 0 none) := by
  decide

/-- Parallel and memory words: the listings of the barrier, staged-loop and publication worked cases. -/
theorem test_decode_parallel_memory :
    dec .compute [0x5C05, 0x2000] = some (.whocore 5 none) ∧ dec .compute [0x5CC0, 0x0248] = some (.barInit 9 8 none) ∧
    dec .compute [0x5CC0, 0x3008] = some (.barSync 8 none) ∧ dec .compute [0x5D85, 0x0009] = some (.stageNext 5 9 none) ∧
    dec .compute [0x9D80, 0x100C, 0x0001] = some (.stageAdv 12 (some 1)) ∧ dec .compute [0x5D80, 0x3000] = some (.stageEnd none) ∧
    dec .compute [0xA0CA, 0x024B, 0x30C0] = some (.amo .add 10 9 11 true .relaxed .dev none) ∧
    dec .compute [0xA049, 0x0007, 0x3040] = some (.strl 9 7 .s64 .plot none) ∧ dec .compute [0x6180, 0x0007] = some (.monarm 7 none) ∧
    dec .compute [0xA00C, 0x0007, 0x3040] = some (.lda 12 7 .n64 .plot none) ∧ dec .compute [0x6180, 0x1000] = some (.mwait 0 0 none) ∧
    dec .compute [0x6281, 0x0206] = some (.winInit 1 8 6 none) ∧ dec .compute [0x6287, 0x3001] = some (.winFront 7 1 none) := by
  decide

/-- Engine and system words: the listings of the contract, KEYQ, trap-handler and reduction worked cases, and the heads that the
entries give. -/
theorem test_decode_engine_system :
    dec .compute [0xA802, 0x0005, 0x0000] = some (.lnkOpen .e 5 0 0 0 none) ∧ dec .compute [0xA800, 0x1000, 0x0000] = some (.lnkClose .w none) ∧
    dec .compute [0xA800, 0x2001, 0x0000] = some (.lnkWait 1 none) ∧ dec .slice [0x2C40] = some (.sfma none) ∧
    dec .compute [0x3000] = some (.eret none) ∧ dec .control [0x3100] = some (.wfi none) ∧
    dec .control [0x7080, 0x2000] = some (.tlbinvAll none) := by
  decide

/-- Words that are no instruction, one for each step of R65: no opcode, a tail too long, a slice opcode on a compute core, a member, an
operand code, a must-be-zero field; and NOP with D = 1 (R23). -/
theorem test_decode_illegal :
    ([(0x3FC0, []), (0xC141, [0, 0, 0]), (0x2C40, []), (0x4082, [0xE0C2]), (0x40A0, [0x00C2]), (0x8107, [0x4046, 0x0003]),
      (0x0001, [])] : List (Half × List Half)).map
      (fun w => match decode .compute w.1 w.2 with | .ok _ => 0 | .error e => e.step) = [1, 2, 3, 4, 5, 6, 6] := by
  decide

/-- A field that a member leaves zero fails step 6 even where its value is no register; a field it uses fails step 5 (R61, R65, R204). -/
theorem test_decode_unused_fields :
    (([{ op := 0x14, f := 4, s2 := 32 }, { op := 0x15, f := 7, s2 := 63 }, { op := 0x55, d := 0x24, s2 := 32 }, { op := 0x55, f := 2, d := 0x24, s1 := 40 },
        { op := 0x73, f := 1, s2 := 32 }, { op := 0x76, f := 1, d := 32 }, { op := 0x86, d := 32 }, { op := 0x86, f := 2, s1 := 32 },
        { op := 0x88, f := 1, s1 := 32 }, { op := 0x89, f := 1, s2 := 32 }, { op := 0x8D, d := 33 }, { op := 0xC2, f := 1, s1 := 32 }] :
          List Fields).all fun x => match decodeFields x with | .error e => e.step == 6 | .ok _ => false) = true ∧
    (([{ op := 0x14, s2 := 32 }, { op := 0x55, d := 0x24, s1 := 32 }, { op := 0x73, s2 := 32 }, { op := 0x76, d := 32 }, { op := 0x86, s1 := 32 }] :
          List Fields).all fun x => match decodeFields x with | .error e => e.step == 5 | .ok _ => false) = true := by
  decide

/-- The table's words, the head in their most significant half, decode; a row given without its operand words decodes with zeros. -/
theorem test_table_words :
    decodeTableWord 32 0x41410007 = some (.li 1 7 none) ∧ decodeTableWord 48 0x810740060003 = some (.shli 7 6 3 none) ∧
    decodeTableWord 16 0x0040 = some (.halt 0 none) ∧ decodeTableWord 16 0x8700 = some (.call 0 none) := by
  decide

/-! ## Single instructions -/

/-- ADD wraps, ADD.w extends the sign of bit 31; SUB borrows; the operand that is also the destination is read first (R90, R91). -/
theorem test_add_wraps : xAfter (.add false 1 2 1 none) (regs [(1, 0xFFFFFFFFFFFFFFFF), (2, 2)]) 1 = some 1 := by decide
theorem test_addw_extends : xAfter (.add true 3 2 1 none) (regs [(1, 0x7FFFFFFF), (2, 1)]) 3 = some 0xFFFFFFFF80000000 := by decide
theorem test_sub_borrows : xAfter (.sub false 3 2 1 none) (regs [(1, 1), (2, 2)]) 3 = some 0xFFFFFFFFFFFFFFFF := by decide
theorem test_andn : xAfter (.andn false 3 2 1 none) (regs [(1, 0xFF), (2, 0x0F)]) 3 = some 0xF0 := by decide
/-- A count of 64 acts as 0; ROT rotates right (R90). -/
theorem test_shl_64 : xAfter (.shl false 3 2 1 none) (regs [(1, 3), (2, 64)]) 3 = some 3 := by decide
theorem test_sar : xAfter (.sar false 3 2 1 none) (regs [(1, 0x8000000000000000), (2, 63)]) 3 = some 0xFFFFFFFFFFFFFFFF := by decide
theorem test_rot : xAfter (.rot false 3 2 1 none) (regs [(1, 1), (2, 1)]) 3 = some 0x8000000000000000 := by decide
theorem test_minn : xAfter (.minn false 3 2 1 none) (regs [(1, 0xFFFFFFFFFFFFFFFF), (2, 1)]) 3 = some 1 := by decide
theorem test_min : xAfter (.min false 3 2 1 none) (regs [(1, 0xFFFFFFFFFFFFFFFF), (2, 1)]) 3 = some 0xFFFFFFFFFFFFFFFF := by decide
/-- ADDI's immediate is signed (R92); R94's worked constant ends in chunk 3. -/
theorem test_addi_signed : xAfter (.addi 3 1 0xFFFF none) (regs [(1, 0)]) 3 = some 0xFFFFFFFFFFFFFFFF := by decide
theorem test_lic : xAfter (.lic 1 1 3 0x8080 none) (regs [(1, 0x12345678)]) 1 = some 0x8080000012345678 := by decide
theorem test_li_signed : xAfter (.li 1 0x8000 none) (regs []) 1 = some 0xFFFFFFFFFFFF8000 := by decide
/-- R95's corners, from the worked case of R116. -/
theorem test_div_zero : xAfter (.div 3 0 1 none) (regs [(1, 7)]) 3 = some 0xFFFFFFFFFFFFFFFF := by decide
theorem test_rem_zero : xAfter (.rem 4 0 1 none) (regs [(1, 7)]) 4 = some 7 := by decide
theorem test_div_least : xAfter (.div 7 5 6 none) (regs [(5, 0xFFFFFFFFFFFFFFFF), (6, 0x8000000000000000)]) 7 = some 0x8000000000000000 := by
  decide
theorem test_rem_least : xAfter (.rem 8 5 6 none) (regs [(5, 0xFFFFFFFFFFFFFFFF), (6, 0x8000000000000000)]) 8 = some 0 := by decide
theorem test_rem_sign : xAfter (.rem 3 2 1 none) (regs [(1, 0xFFFFFFFFFFFFFFF9), (2, 4)]) 3 = some 0xFFFFFFFFFFFFFFFD := by decide +kernel
theorem test_divn_least : xAfter (.divn 3 2 1 none) (regs [(1, 0x8000000000000000), (2, 0xFFFFFFFFFFFFFFFF)]) 3 = some 0 := by decide +kernel
theorem test_remn_least : xAfter (.remn 3 2 1 none) (regs [(1, 0x8000000000000000), (2, 0xFFFFFFFFFFFFFFFF)]) 3 = some 0x8000000000000000 := by
  decide +kernel
theorem test_mulh : xAfter (.mulh 3 2 1 none) (regs [(1, 0xFFFFFFFFFFFFFFFF), (2, 1)]) 3 = some 0xFFFFFFFFFFFFFFFF := by decide
theorem test_mulhn : xAfter (.mulhn 3 2 1 none) (regs [(1, 0xFFFFFFFFFFFFFFFF), (2, 2)]) 3 = some 1 := by decide
/-- R96, R97: counts of zero; BREV and BSWAP of an end bit and an end byte; a signed field. -/
theorem test_clz_zero : xAfter (.clz 3 1 none) (regs [(1, 0)]) 3 = some 64 := by decide
theorem test_ctz : xAfter (.ctz 3 1 none) (regs [(1, 0x8000000000000000)]) 3 = some 63 := by decide +kernel
theorem test_popc : xAfter (.popc 3 1 none) (regs [(1, 0xF0F)]) 3 = some 8 := by decide
theorem test_brev : xAfter (.brev 3 1 none) (regs [(1, 1)]) 3 = some 0x8000000000000000 := by decide +kernel
theorem test_bswap : xAfter (.bswap 3 1 none) (regs [(1, 0x01020304)]) 3 = some 0x0403020100000000 := by decide
theorem test_bfxs : xAfter (.bfxs 3 1 4 4 none) (regs [(1, 0xF0)]) 3 = some 0xFFFFFFFFFFFFFFFF := by decide
theorem test_bfi : xAfter (.bfi 3 2 1 8 8 none) (regs [(1, 0x1FF), (2, 0)]) 3 = some 0xFF00 := by decide
/-- R99: `.any` takes its immediate as unsigned, `.lt` as signed; R100; R102. -/
theorem test_cmpi_any : gAfter (.cmpi 1 .any 1 0x8000 none) (regs [(1, 0x10000)]) 1 = some false := by decide
theorem test_cmpi_lt : gAfter (.cmpi 1 .lt 1 0xFFFF none) (regs [(1, 0)]) 1 = some false := by decide
theorem test_cmp_ltn : gAfter (.cmp 1 .ltn 2 1 none) (regs [(1, 1), (2, 0xFFFFFFFFFFFFFFFF)]) 1 = some true := by decide
theorem test_gandn : gAfter (.gandn 2 3 0 none) (regs []) 2 = some true := by decide
theorem test_gtox : xAfter (.gtox 3 none) (st fun c => c.setG 7 true) 3 = some 0x81 := by decide
theorem test_xtog : gAfter (.xtog 1 none) (regs [(1, 0x02)]) 1 = some true := by decide
theorem test_sel : xAfter (.sel 3 2 1 1 none) (regs [(1, 5), (2, 6)]) 3 = some 6 := by decide
/-- A write to `x0` is discarded (R15); a false guard stops the effect and the trap (R57). -/
theorem test_x0 : xAfter (.li 0 7 none) (regs []) 0 = some 0 := by decide
theorem test_false_guard : xAfter (.ldl 1 1 .n64 0 (some 0x0008)) (regs [(1, 1)]) 1 = some 1 := by decide
/-- R103: bytes are little-endian; `.i` sizes extend the sign; the checks and their XINFO2. -/
theorem test_ldl : xAfter (.ldl 3 1 .i16 0 none) (st fun c => { c.setX 1 0x100 with lmem := c.lmem.writeN 0x100 [0x34, 0x92] }) 3 =
    some 0xFFFFFFFFFFFF9234 := by decide
theorem test_ldl_misaligned : trapOf (.ldl 3 1 .n32 0 none) (regs [(1, 0x102)]) = some (7, 0x102) := by decide
theorem test_stl : after [] (fun t => t.core.lmem.readN 0x100 4) (exec (.stl 3 1 .s16 0 none) (regs [(1, 0x100), (3, 0x123456)])) =
    [0x56, 0x34, 0, 0] := by decide
theorem test_stl_outside : trapOf (.stl 3 1 .s64 0 none) (regs [(1, 0x30000)]) = some (9, 0x30000) := by decide
/-- R107 to R110: 1.5 + 2.25, −0 and NaN in FMIN and FCMP, the conversions of R116's worked case. -/
theorem test_fadd : xAfter (.fadd true 3 2 1 none) (regs [(1, 0x3FC00000), (2, 0x40100000)]) 3 = some 0x40700000 := by decide
theorem test_fmin_zero : xAfter (.fmin true 3 2 1 none) (regs [(1, 0), (2, 0x80000000)]) 3 = some 0x80000000 := by decide
theorem test_fmax_nan : xAfter (.fmax true 3 2 1 none) (regs [(1, 0x7FC00000), (2, 0x3F800000)]) 3 = some 0x3F800000 := by decide
theorem test_fdiv_zero : xAfter (.fdiv true 3 2 1 none) (regs [(1, 0x3F800000), (2, 0x80000000)]) 3 = some 0xFF800000 := by decide
theorem test_fsqrt : xAfter (.fsqrt true 3 1 none) (regs [(1, 0x40800000)]) 3 = some 0x40000000 := by decide +kernel
theorem test_fma_once : xAfter (.fma true 3 3 2 1 none) (regs [(1, 0x3F800001), (2, 0x3F800001), (3, 0xBF800002)]) 3 = some 0x28800000 := by
  decide +kernel
theorem test_fclass : xAfter (.fclass true 3 1 none) (regs [(1, 0x00000001)]) 3 = some 32 := by decide
theorem test_fcmp_zero : gAfter (.fcmp 1 true .eq 2 1 none) (regs [(1, 0), (2, 0x80000000)]) 1 = some true := by decide
theorem test_fcmp_nan : gAfter (.fcmp 1 true .un 2 1 none) (regs [(1, 0x7FC00000), (2, 0)]) 1 = some true := by decide
theorem test_fcvt_f32 : xAfter (.fcvt 9 1 .i64 .f32 .rne false none) (regs [(1, 7)]) 9 = some 0x40E00000 := by decide
theorem test_fcvt_e4m3 : xAfter (.fcvt 11 10 .i64 .e4m3 .rne false none) (regs [(10, 1000)]) 11 = some 0x7E := by decide
/-- R112 to R116: NextSeq in `lr`, a LOOP that ends, a target that is no head, SVC's XINFO1. -/
theorem test_call : xAfter (.call 0 none) (regs []) 31 = some 0x40004 := by decide
theorem test_loop_ends : pcAfter (.loop 1 0 none) (regs [(1, 1)]) = some 0x40004 ∧ xAfter (.loop 1 0 none) (regs [(1, 1)]) 1 = some 0 := by decide
theorem test_br_bad : trapOf (.br 0 1 none) (regs []) = some (5, 0x40004) := by decide
theorem test_jmp_outside : trapOf (.jmp 31 none) (regs []) = some (4, 0x40040) := by decide
theorem test_jr_odd : trapOf (.jr 1 none) (regs [(1, 0x40003)]) = some (5, 0x40003) := by decide
theorem test_svc : after none (fun t => some (t.core.sys.xcause, t.core.sys.xinfo[0], t.core.sys.xinfo[1], t.core.sys.xpc)) (exec (.svc 5 none) (regs [])) =
    some (0x17, 5, 0x40004, 0x40002) := by decide
theorem test_handler : after none (fun t => some (t.core.pc, t.core.sys.intrap, t.core.run)) (exec (.brk 1 none)
    (st fun c => { c with sys := { c.sys with tvec := 0x40003 } })) = some (0x40002, true, .running) := by decide
theorem test_eret : after none (fun t => some (t.core.pc, t.core.sys.intrap)) (exec (.eret none)
    (st fun c => { c with sys := { c.sys with intrap := true, xpc := 0x40002 } })) = some (0x40002, false) := by decide
theorem test_eret_outside : trapOf (.eret none) (regs []) = some (1, 0) := by decide
/-- R380: STATUS.DEMOTED is cleared and never set by a write; a write of TENANT is PRIV at level 0. -/
theorem test_status : after none (fun t => some t.core.sys.demoted) (exec (.sysWr 1 .status none)
    (st fun c => { c.setX 1 2 with sys := { c.sys with demoted := false } })) = some false := by decide
theorem test_tenant_priv : (trapOf (.sysWr 1 .tenant none) (regs [(1, 1)])).map Prod.fst = some 6 := by decide
theorem test_seed_zero : after none (fun t => some t.core.sys.seed) (exec (.sysWr 1 .seed none) (regs [(1, 0)])) = some 1 := by decide
theorem test_bankf_reserved : (trapOf (.bankfSet 2 1 none) (regs [(1, 0), (2, 11)])).map Prod.fst = some 0x0C := by decide

/-- A step of a machine with a placed instruction runs it (Step.lean), and ends at the next line's NextSeq (R111). -/
theorem test_step_runs : after none (fun t => some (t.x 1, t.core.pc)) (step (placed [0x4141, 0x0007])) = some (7, 0x40042) := by decide
theorem test_step_wfp : (State.reset.withFetchWord 32 0x41410007).core.pc = 0x40002 := by decide

/-! ## The hypotheses of the statements are met -/

/-- A load, an arm or an atomic of a thread, and a store, on its page. -/
def op (k : OpKind) : Op := { pos := 0, kind := k, va := 0x40100, pa := 0x40100, n := 8, acq := false, rel := false, scope := .dev, key := 0, req := none }
def store : PStore := { pos := 0, va := 0x40100, pa := 0x40100, data := [1], scope := .sys, rel := false, key := 0, req := none, log := none }
def writes (k : List OpKind) (b : List PStore) : Core → Core := fun c => { c with pos := 1, pq := k.map op, sb := b }

/-- A TLB entry of the thread with the leaf `pte` for the page 0x41000. -/
def leaf (pte : W64) : Core → Core := fun c => { c.setX 1 0x41000 with tlb := [{ tenant := 0, va := 0x41000, size := 0x1000, pte := pte }] }

/-- The combined guard (the hypothesis `enabled c s.core = true` of every statement about an instruction): none; a guard that is true;
an inverted false one; the OR of a false and a true one. And words whose guard is false. -/
theorem witness_enabled :
    enabled none (st id).core = true ∧ enabled (some 0x0000) (st id).core = true ∧ enabled (some 0x0099) (st id).core = true ∧
    enabled (some 0x0108) (st id).core = true ∧ enabled (some 0x0008) (st id).core = false ∧ enabled (some 0x0188) (st id).core = false := by
  decide

theorem witness_DecodeOfEncode :
    (Instr.lic 31 31 3 0xFFFF (some 0xFFFF)).wf = true ∧ (∃ x, encodeFields (.lic 31 31 3 0xFFFF (some 0xFFFF)) = some x ∧
      acceptedOn .compute x.op.toNat = true) := ⟨by decide, _, rfl, by decide⟩

theorem witness_EncodeOfDecode : headTL 0x4141 = [(0x0007 : Half)].length ∧ decode .compute 0x4141 [7] = .ok (.li 1 7 none) := ⟨rfl, rfl⟩

theorem witness_IllegalWords :
    opClass (headOP 0x3FC0).toNat = none ∧ opClass (headOP 0xC141).toNat = some .k1i ∧ ([1, 2, 3] : List Half).length ≠ TailClass.k1i.base + 1 ∧
    opClass (headOP 0x2C40).toNat = some .k0 ∧ acceptedOn .compute (headOP 0x2C40).toNat = false ∧
    acceptedOn .slice (headOP 0x2C40).toNat = true ∧ ([] : List Half).length = TailClass.k0.base ∧
    ([0xFFFF] : List Half).length = TailClass.k0.base + 1 := by
  decide

theorem witness_IllegalWords_trap :
    (st id).core.prog ≠ some .badImage ∧ decode (st id).core.loc.kind 0x3FC0 [] = .error .opReserved ∧
    (st fun c => { c with sys := { c.sys with repstate := 0x8001000000000001 } }).core.repOk = true := ⟨by decide, rfl, by decide⟩

theorem witness_StepRunsDecoded :
    let s := placed [0x4141, 0x0007]
    ∃ hs, s.codeLine s.core (lineBase s.core.pc) = .halves hs ∧ headCheck s.core.pc hs (lineBase s.core.pc) s.core.pc = none ∧
      decode s.core.loc.kind (hs.getD (headIdx s.core.pc) 0)
        ((hs.drop (tailStart hs (headIdx s.core.pc))).take (headTL (hs.getD (headIdx s.core.pc) 0))) = .ok (.li 1 7 none) ∧
      s.core.hazard (.li 1 7 none) = false ∧ s.agenda = [] ∧ s.background = false ∧ s.stale = [] ∧ s.canIssue s.core = true ∧
      s.core.loc.kind ≠ .slice ∧ s.core.nextAsync = none ∧ s.core.inBlock = false ∧ s.core.prog ≠ some .badImage ∧
      s.core.inCode (lineBase s.core.pc) = true ∧ s.fetchPoisoned s.core = false ∧ s.core.regBad = false ∧ s.core.kept = none :=
  ⟨_, rfl, rfl, rfl, by decide, by decide, by decide, by decide, by decide, by decide, by decide, by decide, by decide, by decide, by decide,
    by decide, by decide⟩

/-- Of StepRunsDecoded, the other ways: a line kept by a transfer within it, and a slice core in its invocation. -/
theorem witness_StepRunsDecoded_kept :
    (let s := (placed [0x4141, 0x0007]).onCore fun c => { c with kept := some c.pc, ir := { c.ir with line := 0x40000, words := [1, 0x4141, 7] } }
     s.core.kept = some s.core.pc ∧ s.core.ir.words ≠ [] ∧ lineBase s.core.pc = s.core.ir.line ∧
       headCheck s.core.pc s.core.ir.words (lineBase s.core.pc) s.core.pc = none ∧ s.agenda = [] ∧ s.background = false ∧ s.stale = [] ∧
       s.canIssue s.core = true ∧ (decode s.core.loc.kind (s.core.ir.words.getD (headIdx s.core.pc) 0) [7]).toOption = some (.li 1 7 none)) ∧
    (let s := placed [0x6C40, 0x0000]
     s.core.loc.kind = .slice ∧ s.canIssue s.core = true ∧ s.core.nextAsync = none ∧ s.agenda = [] ∧ s.stale = [] ∧ s.background = false) := by
  decide +kernel

theorem witness_StepKeeps :
    (placed [0x4141, 0x0007]).memWf = true ∧ (placed [0x4141, 0x0007]).localWf = true ∧ isNext (step (placed [0x4141, 0x0007])) = true := by
  decide

theorem witness_FixedRegisters : (31 : XReg) ≠ 0 ∧ (7 : GReg) ≠ 0 ∧ (7 : BitVec 3) ≠ 0 := by decide

/-- Of GuardsAndPrivilege: a false guard on a compute core; on the control core also for WFI. -/
theorem witness_GuardsAndPrivilege :
    (∃ x, encodeFields (.ldl 1 1 .n64 0 (some 0x0008)) = some x ∧ enabled x.c (st id).core = false) ∧
    (∃ x, encodeFields (.wfi (some 0x0008)) = some x ∧ enabled x.c (control id).core = false) ∧ (control id).core.loc.kind = .control ∧
    (st id).core.loc.kind ≠ .control := ⟨⟨_, rfl, by decide⟩, ⟨_, rfl, by decide⟩, by decide, by decide⟩

/-- The rejected fields of the integer, immediate, bit and guard statements, each at the boundary of its range. -/
theorem witness_rejected_fields :
    ([{ op := 0x02, f := 14 }, { op := 0x03, f := 15 }, { op := 0x04, s2 := 1 }, { op := 0x04, f := 8 }, { op := 0x04, f := 4, i := 64 },
      { op := 0x06, s2 := 1 }, { op := 0x06, f := 4 }, { op := 0x0E, f := 1 }, { op := 0x0E, s4 := 1 }, { op := 0x0E, g := 1 },
      { op := 0x0E, s3 := 8 }, { op := 0x0F, s2 := 1 }, { op := 0x0F, f := 2 }, { op := 0x0F, f := 0, s1 := 1 }, { op := 0x0F, f := 1, d := 1 },
      { op := 0, d := 1 }, { op := 0x07, f := 7 }, { op := 0x08, s2 := 1 }, { op := 0x08, f := 5 }, { op := 0x09, s2 := 1 },
      { op := 0x09, f := 2 }, { op := 0x0A, f := 1 }, { op := 0x09, i := 0x1041 }, { op := 0x09, f := 1, i := 0x003F },
      { op := 0x0A, i := 0x0FC2 }, { op := 0x0B, f := 8 }, { op := 0x0C, f := 8 }, { op := 0x0C, s2 := 1 }, { op := 0x0D, f := 4 },
      { op := 0x0B, d := 8 }, { op := 0x0C, d := 8 }, { op := 0x0D, d := 8 }, { op := 0x0D, s1 := 8 }, { op := 0x0D, s2 := 8 }] :
        List Fields).all (fun x => (decodeFields x).toOption.isNone) = true := by decide

theorem witness_fields :
    fieldOk 0 63 = true ∧ fieldOk 63 1 = true ∧ scalarX (.add false 31 0 0 none) ≠ none ∧ scalarG (.gand 7 0 0 none) ≠ none := by
  decide

/-- Of FloatCompares: a NaN and an infinity. -/
theorem witness_FloatCompares : fdec fF32 0x7FC00000 = .nan ∧ fdec fF64 0xFFF8000000000000 = .nan ∧ fdec fF32 0x7F800000 ≠ .nan := by decide

/-- Of FloatCorners: the least and the greatest encodings of a format are in its range. -/
theorem witness_FloatCorners : (0 : Nat) < 2 ^ fE2M1.width ∧ 2 ^ 64 - 1 < 2 ^ fF64.width ∧ fdec fE2M1 15 ≠ .nan ∧
    fdec fF32 0 = .fin false 0 (-149) ∧ (1 : Int) * 2 ^ ((-149 : Int) - min (-149) (-149)).toNat + -1 * 2 ^ ((-149 : Int) - min (-149) (-149)).toNat = 0 := by
  decide

/-- Of LocalAccesses and LocalFrame: a misaligned address, the first outside local memory and the last inside it, and one under a stash
page; a slice core's handler may access its data. -/
theorem witness_LocalAccesses :
    (let a (s : State) := (s.x 1 + w64i (0 : BitVec 16).toInt).toNat
     a (regs [(1, 0x2FFFF)]) % 2 ≠ 0 ∧ a (regs [(1, 0x30000)]) % 8 = 0 ∧ 0x30000 ≤ a (regs [(1, 0x30000)]) ∧
     a (regs [(1, 0x2FFF8)]) % 8 = 0 ∧ a (regs [(1, 0x2FFF8)]) < 0x30000 ∧ (regs []).core.inStash 0x2FFF8 8 = false ∧
     (regs []).handlerOk 0x2FFF8 8 = true ∧ (regs []).core.badLocal = [] ∧ (regs []).core.lmem.wf = true) ∧
    (st fun c => { c with stashes := c.stashes.set 0 (some { lbase := 0x8000, gbase := 0x40000, pages := 1, entries := [] }) }).core.inStash
      0x8000 8 = true ∧
    (inSlice fun i => { i with reg := { i.reg with dlen := 0x100 } }).handlerOk 64 8 = true ∧
    (inSlice id).handlerOk 64 8 = false := by
  decide

/-- Of Transfers: a taken branch to the instruction itself, LOOP with one and two runs left. -/
theorem witness_Transfers :
    targetOk (regs []) 0x40002 = true ∧ (regs []).core.pc + w64i (2 * (0 : BitVec 16).toInt) = 0x40002 ∧
    ((regs []).core.getG ((0 : BitVec 4).setWidth 3) != (0 : BitVec 4).getLsbD 3) = true ∧
    ((regs []).core.getG ((8 : BitVec 4).setWidth 3) != (8 : BitVec 4).getLsbD 3) = false ∧
    (regs [(1, 2)]).x 1 ≠ 1 ∧ (regs [(1, 1)]).x 1 = 1 ∧ (regs []).core.gang = none := by
  decide

/-- A machine whose code line has the line word `w`. -/
def lineWord (w : Half) : State := { regs [] with mem := (regs []).mem.writeN 0x40000 (natBytes 2 w.toNat) }

/-- Of TargetChecks: targets 0x40040 (outside), 0x40000 and 0x40004 (the positions beside the one head), 0x40003 (odd); a line word of 32,
one with N = 0; a leaf without X. -/
theorem witness_TargetChecks :
    (let out (t : W64) := ¬((regs []).core.codeBase.toNat ≤ t.toNat / 64 * 64 ∧ t.toNat / 64 * 64 < (regs []).core.codeLimit.toNat)
     out 0x40040 ∧ out 0x3FFFE ∧ ¬out 0x40000 ∧ ¬out 0x4003F) ∧
    (∃ hs, (lineWord 32).codeLine (lineWord 32).core 0x40000 = .halves hs ∧ hs.headD 0 = 32) ∧
    (∃ hs, (lineWord 0).codeLine (lineWord 0).core 0x40000 = .halves hs ∧ hs.headD 0 = 0) ∧
    (∃ hs, (lineWord 1).codeLine (lineWord 1).core 0x40000 = .halves hs ∧ hs.headD 0 = 1) ∧
    (∃ code level, let s := st fun c => { c with tlb := c.tlb.map fun e => { e with pte := 0x4000B } }
      s.codeLine s.core 0x40000 = .refuse code level) ∧
    (let s := st fun c => { c with ir := { c.ir with line := 0x40000, words := [1, 0x4141, 7] } }
     s.core.ir.words ≠ [] ∧ s.core.ir.line = 0x40000 ∧ (regs []).core.ir.words = []) ∧
    ((regs []).codePoisoned (regs []).core 0x40000 = false ∧
      { regs [] with poison := [(0x40000, 0)] }.codePoisoned (regs []).core 0x40000 = true) ∧
    (st fun c => { c with sys := { c.sys with intrap := true } }).core.sys.intrap = true ∧ (regs []).core.sys.intrap = false :=
  ⟨by decide, ⟨_, rfl, by decide⟩, ⟨_, rfl, by decide⟩, ⟨_, rfl, by decide⟩, ⟨_, _, rfl⟩, by decide, by decide, by decide, by decide⟩

/-- Of SvcBrkEret and TrapTaking: in a handler with XPC at a head; a handler that takes a trap, one that does not, and the codes that
never enter it. -/
theorem witness_TrapTaking :
    (let s := st fun c => { c with sys := { c.sys with intrap := true, xpc := 0x40002 } }
     s.core.sys.intrap = true ∧ targetOk s s.core.sys.xpc = true) ∧
    (let s := st fun c => { c with sys := { c.sys with tvec := 1 } }
     s.core.loc.kind ≠ .slice ∧ s.core.sys.tvec.getLsbD 0 = true ∧ s.core.sys.intrap = false) ∧
    (st id).core.sys.tvec.getLsbD 0 = false ∧ 0xFF < 256 ∧ 0x17 ∉ [0x08, 0x14, 0x15] ∧ 0x15 ∈ [0x08, 0x14, 0x15] := by
  decide

/-- Of SystemRegisters: the boundaries of XCAUSE, HDRFLD, the bank formats and their numbers, and the control core for TENANT. -/
theorem witness_SystemRegisters :
    (let good := fun (v : W64) => decide (v.toNat < 32 ∧ (v.toNat % 16 ≤ 10 ∨ v.toNat % 16 = 15) ∧ (v.toNat < 16 ∨ v.toNat % 16 ∈ [3, 4, 7, 10]))
     [0, 10, 15, 19, 26].all good = true ∧ [11, 16, 31, 32].all (fun v => !good v) = true) ∧
    (let fits := fun (f : W32) => !(f.getLsbD 31 && decide (512 < (f.extractLsb' 16 9).toNat + (f.extractLsb' 8 5).toNat + 1))
     fits 0x81E01F00 = true ∧ fits 0x81E11F00 = false ∧ fits 0x01FF1F00 = true) ∧
    (255 : W64).toNat < 256 ∧ 256 ≤ (256 : W64).toNat ∧ (11 : W64).toNat < 12 ∧ 12 ≤ (12 : W64).toNat ∧
    (st id).core.loc.kind ≠ .control ∧ (control id).core.loc.kind = .control := by
  decide

def answers (r : Except Res (Option α)) : Bool := match r with | .ok (some _) => true | _ => false

/-- The thread's east port in a mode, its FIFO `q`. -/
def port (m : PortMode) (q : List (V512 × Bool)) (f : Port → Port) : Core → Core := fun c =>
  (c.setPort .e (f { c.port .e with mode := m })).setFifo .e (q.map fun w => { data := w.1, landed := w.2, pusher := none })

/-- A stream of one element at local byte `a`, in port 0. -/
def stream (m : StreamMode) (a : Int) (n : Nat) : Core → Core := fun c =>
  { c with streams := c.streams.set 0 { mode := m, desc := { base := 0, counts := [1, 1, 1, 1], strides := [a, 0, 0, 0] }, n := n } }

def format (v : W64) : Core → Core := fun c => { c with bankfmt := c.bankfmt.set 0 v }

/-- Another plot of the launch is saved, and its place is the core to the east. -/
def detached (s : State) : State :=
  { s with launches := s.launches.map fun l =>
      { l with count := 2, plots := l.plots ++ [{ Plot.start 0 with st := .saved, home := some (0, 1, 0) }] } }

/-- Of VectorOperands: a port in each mode, with a word landed, on its way, and none; its neighbour in the plot, and its place in the
launch empty; an instruction stream with room and one filled; a stream of each direction with an element left and none, at the last
element of local memory and beside it. -/
theorem witness_VectorOperands :
    let w : V512 := 7
    ((st (port .instr [] id)).core.port .e).mode ≠ .word ∧ ((st id).core.port .e).mode = .word ∧
    (st (port .word [(w, true)] id)).core.fifoOf .e = [{ data := w, landed := true, pusher := none }] ∧ (st (port .word [(w, false)] id)).core.fifoOf .e = [{ data := w, landed := false, pusher := none }] ∧
    (st id).core.fifoOf .e = [] ∧ (pair id (st id)).portSide (pair id (st id)).core .e = .usable ∧
    neighbour (st id).core.loc .e = some (locAt 1 0) ∧
    (detached (st id)).portSide (st id).core .e = .detached ∧
    ((st (port .direct [] id)).core.port .e).mode = .direct ∧ ((st (port .instr [] id)).core.port .e).w ≤ 0 ∧
    ((st (port .instr [] fun p => { p with w := 1 })).core.port .e).fed < 1 := by
  decide +kernel

theorem witness_VectorOperands_streams :
    (let p := fun (f : Core → Core) => (st f).core.streams[0]
     (p id).mode ≠ .load ∧ (p (stream .load 0x2FFC0 1)).desc.total ≤ 1 ∧ (p (stream .load 0 0)).mode = .load ∧
     0 < (p (stream .load 0 0)).desc.total ∧ (p (stream .store 0 0)).mode = .store) ∧
    ((stream .load 0 0 (st id).core).streams[0]).desc.addr 0 = 0 ∧ (0 : Int) ≤ 0x2FFC0 ∧ (st id).core.inStash 0x2FFC0 64 = false ∧
    (let d : StreamDesc := { base := 0, counts := [2, 1, 1, 1], strides := [0x2FFC0, 0, 0, 0] }
     d.addr 1 = 0x2FFC0 ∧ 1 < d.total) ∧
    (let d : StreamDesc := { base := 0, counts := [2, 1, 1, 1], strides := [-64, 0, 0, 0] }
     d.addr 1 < 0) ∧ (st id).core.badLocal = [] := by
  decide +kernel

/-- Of the vector results and moves: registers and streams whose ports are clear, read and written; a float type, a signed and an unsigned
integer type. -/
theorem witness_VectorResults :
    (portsClear (st id) [.reg 1, .reg 2, .reg 3, .reg 4] = true ∧ answers (readAll (st id) [.reg 1, .reg 2, .reg 3]) = true ∧
      answers (writeV (st id) (.reg 4) 5) = true) ∧
    (let s := st (stream .store 0 0)
     portsClear s [.reg 1, .null, .stream 0] = true ∧ answers (readAll s [.reg 1, .null]) = true ∧ answers (writeV s (.stream 0) 5) = true) ∧
    (let s := pair id (st (port .word [(7, true)] id))
     portsClear s [.link .e] = true ∧ answers (readAll s [.link .e]) = true ∧ answers (writeV s (.link .e) 5) = true) ∧
    VType.ntype .f16 = .flt fF16 ∧ VType.ntype .i8 = .int 8 true ∧ VType.ntype .n32 = .int 32 false ∧
    masked (.vadd (.stream 0) (.reg 1) (.reg 0) .f32 ⟨0, false⟩ none) = some (.stream 0, [.reg 0, .reg 1]) := by
  decide +kernel

theorem witness_VectorFrame :
    isNext (exec (.vadd (.stream 0) (.reg 1) (.reg 0) .i32 ⟨0, false⟩ none) (st (stream .store 0 0))) = true ∧
    isNext (exec (.vfma (.reg 3) (.reg 2) (.reg 1) (.reg 0) .i8 ⟨0, false⟩ none) (st id)) = true := by
  decide +kernel

/-- Of VectorMoves: VEXTR's code and lane at both ends of their ranges, and beside them. -/
theorem witness_VectorMoves :
    (let code := fun (v : W64) => v.toNat / 256 % 16
     let lane := fun (v : W64) => v.toNat % 128
     code 0x83F = 8 ∧ lane 0x83F < 512 / VType.bits .n8 ∧ code 0x840 = 8 ∧ 512 / VType.bits .n8 ≤ lane 0x840 ∧ 8 < code 0x900 ∧ code 0 = 0 ∧
     typeOfCode 8 = some .n8 ∧ lane 0x00F < 512 / VType.bits .f32) := by
  decide

/-- Of VectorFolds: the levels of the tree; a conversion of a 6-bit format before its assist and after it, and of others. -/
theorem witness_VectorFolds :
    (2 ^ 4 = 512 / VType.bits .f32 ∧ 2 ^ 5 = 512 / VType.bits .bf16 ∧ 2 ^ 6 = 512 / VType.bits .n8) ∧ CType.isFp6 .e3m2 = true ∧
    CType.isFp6 (.ty .f32) = false ∧ (st id).core.prog ≠ some (.assist true) ∧
    (st fun c => { c with prog := some (.assist true) }).core.prog = some (.assist true) := by
  decide

/-- Of VectorLocal: addresses at the ends of local memory, of a bank and of an alignment, each with the format that its clause asks. -/
theorem witness_VectorLocal :
    (let at_ := fun (v : W64) (off : BitVec 12) => (v + w64i off.toInt).toNat
     0x30000 ≤ at_ 0x30000 0 ∧ at_ 0x30000 (-1) < 0x30000 ∧ at_ 0x2FFC0 0 % 64 = 0 ∧ at_ 0x2FFC0 1 % 64 ≠ 0 ∧
     at_ 0x3FE0 0 % 8 = 0 ∧ at_ 0x3FE0 0 / 0x4000 = (at_ 0x3FE0 0 + 31) / 0x4000 ∧ at_ 0x3FF8 0 % 4 = 0 ∧
     at_ 0x3FF8 0 / 0x4000 ≠ (at_ 0x3FF8 0 + 11) / 0x4000) ∧
    ([0, 1, 2, 3, 4, 5, 6, 7, 8, 9, 10, 15].all fun n => ((st (format (w64 n))).core.bankfmt[0]).toNat % 16 == n) = true ∧
    ((st (format 0x14)).core.bankfmt[0]).getLsbD 4 = true ∧
    (st fun c => { c with stashes := c.stashes.set 3 (some { lbase := 0, gbase := 0, pages := 1, entries := [] }) }).core.inStash 0xFC0 64 = true ∧
    answers (readV (st id) (.reg 1)) = true := by
  decide +kernel

/-- Of VectorStrided and VectorGather: elements at the last word of local memory, the next outside; an odd and an even nibble. -/
theorem witness_VectorStrided :
    (let el := fun (j : Nat) => ((0 : W64) + w64i (0 : BitVec 12).toInt + w64 j * 0x30000).toNat
     el 0 = 0 ∧ el 1 % 4 = 0 ∧ 0x30000 ≤ el 1) ∧
    (let el := fun (j : Nat) => ((0 : W64) + w64 j * 2).toNat
     el 0 % 4 = 0 ∧ el 1 % 4 ≠ 0) ∧
    (∀ j < 16, ((0x2FFC0 : W64) + w64 j * 4).toNat % 4 = 0 ∧ ((0x2FFC0 : W64) + w64 j * 4).toNat < 0x30000) ∧
    (st id).core.inStash 0x2FFFC 4 = false ∧ (0x2FFFF + 1 / 2 < 0x30000 ∧ 0x30000 ≤ 0x2FFFF + 2 / 2) := by
  decide

theorem witness_VectorGather :
    (st (format 5)).core.bankfmt[0] = 5 ∧ (5 : Nat) ∉ [0, 1, 2, 3, 4, 7, 8, 9, 10, 15] ∧ fmtBits 9 = 4 ∧ fmtBits 0 = 32 ∧ (st id).core.badLocal = [] ∧
    (∀ j < 16, laneOf 32 ((st fun c => c.setV 2 1).core.getV 2) j ≤ 1) := by
  decide +kernel

/-- Of Streams: a misaligned descriptor, one outside, a good one and one with a reserved bit. -/
theorem witness_Streams :
    (0x10 : Nat) % 32 ≠ 0 ∧ 0x30000 % 32 = 0 ∧ 0x2FFE0 % 32 = 0 ∧ (st id).core.inStash 0x2FFE0 32 = false ∧ (st id).core.badLocal = [] ∧
    leNat ((st id).core.lmem.readN 0x2FFE4 4) = 0 ∧ leNat ((st id).core.lmem.readN 0x2FFE0 4) % 64 = 0 ∧
    (let s := st fun c => { c with lmem := c.lmem.writeN 4 [1] }
     leNat (s.core.lmem.readN 4 4) ≠ 0) := by
  decide

/-- A line of NOP and another head. -/
def block (head : Half) : State := { regs [(1, 1)] with mem := (regs []).mem.writeN 0x40000 ([2, 0, 0, 0] ++ natBytes 2 head.toNat) }

/-- Of RepetitionBlocks: counts 2^32 − 1 and 2^32; a block of one VMOV, which may be captured, and one that may not; a captured instruction in
the midst of a block, at its end with runs left, and at the end of the last. -/
theorem witness_RepetitionBlocks :
    (captureWalk (block 0x54C0) 1 0x40004).toOption =
      some ([{ pc := 0x40004, head := 0x54C0, tail := [0x0000], line := 0x40000, next := 0x40042 }], 0x40042) ∧ captured .compute 0x53 = true ∧
    (captureWalk (block 0x9500) 1 0x40004).toOption.isSome = true ∧ captured .compute (headOP 0x9500).toNat = false ∧
    ((2 ^ 32 : Nat) ≤ (0x100000000 : W64).toNat ∧ (0xFFFFFFFF : W64).toNat < 2 ^ 32) ∧
    (st id).core.ir.captured = false ∧ (st fun c => { c with ir := { c.ir with captured := true } }).core.ir.captured = true ∧
    (let size := fun (r : Nat) => r / 2 ^ 48 % 32
     let pos := fun (r : Nat) => r / 2 ^ 32 % 16
     let rem := fun (r : Nat) => r % 2 ^ 32
     pos 0x8002000000000001 + 1 < size 0x8002000000000001 ∧ size 0x8001000000000002 ≤ pos 0x8001000000000002 + 1 ∧ 1 < rem 0x8001000000000002 ∧
       rem 0x8001000000000001 ≤ 1) ∧
    (let s := st fun c => { c with
       inRep := true, captures := [{ pc := 0x40004, head := 0x54C0, tail := [0x0024], line := 0x40000, next := 0x40042 }]
       sys := { c.sys with repstate := 0x8001000000000001, reppc := 0x40004 } }
     s.core.sys.repstate.getLsbD 63 = true ∧ s.core.repOk = true ∧ s.core.captures.length = s.core.sys.repstate.toNat / 2 ^ 48 % 32 ∧
       s.core.captures.head?.map Capture.pc = some s.core.sys.reppc ∧ s.core.sys.repstate.toNat / 2 ^ 32 % 16 = 0 ∧
       (decode s.core.loc.kind 0x54C0 [0x0024]).toOption = some (.vmov (.reg 0) (.stream 0) none) ∧ s.core.nextAsync = none ∧ s.core.regBad = false ∧
       s.core.hazard (stagger 0 (.vmov (.reg 0) (.stream 0) none)) = false) := by
  decide +kernel

/-- Of the statements about global accesses: an access of every size that translates and has room, its address in x1, with nothing
outstanding and no deferral chosen; a credit for LOG. -/
theorem witness_accessOk : accessOk (regs [(1, 0x40100)]) ((regs [(1, 0x40100)]).x 1 + w64i (0 : BitVec 16).toInt) 8 Access.read 0x40100 0x4000F :=
  ⟨by decide +kernel, by decide +kernel, by decide +kernel⟩
theorem witness_accessOk_store : accessOk (regs [(1, 0x40FF8)]) ((regs [(1, 0x40FF8)]).x 1 + w64i (0 : BitVec 16).toInt) 8 Access.store 0x40FF8 0x4000F :=
  ⟨by decide +kernel, by decide +kernel, by decide +kernel⟩
theorem witness_accessOk_amo : accessOk (regs [(1, 0x40000)]) ((regs [(1, 0x40000)]).x 1) 8 Access.amo 0x40000 0x4000F :=
  ⟨by decide +kernel, by decide +kernel, by decide +kernel⟩
theorem witness_accessOk_line : accessOk (regs [(1, 0x40FC0)]) ((regs [(1, 0x40FC0)]).x 1 + w64i (0 : BitVec 12).toInt) 64 Access.store 0x40FC0 0x4000F :=
  ⟨by decide +kernel, by decide +kernel, by decide +kernel⟩

theorem witness_AccessEffects :
    (let s := regs [(1, 0x40100)]
     s.core.pq = [] ∧ s.core.sb = [] ∧ s.plan = [] ∧ s.slices = [] ∧ s.mem.wf = true ∧ hintOf none ≠ 1 ∧ s.isPoisoned 0x40100 = false ∧ isDevice 0x40100 = true ∧
     s.core.barred = [] ∧ s.reqs = [] ∧ s.windowed 0x40100 = false ∧ (s.allCores.all fun k => k.loc == s.core.loc || k.entries.isEmpty) = true ∧
     isHost 0x40100 = false ∧ (s.dieAt s.core.loc.die).db = [] ∧ s.core.prog = none ∧ s.core.loadingPort = false ∧
     (s.tenantAt s.core.tenantNo).policy = 0 ∧ pteCmb 0x4000F = false ∧ s.withheld s.core.tenantNo 0x40100 0x40100 true = false ∧ 0x40100 % 8 = 0) ∧
    (let s := st fun c => { c.setX 1 0x40100 with credits := [(homeSlice 0x4000F 0x40100, 1)] }
     0 < tabGet 0 s.core.credits (homeSlice 0x4000F 0x40100)) ∧
    isNext (exec (.ld 3 1 .n64 0 none) (regs [(1, 0x40100)])) = true ∧ isNext (exec (.st 3 1 .s64 0 none) (regs [(1, 0x40FF8)])) = true ∧
    isNext (exec (.amo .add 3 2 1 true .relaxed .dev none) (regs [(1, 0x40100)])) = true ∧
    isNext (exec (.cas 4 3 2 1 true .relaxed .dev none) (regs [(1, 0x40100)])) = true ∧
    isNext (exec (.strl 3 1 .s8 .core none) (regs [(1, 0x40FFF)])) = true := by
  decide +kernel

/-- Of AccessChecks: the four ways an aligned access may meet its translation, and a core with 32 requests. -/
theorem witness_AccessChecks :
    (let t := fun (pte : W64) => (st (leaf pte)).translate (st (leaf pte)).core 0x41000 Access.store
     (∃ level, t 0x4100D = .refuse 0x09 level) ∧ t 0x4104F = .wait ∧ t 0x4100F = .hit 0x41000 0x4100F) ∧
    (regs []).translate (regs []).core 0x41000 Access.store = .miss ∧
    (let s : State := { regs [] with reqs := (List.range 32).map fun i =>
       { id := i, agent := .core, owner := (regs []).core.loc, va := 0, slice := i % 16, line := 0, tenant := 0, kind := .read, hint := 0, cmb := false,
         st := .transit, at_ := 0, die := 0, waits := none, late := false, quiet := false, cnt := 0 } }
     s.translate s.core 0x40100 Access.read = .hit 0x40100 0x4000F ∧ s.core.served 0x40100 0x40100 Access.read = false ∧ s.portBusy s.core 0x40100 0x4000F = true) ∧
    (0x40101 : W64).toNat % 2 ≠ 0 := by
  refine ⟨⟨⟨_, by rfl⟩, by decide +kernel, by decide +kernel⟩, by decide +kernel, by decide +kernel, by decide⟩

/-- Of TranslationGrants: a leaf for each way to be refused, for LOCK, and for a grant; device memory up to its ends. -/
theorem witness_TranslationGrants :
    (let device := fun (pa : Nat) => decide (pa < 0x2000000000 ∨ (0x8000000000 ≤ pa ∧ pa < 0x10000000000))
     let host := fun (pa : Nat) => decide (0x400000000000 ≤ pa ∧ pa < 0x800000000000)
     device 0x1FFFFFFFFF = true ∧ device 0x2000000000 = false ∧ device 0x8000000000 = true ∧ device 0x10000000000 = false ∧
     host 0x400000000000 = true ∧ host 0x3FFFFFFFFFFF = false ∧ host 0x7FFFFFFFFFFF = true) ∧
    ((0x4000D : W64).getLsbD 1 = false ∧ (0x4000B : W64).getLsbD 2 = false ∧ (0x4004F : W64).getLsbD 6 = true ∧
     (0x4000F : W64).getLsbD 6 = false) ∧
    (let s := regs []
     tabGet 0xFF s.owners 0 = 0 ∧ tabGet 255 s.keys 0 = 0 ∧ tabGet 0xFF s.owners 1 = 0xFF ∧ tabGet 255 s.keys 1 = 255 ∧ s.scrubbing = [] ∧
     s.locks = []) := by
  decide +kernel

/-- A machine whose tenant has a scope policy. -/
def policy (p : Nat) (s : State) : State := s.modTenant 0 fun t => { t with policy := p }

/-- Of FencesAndMonitors: each policy; released and not; a monitor arming, armed, triggered and unarmed; a wait begun, and one past its
bound; PREF's translation that no table gives, and one of the host. -/
theorem witness_FencesAndMonitors :
    ([0, 1, 2].map fun p => ((policy p (regs [])).tenantAt 0).policy) = [0, 1, 2] ∧
    (regs []).released (regs []).core .sys = true ∧
    (let s := st fun c => { c with pos := 1, sb := [{ pos := 0, va := 0, pa := 0, data := [0], scope := .sys, rel := false, key := 0, req := none, log := none }] }
     s.released s.core .sys = false) ∧
    (let s := st fun c => { c with pq := [{ op .monarm with acq := true }] }
     s.core.pq.any (fun o => o.acq) = true) ∧
    (regs []).core.pq = [] ∧ (regs []).core.mon = none ∧
    (let s := st fun c => { c.setX 1 1 with mon := some (0x40000, 0x40000), prog := some (.mwait 0 true) }
     s.core.trig = false ∧ s.core.mon ≠ none ∧ s.core.prog = some (.mwait 0 true) ∧ s.x 1 ≠ 0) ∧
    (let s : State := { (st fun c => { c.setX 1 4 with mon := some (0x40000, 0x40000), prog := some (.mwait 1 false) }) with cycle := 5 }
     s.core.trig = false ∧ s.core.mon ≠ none ∧ (s.x 1).toNat ≤ (s.cycle - 1).toNat) ∧
    (st fun c => { c with mon := some (0, 0), trig := true }).core.trig = true ∧
    (let s := st (leaf 0x4104F)
     s.translateCore s.core 0x41000 Access.store = .wait) ∧
    (regs []).translateCore (regs []).core 0x90000 Access.read = .refuse 8 1 ∧
    
    ((regs []).translateCore (regs []).core 0x40FFF Access.read = .hit 0x40FFF 0x4000F ∧ isHost 0x40FFF = false ∧
      (regs []).portBusy (regs []).core 0x40FFF 0x4000F = false ∧ (regs []).core.served 0x40FFF 0x40FFF Access.read = false) ∧ hintOf none ≠ 1 := by
  decide +kernel

/-- Of StashesAndCaches: STASH.MAP's geometry at both ends of its pages and beside them, and of its place; an overlap; counts of bytes at
2^32 and beside it. -/
theorem witness_StashesAndCaches :
    (let ok := fun (geo g : Nat) (k : Core) => decide (k.stashes[0] = none ∧ geo / 2 ^ 37 = 0 ∧ geo / 2 ^ 18 % 2 ^ 14 = 0 ∧ 1 ≤ geo / 2 ^ 32 % 32 ∧
       geo / 2 ^ 32 % 32 ≤ 16 ∧ geo % 2 ^ 18 % 4096 = 0 ∧ g % 4096 = 0 ∧ g < 2 ^ 48 ∧ geo % 2 ^ 18 + 4096 * (geo / 2 ^ 32 % 32) ≤ 0x30000 ∧
       (k.stashRanges.map Prod.snd).sum + 4096 * (geo / 2 ^ 32 % 32) ≤ 65536 ∧
       ∀ q ∈ k.stashRanges ++ k.ringRanges 8 ++ k.winRanges 16, overlaps (geo % 2 ^ 18) (4096 * (geo / 2 ^ 32 % 32)) q.1 q.2 = false)
     let k := (regs []).core
     ok 0x1000000000 0 k = true ∧ ok 0x1100000000 0 k = false ∧ ok 0 0 k = false ∧ ok 0x10002F000 0xFFFFFFFFF000 k = true ∧
     ok 0x200002F000 0 k = false ∧ ok 0x10002F001 0 k = false) ∧
    (∃ t, (st fun c => { c with stashes := c.stashes.set 0 (some t) }).core.stashes[0] = some { lbase := 0x2F000, gbase := 0, pages := 1, entries := [] }) ∧
    (regs []).core.stashes[3] = none ∧ (2 ^ 32 : Nat) < 0x100000001 ∧ (0 : Nat) ≠ 2 ^ 32 := by
  refine ⟨by decide +kernel, ⟨_, by rfl⟩, by decide, by decide, by decide⟩

/-- A line of slice 0. -/
def sliceLine (line : Nat) : SliceLine :=
  { line := line, way := 0, tenant := 0, dirty := false, keep := false, copy := false, sharers := [], owner := none }

/-- More of StashesAndCaches: a region that the thread's store lies in, and one that it does not; a home slice with a line and without it. -/
theorem witness_StashesAndCaches_backs :
    (let s := st fun c => { (writes [] [store] c) with stashes := c.stashes.set 0 (some { lbase := 0, gbase := 0x40000, pages := 1, entries := [] }) }
     s.core.stashes[0].isSome = true ∧ store ∈ s.core.sb ∧ store.log = none ∧ 0x40000 ≤ store.va ∧ store.va < 0x40000 + 4096 * 1) ∧
    (regs []).core.sb = [] ∧ (regs []).core.pq = [] ∧ ((regs []).sliceAt 0).lines = [] ∧
    (let s := (regs []).modSlice 0 fun q => { q with lines := [sliceLine 0x40000] }
     sliceLine 0x40000 ∈ (s.sliceAt 0).lines ∧ (sliceLine 0x40000).copy = false) := by
  decide +kernel

/-- The thread's ring 0 of two slots of 64 bytes, with its pointers, of a kind. -/
def ring (k : RingKind) (t h : Nat) (broken : Bool) (s : State) : State := s.onCore fun c =>
  { c with rings := c.rings.set 0 { Ring.start with kind := k, base := 0, slot := 64, n := 2, t := t, h := h, broken := broken } }

/-- Its window 0 of two halves of 64 bytes. -/
def window (q : List Delivery) (s : State) : State := s.onCore fun c =>
  { c with wins := c.wins.set 0 { init := true, base := 0, half := 64, side := false, queue := q } }

/-- An engine command, started, nothing read. -/
def command (k : CmdKind) : Cmd :=
  { id := 0, pos := 0, ctr := 0, opc := 0xA0, pc := 0, kind := k, started := true, idx := 0, kept := 0, buf := none, src := [], dst := [],
    key := none, made := 0, hint := 0, req := [], wreq := [], eq := [], done := false, paused := false }

/-- Of RingsAndWindows: RING.INIT and WIN.INIT at the ends of their ranges; a ring, a channel to a core of the plot, a broken one; k at 0, 1, n
and beside it; an empty and a full ring; a window that a begun write holds. -/
theorem witness_RingsAndWindows :
    (let ok := fun (q v : Nat) => decide (v / 2 ^ 25 = 0 ∧ q % 64 = 0 ∧ v % 2 ^ 16 ≠ 0 ∧ v % 2 ^ 16 % 64 = 0 ∧ v % 2 ^ 16 ≤ 4096 ∧
       2 ≤ v / 2 ^ 16 % 2 ^ 9 ∧ v / 2 ^ 16 % 2 ^ 9 ≤ 256 ∧ q + v / 2 ^ 16 % 2 ^ 9 * (v % 2 ^ 16) ≤ 0x30000)
     ok 0x2FF80 0x20040 = true ∧ ok 0x2FFC0 0x20040 = false ∧ ok 0 0x10040 = false ∧ ok 0 0x1000040 = true ∧ ok 0 0x1010040 = false ∧
     ok 0 0x21000 = true ∧ ok 0 0x21040 = false ∧ (regs []).core.rings[0].isChan = false) ∧
    (let s := ring .ring 2 0 false (regs [])
     s.core.rings[0].kind ≠ .none ∧ s.core.rings[0].n = 2 ∧ (2 + 2 * 2 - 0) % (2 * 2) = 2 ∧ s.core.rings[0].isChan = false ∧
       s.chanPeer s.core 0 true = none) ∧
    (regs []).core.rings[0].kind = .none ∧
    (let s := ring (.plotChan (-1) 0) 1 0 false (pair id (regs []))
     s.core.rings[0].isChan = true ∧ s.chanPeer s.core 0 false = some (0, 1) ∧ s.chanPeer s.core 0 true = none) ∧
    (let s := ring (.plotChan 1 0) 1 0 false (pair id (regs []))
     s.chanPeer s.core 0 true = some (0, 1) ∧ s.core.rings[0].broken = false) ∧
    (let ok := fun (q v : Nat) => decide (q % 64 = 0 ∧ v % 64 = 0 ∧ 64 ≤ v ∧ v ≤ 65536 ∧ q + 2 * v ≤ 0x30000)
     ok 0x2FF80 64 = true ∧ ok 0x2FFC0 64 = false ∧ ok 0x10000 65536 = true ∧ ok 0 65600 = false ∧ ok 0 0 = false ∧
       (regs []).winContract (regs []).core.loc 0 = false ∧ (regs []).winCmd (regs []).core.loc 0 = false) ∧
    (regs []).core.wins[15].init = false ∧ (window [] (regs [])).core.wins[0].init = true ∧
    (let s := window [] (regs [])
     s.winQuiet s.core.loc 0 (s.drainsInto s.core.loc 0) (s.cmdsInto s.core.loc 0) = true) ∧
    (let s := (window [] (regs [])).onCore fun c => { c with cmds := [{ command (.slmsg 0 0 0) with eq := [.window 0 0 [0]], made := 1 }] }
     s.winQuiet s.core.loc 0 (s.drainsInto s.core.loc 0) (s.cmdsInto s.core.loc 0) = false) ∧
    (let s := st fun c => { c with pq := [{ op .monarm with acq := true }] }
     s.core.pq.any (fun o => o.acq) = true) := by
  decide +kernel

/-- A gang of two, one member held at GANG. -/
def ganging (s : State) : State :=
  pair (fun c => { c with held := true, prog := some (.gang 0x22) }) s

/-- The launch made co-resident. -/
def coresident (s : State) : State := { s with launches := s.launches.map fun l => { l with cmd := { l.cmd with cores := true } } }

/-- Of ThreadsTogether: a thread of a plot of one core and of two; GANG's shapes; a gang whose other member waits, at the same PC and at
another, and does not; a communication step that ends; a plot whose threads have all yielded and not; a thread that may halt and one whose
store is not performed. -/
theorem witness_ThreadsTogether :
    (∃ p l, (regs []).core.place = some p ∧ (regs []).launchAt p.launch = some l ∧ l.cmd.cores = false ∧ l.cmd.w = 1) ∧
    (∃ p l, (coresident (pair id (regs []))).core.place = some p ∧ (coresident (pair id (regs []))).launchAt p.launch = some l ∧
      l.cmd.cores = true ∧ l.cmd.w = 2) ∧
    ((2, 1) ∈ [(1, 2), (2, 1), (2, 2), (2, 4), (4, 2)] ∧ (1, 1) ∉ [(1, 2), (2, 1), (2, 2), (2, 4), (4, 2)] ∧
      (4, 4) ∉ [(1, 2), (2, 1), (2, 2), (2, 4), (4, 2)] ∧ 2 % 2 = 0 ∧ 1 % 2 ≠ 0) ∧
    (let p : Place := { launch := 0, plot := 0, px := 0, py := 0 }
     let s := ganging (regs [])
     (s.dissolve s.core.loc).gangReady 0x22 p s.core.pc = some true ∧ (s.dissolve s.core.loc).gangReady 0x22 p 0 = some false ∧
       ((pair id (regs [])).dissolve s.core.loc).gangReady 0x22 p s.core.pc = none) ∧
    (let s := coresident (pair (fun c => { c with stage := { c.stage with stepEnded := true } }) (st fun c =>
       { c with prog := some .stepEnd, stage := { c.stage with stepEnded := true } }))
     (s.superstep 0 (some s.core.loc)).isSome = true ∧
       ((coresident (pair id (regs []))).superstep 0 (some s.core.loc)).isSome = false) ∧
    ((st fun c => { c with yielded := true }).launchAt 0).any (fun l => (st fun c => { c with yielded := true }).allYielded l 0) = true ∧
    ((pair id (regs [])).launchAt 0).any (fun l => !(pair id (regs [])).allYielded l 0) = true ∧
    ((regs []).dropFences (regs []).core.loc).haltReady ((regs []).dropFences (regs []).core.loc).core = true ∧
    (let s := st fun c => { c with pos := 1, sb := [{ pos := 0, va := 0, pa := 0, data := [0], scope := .sys, rel := false, key := 0, req := none, log := none }] }
     (s.dropFences s.core.loc).haltReady (s.dropFences s.core.loc).core = false) := by
  refine ⟨⟨_, _, by rfl, by rfl, by decide, by decide⟩, ⟨_, _, by rfl, by rfl, by decide, by decide⟩, by decide, by decide +kernel,
    by decide +kernel, by decide +kernel, by decide +kernel, by decide +kernel, by decide +kernel⟩

/-- Of BarriersEventsStages: identifiers and event names at the ends of their ranges and beside them; BAR.INIT's descriptors; a binding that may
arrive, one that has arrived, one whose firing has come, and a BAR.SYNC begun here; counts of an event; a staged loop's iterations, counters
and releases. -/
theorem witness_BarriersEventsStages :
    (2047 ≤ 2047 ∧ 2047 < 2048 ∧ 0xFFFF < 0x10000 ∧ (0xFFFF : Nat) ≤ 0xFFFF ∧ (2 ^ 63 : Nat) ≤ (0x8000000000000000 : W64).toNat ∧
      (0x7FFFFFFFFFFFFFFF : W64).toNat < 2 ^ 63 ∧ 254 ≤ 254 ∧ 254 < 255) ∧
    (let ok := fun (w : W64) => decide (bitsOf w 63 33 = 0 ∧ (w.setWidth 16 : BitVec 16).toNat / 1024 = 0 ∧ descW (w.setWidth 16) ≠ 0 ∧
       descH (w.setWidth 16) ≠ 0 ∧ 1 % descW (w.setWidth 16) = 0 ∧ 1 % descH (w.setWidth 16) = 0)
     ok 0x1FFFF0021 = true ∧ ok 0x200000021 = false ∧ ok 0x22 = false ∧ ok 0x20 = false ∧ ok 0x421 = false) ∧
    ((regs []).core.homeRec 0 0).arrived = [] ∧ ((regs []).core.binding 0).pend = false ∧ (regs []).plotReleased (regs []).core = true ∧
    (let s := st fun c => c.setBinding { c.binding 3 with pend := true, sync := some c.pc, observed := 1, reached := 2 }
     (s.core.binding 3).pend = true ∧ (s.core.binding 3).sync = some s.core.pc ∧ (s.core.binding 3).observed < (s.core.binding 3).reached) ∧
    ((regs []).core.binding 0).sync ≠ some (regs []).core.pc ∧
    (let s := (regs []).modTenant 0 fun t => { t with events := [(5, 7)] }
     s.eventSeen 5 = 7 ∧ (s.eventSeen 5 - (7 : W32)).toNat < 2 ^ 31 ∧ ¬(s.eventSeen 5 - (8 : W32)).toNat < 2 ^ 31) ∧
    (st fun c => { c with prog := some .evtSatisfied }).core.prog = some .evtSatisfied ∧
    (let g := fun (f : Stage → Stage) => (st fun c => { c with stage := f c.stage }).core.stage
     (g id).cur = none ∧ (g id).exhausted = false ∧ (g fun g => { g with exhausted := true }).exhausted = true ∧
     (g fun g => { g with cur := some 0, ctr := 254 }).ctr ≠ 255 ∧ (g fun g => { g with cur := some 0, ctr := 255 }).ctr = 255 ∧
     (g fun g => { g with cur := some 1, pred := { g.pred with iter := some 0, ctr := 1 } }).pred.iter = some 0 ∧
     ((0 : Nat) + 1 = 1 ∧ 0 < (1 : BitVec 8).toNat)) ∧
    (let t := (regs []).endIteration (regs []).core.loc
     (t.chainOf t.core).1 + (t.chainOf t.core).2 * t.core.stage.taken = 0 ∧ 0 < t.core.stage.ended + (t.launchOf t.core).throttle) := by
  decide +kernel

/-- Local memory with bytes at an address. -/
def bytesAt (a : Nat) (bs : List Byte) : Core → Core := fun c => { c with lmem := c.lmem.writeN a bs }

/-- What step 3 to 8 of R301 ask of a block read at local byte 0, its metadata at b and its scales at e. -/
def opens (bs : List Byte) (b e : Nat) : Bool :=
  let q := parseBlock bs
  let fmt := q.1.fmt.toNat
  let meta_ := q.1.sparse && q.1.role
  q.2.2 && decide (q.1.tx ≤ 17 ∧ q.1.ty ≤ 17) && comboOk q.1 q.2.1 && (b != 0) == meta_ && (!meta_ || b % 16 == 0) &&
    (e != 0 || (fmt != 7 && fmt != 10)) &&
    (e == 0 || ((fmt == 3 || fmt == 4 || fmt == 7 || fmt == 10) && !(q.1.byp && !q.1.role) &&
      scaleOk e (if q.1.role then q.1.n else q.1.m) q.1.k))

/-- A dense f16 block with its third party at (17, 17); a sparse one of the B role with metadata; a scaled one; a 6-bit one. Beside them: a
third party at 18, metadata where none is, a scaled format without scales. -/
theorem witness_LinkInstructions_blocks :
    opens ([1, 0, 0, 1, 31, 31, 0, 0, 15, 0, 0, 0, 0x31, 2] ++ List.replicate 18 0) 0 0 = true ∧
    opens ([1, 0, 0x11, 1, 0, 0, 0, 0, 3, 0, 0, 0, 0, 0] ++ List.replicate 18 0) 0x2FFF0 0 = true ∧
    opens ([1, 0, 0, 7, 0, 0, 0, 0, 3, 0, 0, 0, 0, 0] ++ List.replicate 18 0) 0 0x80 = true ∧
    opens ([1, 0, 0, 5, 0, 0, 0, 0, 3, 0, 0, 0, 0, 0] ++ List.replicate 18 0) 0 0 = true ∧
    opens ([1, 0, 0, 1, 0, 0, 0, 0, 3, 0, 0, 0, 18, 0] ++ List.replicate 18 0) 0 0 = false ∧
    opens ([1, 0, 0, 1, 0, 0, 0, 0, 3, 0, 0, 0, 0, 0] ++ List.replicate 18 0) 16 0 = false ∧
    opens ([1, 0, 0, 7, 0, 0, 0, 0, 3, 0, 0, 0, 0, 0] ++ List.replicate 18 0) 0 0 = false := by
  decide +kernel

def blockOf (twin : Nat) : Block :=
  { id := 1, sparse := false, rtout := false, byp := false, red := false, role := false, out := 0, fmt := 1, m := 1, n := 1, k := 1, twin := twin,
    ty := 0, tx := 0, restart := 0 }
def here : Place := { launch := 0, plot := 0, px := 0, py := 0 }
def opened (words : List (V512 × Bool)) (closed : Bool) : Open :=
  { seq := 1, party := here, partner := some { here with px := 1 }, kept := none, block := blockOf 0, metaBase := 0, scaleBase := 0x30000, landed := true, words := words,
    closePos := none, closed := closed }
def running (p : EngPhase) : EngRun :=
  { aSeq := 1, bSeq := 1, west := here, east := { here with px := 1 }, third := here, block := blockOf 0, aWest := true, started := true,
    step := 0, recs := [], byp := none, phase := p, out := [], tile := none,
    result := { id := 1, result := 0, row := 0, col := 0, refx := 0, refy := 0 }, redDiff := none, parityBad := false, retries := 0 }

/-- The engine to the east of the thread, its west party's contracts `w`, its east party's `e`, the matched one `r`. -/
def engine (w e : List Open) (r : Option EngRun) (s : State) : State :=
  s.setEngine { ref := s.core.loc, horiz := true, w := w, e := e, run := r, pending := [], held := none }

/-- The rest of LinkInstructions: a port that may be named, in each mode, with words still to feed and none; a contract open there and none;
deliveries of each result. -/
theorem witness_LinkInstructions :
    portClear (pair id (regs [])) .e = true ∧ localOk (regs []).core 0x2FFE0 32 = true ∧ ((regs []).core.port .e).mode = .word ∧
    (∃ ds, readDesc (regs []) 0x2FFE0 = .ok ds ∧ ds.total = 1 ∧ badElem (regs []).core ds = none) ∧
    (let s := pair id (st (port .instr [] fun p => { p with w := 2, fed := 1 }))
     portClear s .e = true ∧ (s.core.port .e).mode = .instr ∧ (s.core.port .e).fed < (s.core.port .e).w) ∧
    (let s := pair id (st (port .direct [] fun p => { p with w := 2, fed := 2, isOpen := true }))
     portClear s .e = true ∧ (s.core.port .e).mode = .direct ∧ (s.core.port .e).w ≤ (s.core.port .e).fed ∧ (s.core.port .e).isOpen = true) ∧
    ((regs []).core.port .e).isOpen = false ∧ (pair id (regs [])).portSide (regs []).core .e ≠ .foreign ∧
    (regs []).core.wins[0].init = false ∧
    (let q := fun (r : BitVec 4) => ({ id := 0, result := r, row := 0, col := 0, refx := 0, refy := 0 } : Delivery)
     ∀ r ∈ [1, 2, 3, 4, 5], (window [q r] (regs [])).core.wins[0].init = true ∧ (window [q r] (regs [])).core.wins[0].queue = [q r]) ∧
    (window [] (regs [])).core.wins[0].queue = [] ∧
    (let s := pair id (st (port .instr [] fun p => { p with isOpen := true, divert := some (3, 0), cancelled := some (0 - 1) }))
     (s.core.port .e).mism = none ∧ (s.core.port .e).divert ≠ none ∧ (s.core.port .e).cancelled = some (s.cycle - 1)) ∧
    (let s := engine [opened [] false] [] none (pair id (st (port .instr [] fun p => { p with isOpen := true, seq := 1 })))
     (s.core.port .e).isOpen = true ∧ ((s.engineAt s.core.loc true).side true).any (fun o => o.isOf s.core.place (s.core.port .e).seq) = true) := by
  refine ⟨by decide +kernel, by decide +kernel, by decide, ⟨_, by rfl, by decide, by decide +kernel⟩, by decide +kernel, by decide +kernel,
    by decide, by decide +kernel, by decide, by decide +kernel, by decide, by decide +kernel, by decide +kernel⟩

/-- Of EngineInstructions, XCOPY's checks on a copy of n elements of formats f and g between local bytes. -/
def copies (dst src n f g : Nat) : Bool :=
  let size := fun (f : Nat) => n * fmtBits f / 8
  !fmtReserved f && !fmtReserved g && n * fmtBits f % 8 == 0 && n * fmtBits g % 8 == 0 && (fmtBits f != 6 || n % 4 == 0) &&
    (fmtBits g != 6 || n % 4 == 0) && dst % fmtAlign g == 0 && src % fmtAlign f == 0 && decide (dst + size g ≤ 0x30000) &&
    decide (src + size f ≤ 0x30000) && !overlaps dst (size g) src (size f)

theorem witness_EngineInstructions_copies :
    copies 0 0x2FFC0 16 0 0 = true ∧ copies 0 0x2FFC0 32 1 3 = true ∧ copies 0x40 0 8 5 1 = true ∧ copies 0 0x2FFC0 17 0 0 = false ∧
    copies 0 0x40 3 9 9 = false ∧ copies 0 0x40 2 5 1 = false ∧ copies 0 0 1 0 0 = false ∧ (fmtType 1).isSome = true ∧
    sideFmt (st (format 0x13)).core true 0 0 = (3, true) ∧ sideFmt (regs []).core false 1 0 = (1, false) := by
  decide +kernel

/-- Of EngineInstructions: a counter that has faulted and none; a count reached and not; room for a command and none. -/
theorem witness_EngineInstructions :
    (regs []).core.ctrs[7].fault = false ∧
    (st fun c => { c with ctrs := c.ctrs.set 0 { c.ctrs[0] with fault := true } }).core.ctrs[0].fault = true ∧
    (let s : State := { (st fun c => { c with cmds := List.replicate 31 (command (.slmsg 0 0 0)) }) with msgs := [.chanData 0 1 0 0 0 [] 0] }
     s.inFlight s.core = 32) ∧ (regs []).inFlight (regs []).core < 32 ∧
    -- GETX and PLACEX: one lane at the last word of a core's local memory
    (let q := parseAcc ([0xFC, 0xFF, 2, 0, 0, 0, 0, 0, 1, 0, 0, 0, 4, 0, 0, 0, 1] ++ List.replicate 15 0)
     q.mbz = true ∧ q.kind = 1 ∧ q.core = 0 ∧ q.bound = 1 ∧ (q.base + 0 * q.stride) % 2 ^ 64 + 4 ≤ 0x30000 ∧ 0 < q.bound) ∧
    -- COMPACT: one row of 64 bytes
    (let win := (window [] (regs [])).core.wins[0]
     win.init = true ∧ 1 * 64 ≤ win.half ∧ overlaps 0x80 64 win.base (2 * win.half) = false ∧ overlaps 0x2FFFC 4 win.base (2 * win.half) = false ∧
       overlaps 0x80 64 0x2FFFC 4 = false ∧ localOk (regs []).core 0x2FFFC 4 = true ∧ localOk (regs []).core 0x2FFFE 4 = false) ∧
    -- KEYQ and KEYG: the smallest row and head
    (let bs : List Byte := [0x10, 0, 1, 0, 0, 0, 0, 0, 0, 0, 0, 0, 0x0F, 0x10] ++ List.replicate 50 0
     let q := (parseKey bs false).1
     (parseKey bs false).2 = true ∧ (parseKey bs true).2 = true ∧ q.qaddr % 64 = 0 ∧ q.topk ≠ 0 ∧ 16 ≤ q.dh ∧ q.wmode ≠ 3 ∧ q.vfmt.toNat ≤ 4 ∧
       q.qfmt.toNat ∈ [1, 3, 4] ∧ localOk (regs []).core q.qaddr (2 * q.dh * (fmtBits q.qfmt.toNat / 8)) = true ∧
       roundUp64 (4 * q.rl) + roundUp64 (8 * q.topk) ≤ 128 ∧ roundUp64 (8 * q.dh) ≤ 128) ∧
    (let s := (regs []).modTenant 0 fun t => { t with dies := 1 }
     (s.tenantAt s.core.tenantNo).physDie 0 = some 0 ∧ (s.tenantAt s.core.tenantNo).physDie (63 / 16) = none) ∧
    -- the channels: an end with room, a full one, one without a peer and a broken one
    (let s := ring (.plotChan (-1) 0) 1 0 false (pair id (regs []))
     s.chanPeer s.core 0 false = some (0, 1) ∧ s.chanPeer s.core 0 true = none ∧ (s.coreOfIndex 0 1).isSome = true ∧
       s.released s.core .dev = true ∧ (s.core.rings[0].prodT + 2 * 2 - s.core.rings[0].prodH) % (2 * 2) < 2 ∧
       s.pathHeld s.core.loc.die 0 = false ∧ localOk s.core 0 64 = true) ∧
    (ring (.plotChan 1 0) 1 0 true (pair id (regs []))).core.rings[0].broken = true := by
  decide +kernel

/-- A request of the thread's for a line, sent. -/
def askedFor (line : Nat) : Req :=
  { id := 0, agent := .core, owner := (regs []).core.loc, va := line, slice := 0, line := line, tenant := 0, kind := .read, hint := 0,
    cmb := false, st := .transit, at_ := 0, die := 0, waits := none, late := false, quiet := false, cnt := 0 }

/-- A slice core's invocation of the handler of a miss, with x registers. -/
def handler (l : List (XReg × W64)) (f : Invocation → Invocation) : State :=
  (({ inSlice f with owners := [(0, 0)], keys := [(0, 0)] } : State).modDie 0 fun d => { d with tlb := [{ tenant := 0, va := 0, size := 0x1000, pte := 0x4000F }] }).onCore fun c =>
    l.foldl (fun (c : Core) p => c.setX p.1 p.2) { c with npc := 0x40 }

def runningInv (s : State) : Option Invocation := (s.sliceAt (sliceNo s.core.loc)).inv

/-- Of SliceInstructions: a line of the range that translates, one that does not, and the first beside the range; a message not yet answered;
lines bound at their ends, and none; a forward to a window, past its end, and to a halted thread. -/
theorem witness_SliceInstructions :
    (∃ v, runningInv (handler [] id) = some v ∧ v.reg.lo = 0 ∧ v.reg.hi = 0x1000 ∧ v.f0 = none ∧
      (handler [] id).translateDie 0 v.trig.tenant 0xF80 Access.read = .hit 0x40F80 0x4000F) ∧ (handler [] id).isPoisoned 0x40F80 = false ∧
    (({ handler [] id with poison := [(0x40F80, 1)] } : State).isPoisoned 0x40F80 = true) ∧
    (inSlice id).translateDie 0 0 0 Access.read = .refuse 8 1 ∧ (0xFFF : Nat) < 0x1000 - 0 ∧
    (∃ v, runningInv (handler [] fun v => { v with trig := { v.trig with kind := .msg } }) = some v ∧ v.trig.kind = .msg ∧ v.replied = false ∧
      (0x7FC0 % 64 = 0 ∧ 0x7FC0 + 64 ≤ 0x8000)) ∧
    (∃ v, runningInv (handler [] fun v => { v with f0 := some (List.replicate 128 0, 64), f1 := some (List.replicate 128 0, 0) }) = some v ∧
      v.f0 = some (List.replicate 128 0, 64) ∧ v.f1 = some (List.replicate 128 0, 0)) ∧
    -- the line's own miss, a line of no slice, one asked for and one that has come; a budget not spent and spent
    ((runningInv (handler [] id)).any fun v => v.trig.kind == .miss && v.trig.line != 0x40F80) = true ∧
    ((runningInv (handler [] fun v => { v with trig := { v.trig with line := 0x40F80 } })).any fun v => v.trig.line == 0x40F80) = true ∧
    (handler [] id).inSlice 0x40F80 = false ∧ (handler [] id).core.prog = none ∧
    (let s : State := { (handler [] id).onCore fun c => { c with prog := some (.shFetch 0) } with reqs := [{ (askedFor 0x40F80) with agent := .slice }] }
     s.core.prog = some (.shFetch 0) ∧ s.reqAt 0 ≠ none ∧ s.reqAt 1 = none) ∧
    ((runningInv (handler [] id)).any fun v => !v.spent (handler [] id).core (handler [] id).cycle) = true ∧
    (let s := { handler [] (fun v => { v with start := some 0 }) with cycle := 512 }
     (runningInv s).any fun v => v.spent s.core s.cycle) = true := by
  refine ⟨⟨_, by rfl, by decide, by decide, by decide, by decide +kernel⟩, by decide +kernel, by decide +kernel, by decide +kernel, by decide,
    ⟨_, by rfl, by decide, by decide, by decide⟩, ⟨_, by rfl, by rfl, by rfl⟩, by decide +kernel, by decide +kernel, by decide +kernel,
    by decide +kernel, by decide +kernel, by decide +kernel, by decide +kernel⟩

/-- More of SliceInstructions: a request still on its way, one that its window has answered, and one that has returned; a line that its slice
holds, which is neither the host's nor the handler's own miss; a word past the end of handler memory; a link that holds the way to a window. -/
theorem witness_SliceInstructions_lines :
    (let asks := fun (t : ReqState) => { askedFor 0x40F80 with agent := .slice, st := t }
     let s := fun (l : List Req) => ({ (handler [] id).onCore fun c => { c with prog := some (.shFetch 0) } with reqs := l } : State)
     (s [asks .begun]).reqAt 0 = some (asks .begun) ∧ (asks .begun).st ≠ .answered ∧ (asks .answered).st = .answered ∧ (s []).reqAt 0 = none) ∧
    (let s := (handler [] id).modSlice 1 fun q => { q with lines := [sliceLine 0x40F80] }
     s.inSlice 0x40F80 = true ∧ isHost 0x40F80 = false ∧ (placedInvocation []).trig.line ≠ 0x40F80) ∧
    0x8000 < 0x7FC1 + 64 ∧ (handler [] id).core.badLocal = [] ∧ (handler [] id).core.soft = [] ∧
    (let s : State := { handler [] id with brambles := (regs []).brambles.set 0 { retraining := some 0, down := false } }
     s.pathHeld 0 1 = true) := by
  decide +kernel

/-- The handler beside a resident launch of one core, whose thread is `t` of the placed one's. -/
def forwarding (t : Core → Core) : State :=
  let s := handler [] id
  let p := regs []
  { s with cores := [t p.core] ++ s.cores, launches := p.launches }

theorem witness_SliceInstructions_forwards :
    (let s := forwarding (fun c => { c with wins := c.wins.set 0 { init := true, base := 0, half := 64, side := false, queue := [] } })
     ∃ t, s.coreOfIndex 0 0 = some t ∧ t.run.isHalted = false ∧ t.wins[0].init = true ∧ 0 + 64 ≤ t.wins[0].half ∧ t.wins[0].half < 64 + 64) ∧
    (∃ t, (forwarding fun c => { c with run := .halted 0 }).coreOfIndex 0 0 = some t ∧ t.run.isHalted = true) ∧
    (∃ l, (forwarding id).launchAt 0 = some l ∧ 0 < l.count * l.cmd.w * l.cmd.h) := by
  refine ⟨⟨_, by rfl, by decide, by decide, by decide, by decide⟩, ⟨_, by rfl, by decide⟩, ⟨_, by rfl, by decide⟩⟩

/-- The control core beside a resident launch of one core. -/
def controlling (l : List (XReg × W64)) (p : Plot → Plot) (f : Core → Core) : State :=
  let s := control fun c => f (l.foldl (fun (c : Core) p => c.setX p.1 p.2) { c with npc := 0x40004 })
  let q := regs []
  { s with launches := q.launches.map fun l => { l with plots := l.plots.map p }, mgmt := { s.mgmt with diesOk := 15 } }

/-- Of MachineInstructions: addresses and rectangles at their boundaries; stores performed and not; a plot that runs, one that is saved and
held, one that loads; a free rectangle. -/
theorem witness_MachineInstructions :
    ((0xFFFFFFFFFFFF : W64).toNat < 2 ^ 48 ∧ (2 ^ 48 : Nat) ≤ (0x1000000000000 : W64).toNat) ∧
    (regs []).storesDone (regs []).core (regs []).core.pos .dev = true ∧
    (let s := st fun c => { c with pos := 1, sb := [{ pos := 0, va := 0, pa := 0, data := [0], scope := .sys, rel := false, key := 0, req := none, log := none }] }
     s.storesDone s.core s.core.pos .dev = false) ∧
    (control id).core.loc.kind = .control ∧ (0x50000 % 4096 = 0 ∧ isDevice 0x50000 = true ∧ isDevice 0x2000000000 = false) ∧
    ((control id).physWindowed 0x50000 4096 = false ∧
      ((control id).modSlice 0 fun q => { q with combines := [{ line := 0x50F80, opened := 0, joined := [] }] }).physWindowed 0x50000 4096 = true) ∧
    ctxRect 0x20 = none ∧ ctxRect 0x40000 = none ∧ ctxRect 0x31111 = some (3, 17, 17) ∧ (control id).core.prog = none ∧
    (let s := controlling [] id fun c => { c with prog := some (.ctxWait 0 0) }
     s.core.prog = some (.ctxWait 0 0) ∧ (s.plotAt 0 0).isSome = true ∧ s.plotAt 0 1 = none) ∧
    (let reserved := fun (pa : Nat) => decide (¬(pa < 0x2000000000 ∨ (0x8000000000 ≤ pa ∧ pa < 0x10000000000) ∨
       (0x400000000000 ≤ pa ∧ pa < 0x800000000000)))
     reserved 0x2000000000 = true ∧ reserved 0x1FFFFFFFFF = false ∧ reserved 0x400000000000 = false ∧ reserved 0x3FFFFFFFFFFF = true) ∧
    ((controlling [] id id).plotFrom (0, 0, 0) Plot.runs).isSome = true ∧ (controlling [] id id).plotFrom (0, 1, 0) Plot.runs = none ∧
    (let s := controlling [] (fun p => { p with st := .saved, hold := true, home := some (0, 0, 0) }) id
     (s.recordPlot 0x50000).any (fun e => e.2.2.isSaved && !s.isPinned e.1 e.2.1 e.2.2 &&
       (e.1.loadRects e.2.1 (0, 0, 0)).all fun r => (e.1.plots[r.plot]?.any Plot.isSaved) && s.rectFree r [] (fun _ => false)) = true) ∧
    -- TLBINV: an earlier store not performed, a load of an entry it removes, and none
    (let s := st fun c => { c with prog := some (.tlbinv [] []) }
     s.core.prog = some (.tlbinv [] []) ∧ s.tlbinvWaits [] [] = false) ∧
    (let s := st (writes [.load (.x 3 .n64)] [])
     s.tlbinvWaits [(s.core.loc, 0)] [] = true ∧ s.storesDone s.core s.core.pos .dev = true) := by
  decide +kernel

/-- A group of the thread with itself, base 0. -/
def grouped (f : Core → Core) : State :=
  { st f with groups := [{ launch := 0, core := 0, k := 0, members := [0x10000000000], base := 0, epoch := 0 }] }

/-- Of Reductions: GRP.SET's words, a list that is good, one that is empty, one with a gap, one without the core, one with an index beside the
last, one with an unknown peer; LDRED's address at the last line and beside it, and each state of its request. -/
theorem witness_Reductions :
    (let ok := fun (ws : List W64) =>
       let used := ws.filter fun w => w.getLsbD 40
       !used.isEmpty && ws.take used.length == used && (ws.all fun w => bitsOf w 63 41 == 0 && decide (bitsOf w 39 32 ≤ 63)) &&
         used.eraseDups == used && used.contains (w64 (2 ^ 40 + 0 % 2 ^ 32)) && used.all fun w => if bitsOf w 39 32 = 0
           then decide (bitsOf w 31 0 < 1) else (((regs []).tenantAt 0).peer (bitsOf w 39 32)).v
     ok [0x10000000000, 0, 0, 0, 0, 0, 0, 0] = true ∧ ok (List.replicate 8 0) = false ∧ ok [0, 0x10000000000, 0, 0, 0, 0, 0, 0] = false ∧
     ok [0x10000000000, 0x10000000000, 0, 0, 0, 0, 0, 0] = false ∧ ok [0x10000000000, 0x10000000001, 0, 0, 0, 0, 0, 0] = false ∧
     ok [0x10000000000, 0x10100000000, 0, 0, 0, 0, 0, 0] = false ∧ ok [0x30000000000, 0, 0, 0, 0, 0, 0, 0] = false) ∧
    localOk (regs []).core 0x2FFC0 64 = true ∧ (regs []).groupOf 0 0 0 = none ∧ ((grouped id).groupOf 0 0 0).isSome = true ∧
    (0x20 : Nat) % 64 ≠ 0 ∧ (grouped id).core.prog = none ∧ (grouped id).released (grouped id).core .dev = true ∧ (grouped id).core.cmds = [] ∧
    (st fun c => { c with cmds := [command (.slmsg 0 0 0)] }).core.cmds ≠ [] ∧
    ((grouped id).groups.all fun g => (grouped id).redRecord g = none && !(grouped id).redComing g) = true ∧
    (let s : State := { grouped id with msgs := [.redRes 0 0 [0x10000000000] 0 .mismatch 0] }
     (s.groups.all fun g => s.redRecord g = none && s.redComing g) = true) ∧
    (grouped fun c => { c with prog := some (.ldredSent [] 0) }).core.prog = some (.ldredSent [] 0) ∧
    (grouped fun c => { c with prog := some (.ldredGot [] 0 .mismatch) }).core.prog = some (.ldredGot [] 0 .mismatch) := by
  decide +kernel

/-- The gang of `pair`, formed, whose first member is held. -/
def ganged : State :=
  let g : Gang := { desc := 0x22, outs := [] }
  pair (fun c => { c with gang := some g, held := false }) (st fun c => { c with gang := some g, held := true })

/-- Of EventsOfThreads: a held thread's assist; a word to land; a gang with a held member; a firing; a signal; an event whose count is
reached; stage messages and ends; a credit at the cap and beside it; a wait with a bound. -/
theorem witness_EventsOfThreads :
    (let c := (st fun c => { c with held := true, prog := some (.assist false) }).core
     c.held = true ∧ c.prog = some (.assist false)) ∧ (st (port .word [(7, false)] id)).core.fifoOf .e = [{ data := 7, landed := false, pusher := none }] ∧
    (ganged.core.gang.isSome = true ∧ ganged.core.held = true ∧
      (ganged.allCores.any fun k => k.gang = ganged.core.gang && k.loc ≠ ganged.core.loc && !k.held && k.run == .running &&
        k.place.any fun q => ganged.core.place.any fun p => sameShape 0x22 q p) = true) ∧
    (let c := (st fun c => { c with sigs := [{ pos := c.pos, ev := 0, amt := 1 }] }).core
     (regs []).storesDone c c.pos .dev = true ∧ c.loadsDone c.pos = true ∧ c.cmds = []) ∧
    (let s := st fun c => { c with prog := some (.evtWaiting 5 7) }
     s.isActive 0 5 = false ∧ s.waiters 0 5 ≠ [] ∧ s.active.length < 4096) ∧
    (let s := (st fun c => { c with prog := some (.evtWaiting 5 7) }).modTenant 0 fun t => { t with events := [(5, 7)] }
     s.core.prog = some (.evtWaiting 5 7) ∧ s.core.tenantNo = 0 ∧ (tabGet 0 (s.tenantAt 0).events 5 - (7 : W32)).toNat < 2 ^ 31) ∧
    ((coresident (st fun c => { c with stage := { c.stage with stepEnded := true } })).superstep 0 none).isSome = true ∧
    (st fun c => { c with stage := { c.stage with msgs := [c.stage.pred], ends := 1 } }).core.stage.ends = 1 ∧
    (let used := fun (g : Nat) => (((regs []).sliceAt 0).log.filter fun e => e.tenant = 0).length + g
     used 4032 + 64 ≤ ((regs []).tenantAt 0).logCap ∧ ((regs []).tenantAt 0).logCap < used 4033 + 64) ∧
    (st fun c => { c with prog := some (.mwait 0 false), held := true }).core.held = true := by
  decide +kernel

/-- More of EventsOfThreads: operations and stores that may take their place; a die buffer and an outbound queue with a store; a walk whose
table answers and one whose table does not; a line that the patrol scrub finds; a latched trap; a launch whose threads have halted. -/
theorem witness_EventsOfThreads_memory :
    (let s := st (writes [.load (.x 3 .n64)] [])
     s.core.opAt 0 = some (op (.load (.x 3 .n64))) ∧ s.loadReady s.core (op (.load (.x 3 .n64))) = true) ∧
    (let s := st (writes [.atomic (.amo .add 1) 3] [])
     s.core.opAt 0 = some (op (.atomic (.amo .add 1) 3)) ∧ s.atomicReady s.core (op (.atomic (.amo .add 1) 3)) = true) ∧
    (let s := st (writes [.monarm] [])
     s.core.opAt 0 = some (op .monarm) ∧ s.loadReady s.core (op .monarm) = true) ∧
    (let s := st (writes [] [store])
     s.core.sb.find? (fun t => t.pos = 0) = some store ∧ s.storeReady s.core 0 0x40100 1 .sys false = true) ∧
    (let b : BStore := { owner := .core (regs []).core.loc, pos := 0, pa := 0x40100, data := [1], at_ := 0, key := 0 }
     ((((regs []).modDie 0 fun d => { d with db := [b] }).dieAt 0).db[0]? = some b)) ∧
    (let s := { regs [] with mem := (regs []).mem.writeN 0x13000 (natBytes 8 0x4000F) }
     let s1 := { s with mem := ((s.mem.writeN 0x10000 (natBytes 8 0x11001)).writeN 0x11000 (natBytes 8 0x12001)).writeN 0x12000 (natBytes 8 0x13001) }
     (((s1.modTenant 0 fun t => { t with ptroot := 0x10000 }).walkTable 0 0 0).toOption.isSome = true ∧ ((regs []).walkTable 0 0 0).toOption = none)) ∧
    (isDevice 0x40000 = true ∧ (tabGet 0xFF (regs []).owners 0).toNat < 64 ∧ (regs []).isPoisoned 0x40000 = false) ∧
    (st fun c => { c with chanbroken := [7] }).core.nextAsync.isSome = true ∧
    (let s := st fun c => { c with run := .halted 0 }
     (s.launchAt 0).any s.mergePoint = true ∧ s.launchQuiet 0 = true ∧ s.logClear 0 = true ∧ s.slices = []) ∧
    (let s := st fun c => { c with stashes := c.stashes.set 0 (some { lbase := 0, gbase := 0, pages := 1, entries := [] }) }
     s.core.stashes[0].isSome = true) ∧
    (let q : Req := { askedFor 0x40000 with owner := locAt 1 0, kind := .own, st := .begun }
     q.writes = true ∧ q.kind ≠ .log ∧ q.owner ≠ (regs []).core.loc ∧ q.st ≠ .transit ∧ q.st ≠ .joined) ∧
    (let p : Place := { launch := 0, plot := 0, px := 0, py := 0 }
     (regs []).core.place = some p ∧ (regs []).coreIndex (regs []).core = 0 ∧ (regs []).pathHeld 0 0 = false ∧
       (let s : State := { regs [] with brambles := (regs []).brambles.set 0 { retraining := some 0, down := false } }
        s.pathHeld 0 1 = true)) ∧
    (let p : Place := { launch := 0, plot := 0, px := 0, py := 0 }
     (pair id (regs [])).core.memberOf p 0x22 = true ∧ (pair id (regs [])).core.memberOf { p with plot := 1 } 0x22 = false) ∧
    (let s := window [] (st fun c => { c with held := true, prog := some (.winPub 0 [] []) })
     s.core.held = true ∧ s.winQuiet s.core.loc 0 [] [] = true) ∧
    (let s : State := { st (writes [.atomic (.amo .add 1) 3] [store]) with
       locks := [{ tenant := 0, va := 0x40000, size := 0x1000, pte := 0x4004F }] }
     s.withheld 0 0x40100 0x40100 true = true ∧ s.withheld 0 0x40100 0x40100 false = false ∧ (regs []).withheld 0 0x40100 0x40100 true = false ∧
       { s with scrubbing := [0] }.withheld 0 0x40100 0x40100 false = true ∧ s.reqBack 0 = false) ∧
    (let s := st fun c => { c with held := true, walk := some (0x90000, Access.read) }
     s.core.walk = some (0x90000, Access.read) ∧ (s.core.tenantNo, 0x90) ∈ (s.walks s.core.loc.die).take 32 ∧
       s.walkHeld s.core.loc.die s.core.tenantNo 0x90000 = false ∧
       { s with scrubbing := [0] }.walkHeld s.core.loc.die s.core.tenantNo 0x90000 = true) ∧
    (let s := st fun c => { c with badLocal := [4], uncorrected := none }
     s.core.nextAsync = none) := by
  decide +kernel

/-- A machine in which line 0x40100 has an open combining window, which a request of number 0 has opened. -/
def combining (f : Core → Core) (t : ReqState) : State :=
  let s := (st f).modSlice 0 fun q => { q with combines := [{ line := 0x40100, opened := 0, joined := [0] }] }
  { s with reqs := [{ askedFor 0x40100 with agent := .engine, cmb := true, st := t }], reqNo := 1 }

/-- More of EventsOfThreads: an operation and a store that a new translation has refused; a line whose combining window is open, and none; a
window's answered read, which recalls nothing; a walk that reads a poisoned table line. -/
theorem witness_EventsOfThreads_holds :
    (let s := st fun c => { (writes [.load (.x 3 .n64)] [store] c) with barred := [0] }
     (op (.load (.x 3 .n64))).pos ∈ s.core.barred ∧ store.pos ∈ s.core.barred) ∧
    ((combining id .begun).windowed 0x40100 = true ∧ (regs []).windowed 0x40100 = false ∧ (op .monarm).req = none ∧ store.req = none) ∧
    (ReqState.begun ≠ .answered ∧ ReqState.begun ≠ .transit ∧ ∀ p, ReqState.begun ≠ .queued p) ∧
    (let s : State := { regs [] with poison := [((regs []).tenantAt 0).ptroot.toNat / 128 * 128].map fun a => (a, 0) }
     ((s.tablesOf 0 0 0x9000).any fun pa => s.isPoisoned pa) = true ∧ ((regs []).tablesOf 0 0 0x9000).all (fun pa => !(regs []).isPoisoned pa) = true) := by
  refine ⟨by decide +kernel, by decide +kernel, ⟨by decide, by decide, fun _ h => nomatch h⟩, by decide +kernel⟩

/-- R369, R362: a poisoned code line latches UNCORRECTED, source 3, its address in XINFO2. -/
theorem test_fetch_poisoned :
    after none (fun t => t.core.uncorrected) (step { placed [0x4141, 0x0007] with poison := [(0x40000, 0)] }) =
      some (3, 0x40000, 0) := by decide

/-- A launch whose threads have halted, with one deferred update (an i32 add of 5 to the word at 0x40100) and one page entry. -/
def merging (pte : W64) : State :=
  ((st fun c => { c with run := .halted 0, tlb := [] }).modSlice 0 fun q =>
    { q with pass := some 0, log := [{ launch := 0, tenant := 0, slice := 0, va := 0x40100, pa := 0x40100, op := .add, ty := .i32, operand := 5, core := 0, seq := 0 }] }).modDie
      0 fun d => { d with tlb := [{ tenant := 0, va := 0x40000, size := 0x10000, pte := pte }] }

/-- R246, R265: a LOCK leaf holds the update; afterwards it goes where the leaf's page then lies. -/
theorem test_merge_locked :
    ((merging 0x4004F).logClear 0 = false) ∧
    after none (fun t => some (t.mem.readN 0x50100 4, t.logOf 0)) (exec (.logMerge 0) (merging 0x5000F)) = some ([5, 0, 0, 0], []) := by
  decide

def withCmd (m : Cmd) (f : Core → Core) : State := st fun c => f { c with pos := 1, cmds := [m] }

/-- KEYQ's parameters on slots of one key of 16 dimensions, and a machine whose tenant has bound them. -/
def keys : KeyParams :=
  { unit := 0, ta := 0, tb := 1, topk := 1, vfmt := 0, wmode := 0, rl := 1, owin := 0, qaddr := 0, qfmt := 1, dh := 16, vbase := 0x41000,
    gaddr := 0, vgrad := 0, kgrada := 0, kgradb := 0 }
def bound (s : State) : State :=
  let q : QSlot := { tenant := 0, valid := true, busy := false, fmt := 1, n := 1, d := 16, keyBase := 0x40000, pages := [some (0x40000, 0)] }
  (({ s with quince := [(0, 0, q), (0, 1, q)] } : State).modTenant 0 fun t => { t with dies := 1 }).modDie 0 fun d =>
    { d with tlb := [{ tenant := 0, va := 0x40000, size := 0x10000, pte := 0x4000F }] }

/-- Of EventsOfUnits, the engine commands: each kind's read, an element produced, a write applied, paused and stopped, and a command done. -/
theorem witness_EventsOfUnits_commands :
    (let s := withCmd (command (.slmsg 0 0x40 0)) id
     s.core.cmds.find? (fun m => m.id = 0) = some (command (.slmsg 0 0x40 0)) ∧ s.core.loadsDone 0 = true ∧ s.storesDone s.core 0 .dev = true ∧
       s.nextRead s.core (command (.slmsg 0 0x40 0)) = .bytes (List.replicate 64 0) [] [(s.core.loc, 0, 64)]) ∧
    (let m := command (.xcopy 0 0x50000 16 1 0 0 .rne false)
     (withCmd m id).nextRead (withCmd m id).core m = .stop 8 0x50000) ∧
    (let m := command (.xcopy 0 0x40000 16 1 0 0 .rne false)
     let s := { withCmd m id with scrubbing := [0] }
     s.nextRead s.core m = .wait) ∧
    (let s := bound (withCmd (command (.keyq keys)) id)
     (s.keyStart s.core keys).toOption.any (fun r => (match (s.keyRead s.core keys false r 0).1 with | .bytes _ _ _ => true | _ => false) &&
       (s.keyRead s.core keys true r 0).2 == 0) = true) ∧
    (let m := command (.xcopy 0 0x40000 16 1 0 0 .rne false)
     let t := (withCmd m id).modSlice (homeSlice 0x4000F 0x40000) fun q =>
       { q with regs := [{ (placedInvocation []).reg with lo := 0x40000, hi := 0x41000, pages := [(0x40000, 0x40000, 0x1000)] }] }
     m.globalRead = some (0x40000, 64) ∧ (withCmd m id).sentAll ((withCmd m id).engineReq (withCmd m id).core (withCmd m id).core.loc 0 0x40000 64) = [0] ∧
       ((withCmd m id).engineReq (withCmd m id).core (withCmd m id).core.loc 0 0x40000 64).reqHeld 0 = false ∧
       t.sentAll (t.engineReq t.core t.core.loc 0 0x40000 64) = [t.reqNo] ∧ (t.engineReq t.core t.core.loc 0 0x40000 64).reqHeld t.reqNo = true) ∧
    (let m := { command (.slmsg 0 0x40 0) with started := false }
     (withCmd m id).core.cmds.find? (fun m => m.id = 0) = some m ∧ m.started = false) ∧
    (let m := { command (.xcopy 0 0x40000 16 1 0 0 .rne false) with req := [0] }
     m.req ≠ [] ∧ (withCmd m id).reqHeld 0 = false) ∧
    (match (regs []).targetOf (regs []).core 0 with
     | .core _ => true
     | _ => false) = true ∧
    (let s : State := { regs [] with brambles := (regs []).brambles.set 0 { retraining := some 0, down := false } }
     s.pathHeld 0 (16 / 16) = true ∧ (regs []).pathHeld 0 (16 / 16) = false) ∧
    ((regs []).applyWrite (regs []).core.loc (.lmem 0 [1])).toOption.isSome = true ∧
    ((regs []).applyWrite (regs []).core.loc (.window 0 0 [1])).toOption = none ∧
    ({ command (.slmsg 0 0 0) with done := true } : Cmd).eq = [] := by
  decide +kernel

/-- More of EventsOfUnits: a write whose request a combining window keeps back, and one that sends none; a unit's write that a link holds; a
link with a fenced end. -/
theorem witness_EventsOfUnits_holds :
    (let m : Cmd := { command (.xcopy 0x40100 0 1 1 0 0 .rne false) with eq := [.global 0x40100 [1]], wreq := [0] }
     let s := combining (fun c => { c with pos := 1, cmds := [m] }) .begun
     (s.sendWrite s.core m (.global 0x40100 [1])).2 = [0] ∧ s.reqBack 0 = true ∧ s.unitHeld s.core m (.global 0x40100 [1]) = false) ∧
    (let m : Cmd := { command (.slmsg 0 0 0) with eq := [.lmem 0 [1]] }
     ((regs []).sendWrite (regs []).core m (.lmem 0 [1])).2 = []) ∧
    (let m : Cmd := { command (.keyq { keys with unit := 1 }) with eq := [.window 0 0 [1]] }
     let s := (withCmd m id).modTenant 0 fun t => { t with dies := 3 }
     let u : State := { s with brambles := s.brambles.set 0 { retraining := some 0, down := false } }
     u.unitHeld u.core m (.window 0 0 [1]) = true ∧ s.unitHeld s.core m (.window 0 0 [1]) = false) ∧
    (let s := engine [] [] (some (running .stepping)) (pair id (regs []))
     let u : State := { s with mgmt := { s.mgmt with fenced := [s.core.loc] } }
     u.linkFenced u.core.loc true = true ∧ (u.engineAt u.core.loc true).run ≠ none ∧ s.linkFenced s.core.loc true = false) := by
  decide +kernel

/-- Of EventsOfUnits, the links: an open to land, a word to feed, a full operand FIFO; a step with both words, a drain with both closes (to a
window, to none, and to a halted thread), an element to apply, a delivery to count. -/
theorem witness_EventsOfUnits_links :
    (engineOf (regs []).core.loc .e = ((regs []).core.loc, true, true)) ∧
    (let s := engine [{ opened [] false with landed := false }] [] none (pair id (regs []))
     (s.engineAt s.core.loc true).side true = [{ opened [] false with landed := false }]) ∧
    (let f : StreamDesc := { base := 0, counts := [1, 1, 1, 1], strides := [0, 0, 0, 0] }
     let s := st (port .direct [] fun p => { p with w := 1, feed := some f })
     (s.core.port .e).feed = some f ∧ (s.core.port .e).fed < (s.core.port .e).w ∧ (s.engineAt s.core.loc true).fill true (some here) < 8 ∧
       s.core.badLocal.contains ((f.addr 0).toNat / 64) = false) ∧
    (let s := engine [opened (List.replicate 8 (0, true)) false] [] none (pair id (st (port .direct [] fun p => { p with w := 9, fed := 8 })))
     8 ≤ (s.engineAt s.core.loc true).fill true (some here) ∧ (s.engineAt s.core.loc true).run = none ∧ s.core.run.isHalted = false ∧
       engineEnd s.core.loc true false ≠ s.core.loc) ∧
    (let s := engine [opened [(1, true)] false] [opened [(2, true)] false] (some (running .stepping)) (pair id (regs []))
     (s.engineAt s.core.loc true).run = some (running .stepping) ∧ 0 < (running .stepping).block.steps ∧
       (running .stepping).retries = 0 ∧ 8 < ({ running .stepping with retries := 9 } : EngRun).retries ∧ (s.launchAt 0).isSome = true ∧
       (s.partyOf (opened [] false)).soft = [] ∧ (s.partyOf (opened [] false)).badLocal = []) ∧
    (let east := { opened [] true with party := { here with px := 1 } }
     let s := fun (f : Core → Core) => engine [opened [] true] [east] (some { running .stepping with step := 1 }) (pair id (st f))
     ((s id).engineAt (s id).core.loc true).stepsOver { running .stepping with step := 1 } = true ∧
       (match (s id).thirdOf (running .stepping) with | .ready t => t.loc == (s id).core.loc && !t.wins[0].init | _ => false) = true ∧
       (match (s fun c => { c with run := .halted 0 }).thirdOf (running .stepping) with | .gone => true | _ => false) = true ∧
       (let u := window (List.replicate 255 { id := 1, result := 1, row := 0, col := 0, refx := 0, refy := 0 }) (s id)
        (match u.thirdOf (running .stepping) with | .waits => true | _ => false) = true) ∧
       (window [] (s id)).core.wins[0].init = true ∧ (blockOf 0).m * (blockOf 0).rowStride ≤ 64 ∧
       (let b : Block := { blockOf 0 with red := true }
        b.steps ≤ 1 ∧ b.m * b.rowStride ≤ 64)) ∧
    ({ running (.draining 0) with out := [List.replicate 64 0] } : EngRun).out ≠ [] ∧ (window [] (regs [])).core.wins[0].queue.length < 255 := by
  decide +kernel

def request (st : ReqState) : Req := { askedFor 0x40000 with st := st }
def requested (st : ReqState) : State := { regs [] with reqs := [request st], reqNo := 1 }

/-- Of EventsOfUnits, the slices and the reducing switch: a request in each state, one that may begin; a combining window past its 32 cycles and
beside them; a trigger with its handler; a budget at its end; a request and a window of a reduction, and a member that is absent. -/
theorem witness_EventsOfUnits_slices :
    ([ReqState.transit, .begun, .missed, .filling].all fun t => (requested t).reqAt 0 == some (request t)) = true ∧
    ((requested .begun).sliceAt 0).combines = [] ∧ (requested .filling).triggerHolds 0 0 = false ∧ ((requested (.queued 0)).pickReq 0).isSome = true ∧
    ((requested .begun).dataReady (request .begun) = true ∧ (requested .begun).pathHeld 0 (0 / 16) = false) ∧
    (reqPort .core (request .transit).owner 0 ≠ 4 ∧ reqPort .engine (request .transit).owner 0 = 4 ∧
      (requested .transit).portWaits (request .transit) = false) ∧
    (let far : Req := { request .transit with id := 1, cmb := true, owner := locAt 1 0 }
     let w : Combine := { line := 0x40000, opened := 0, joined := [0] }
     let s := ({ requested .begun with reqs := [request .begun, far], reqNo := 2 } : State).modSlice 0 fun q => { q with combines := [w] }
     s.joinable far w = true ∧ far.writes = false) ∧
    (let w : Combine := { line := 0x40000, opened := 0, joined := [0] }
     let s := ({ regs [] with cycle := 32 } : State).modSlice 0 fun q => { q with combines := [w] }
     ((s.sliceAt 0).combines.find? fun w => w.line = 0x40000) = some w ∧ 32 ≤ (s.cycle - w.opened).toNat ∧ ¬32 ≤ (s.cycle - 1 - w.opened).toNat) ∧
    (let r := (placedInvocation []).reg
     let s := (regs []).modSlice 0 fun q => { q with regs := [r], trigs := [(placedInvocation []).trig] }
     (s.sliceAt 0).inv = none ∧ (s.sliceAt 0).trigs = [(placedInvocation []).trig] ∧ (s.sliceAt 0).handler 0 .miss = some r ∧
       (s.dieAt 0).drained = false ∧ ((s.modDie 0 fun d => { d with drained := true }).dieAt 0).drained = true ∧ s.replyHeld 0 none = false ∧
       s.endHeld 0 (placedInvocation []) = false) ∧
    (let s := { handler [] (fun v => { v with start := some 0 }) with cycle := 512 }
     (runningInv s).any (fun v => v.spent s.core s.cycle) = true) ∧
    ((regs []).launchAt 0).isSome = true ∧ memPeer 0x10000000000 = 0 ∧ (regs []).pathHeld 0 0 = false ∧
    (let w : RedWin := { launch := 0, members := [0x10000000000], epoch := 0, die := 0, opened := 0, off := 0, inB := false, reqs := [], mism := false,
                         answered := [], closed := none, left := [] }
     let s := fun (f : Core → Core) => { st f with redWins := [w], cycle := 4096 }
     (s id).redWins[0]? = some w ∧ 4096 ≤ ((s id).cycle - w.opened).toNat ∧
       ((s id).launchAt 0).any (fun la => (w.missing.filter fun m => (s id).redAbsent la (w.members.getD m 0)).isEmpty) = true ∧
       ((s fun c => { c with run := .halted 0 }).launchAt 0).any (fun la =>
         !(w.missing.filter fun m => (s fun c => { c with run := .halted 0 }).redAbsent la (w.members.getD m 0)).isEmpty) = true) ∧
    (let c := (st fun c => { c with held := true, prog := some (.ldredSent [] 0) }).core
     c.held = true ∧ c.prog = some (.ldredSent [] 0) ∧ c.place.isSome = true) := by
  decide +kernel

/-- More of EventsOfUnits, the slices: a combined read whose load is not in its turn, and one that is; a window's reader that has still to
read, and one that is gone; a begin one cycle after the last, and two; a reply that may be sent, and one whose opener has not begun. -/
theorem witness_EventsOfUnits_turns :
    (let r : Req := { askedFor 0x40100 with cmb := true }
     let o : Op := { op (.load (.x 3 .n64)) with req := some 0, pos := 1 }
     let s := fun (l : List Op) => ({ (st fun c => { c with pos := 2, pq := l ++ [o] }) with reqs := [r] } : State)
     (s [op (.load (.x 4 .n64))]).outOfTurn r = true ∧ (s []).outOfTurn r = false) ∧
    ((requested .answered).awaited 0 = false ∧
      ({ handler [] id with core := { (handler [] id).core with prog := some (.shFetch 0) } } : State).awaited 0 = true) ∧
    (let s := fun (n : BitVec 64) => ({ requested (.queued 0) with cycle := n } : State).modSlice 0 fun q => { q with began := some 0 }
     ((s 2).pickReq 0).isSome = true ∧ (s 2).mayBegin 0 = true ∧ (s 1).mayBegin 0 = false) ∧
    (let w : Combine := { line := 0x40100, opened := 0, joined := [0] }
     let s := fun (t : ReqState) => ({ combining id t with cycle := 32 } : State)
     (s .begun).replyReady 0 w = true ∧ (s (.queued 0)).replyReady 0 w = false) := by
  decide +kernel

/-- An active tenant with a command of first word `h` at the head of its queue 0, its code line that of the placed thread. -/
def serving (h : Nat) (f : LQueue → LQueue) : State :=
  let s := placed [0x0000]
  let q : LQueue := { base := 0x41000, k := 2, head := 0, tail := 1, cur := none, blocked := none, reads := [] }
  let m := ((s.mem.writeN 0x41000 (natBytes 8 h)).writeN 0x41008 (natBytes 16 (0x40000 + 0x40040 * 2 ^ 64))).writeN 0x41020 (natBytes 8 0x42000)
  let s1 : State := { s with mem := m, mgmt := { s.mgmt with diesOk := 15, phase := 2 } }
  (s1.modTenant 0 fun t => { t with en := true, tstat := 1, dies := 1, ctxMib := 1, queues := [(0, f q)] }).modDie 0 fun d =>
    { d with tlb := [{ tenant := 0, va := 0x40000, size := 0x10000, pte := 0x4000F }] }

def isOk (r : DevRead α) : Bool := match r with | .ok _ => true | _ => false
def codeOf (h : Nat) : Option Nat :=
  let s := serving h id
  match readHead 0 ((s.tenantAt 0).queue 0) (s.reads 0 0) with
  | (r, .ok (c, bs)) => some (r.s.headCode 0 c bs)
  | _ => none

/-- Of EventsOfLaunches: a head of each kind: an event command, a launch of one core, one of no core; a queue that waits for a retry and one that
holds a command; what a launch's image reads as; a record with room. -/
theorem witness_EventsOfLaunches :
    codeOf 0x10000000 = some 0 ∧ codeOf 0x840000001 = some 0 ∧ codeOf 0x800000001 = some 2 ∧
    (let s := serving 0x10000000 id
     s.queueOpen 0 = true ∧ ((s.tenantAt 0).queue 0).cur = none ∧ ((s.tenantAt 0).queue 0).head ≠ ((s.tenantAt 0).queue 0).tail ∧
       ((s.tenantAt 0).queue 0).blocked = none ∧ (s.tenantAt 0).errorWaits 0 = false ∧ (s.tenantAt 0).tstat ≠ 3) ∧
    (((serving 0x10000000 fun q => { q with blocked := some (9, 4, 0) }).tenantAt 0).queue 0).blocked ≠ none ∧
    (let s := (serving 0 fun q => { q with blocked := some (9, 4, 0) }).modTenant 0 fun t => { t with records := [Record.plain 3 1] }
     (s.tenantAt 0).errorWaits 0 = true) ∧
    (let h : HeadCmd := { cmd := parseCommand (natBytes 128 (0x840000001 + 0x42000 * 2 ^ 256)), bounds := [], satisfied := [true] }
     let s := serving 0x840000001 fun q => { q with cur := some h }
     ((s.tenantAt 0).queue 0).cur = some h ∧ h.cmd.ty ≠ 1 ∧ h.cmd.sliceDesc = 0 ∧ isOk (pull 0 h (s.reads 0 0)).2 = true) ∧
    (let s := (serving 0 id).modTenant 0 fun t => { t with fqBase := 0x43000, records := [Record.plain 6 0x15] }
     ((s.tenantAt 0).fqTail - (s.tenantAt 0).fqHead).toNat < 2 ^ (s.tenantAt 0).fqK ∧
       isOk (s.devWrite 0 0x43000 (List.replicate 64 1)) = true) ∧ (15 < 16) := by
  decide +kernel

/-- A machine whose one plot is as `f` makes it. -/
def plotted (f : Plot → Plot) (h : Launch → Launch) : State :=
  let s := serving 0 id
  { s with launches := s.launches.map fun l => h { l with plots := l.plots.map f } }

/-- More of EventsOfLaunches: a pass with nothing to place and with one plot; a plot that runs past its slice, one that is saved; a launch that
has ended, complete or terminated; a supervisor whose command finds its launch and its thread. -/
theorem witness_EventsOfLaunches_plots :
    ((plotted id id).ranked = [] ∧ (plotted id id).retireAll = plotted id id) ∧
    (let s := plotted (fun p => { p with st := .pending, home := none }) id
     s.ranked.length = 1 ∧ s.retireAll = s ∧ (s.ranked.all fun it => !s.itemPinned it && (s.tryPlace it).isSome) = true) ∧
    (let s : State := { plotted id id with cycle := 2400000 }
     (s.plotAt 0 0).any (fun e => e.2.runs && decide ((s.tenantAt 0).sliceUs * 1200 ≤ (s.cycle - e.2.sliceStart).toNat)) = true) ∧
    (let s := plotted (fun p => { p with st := .saving 0 0 0 }) id
     (s.plotAt 0 0).any (fun e => !e.1.cmd.cores) = true ∧ (s.plotCores 0 0).all (fun c => s.threadQuiet c) = true) ∧
    (let s := fun (h : Core → Core) => coresident (plotted (fun p => { p with st := .saving 0 0 0 }) id |>.onCore h)
     ((s id).launchAt 0).any (fun l => l.cmd.cores && l.savingPlots == [0]) = true ∧
       ((s (writes [.atomic (.amo .add 1) 3] [])).plotCores 0 0).any (fun c => !(s (writes [.atomic (.amo .add 1) 3] [])).threadQuiet c) = true) ∧
    ((plotted (fun p => { p with st := .loading 0 0 0 }) id).plotAt 0 0).any (fun e => !e.1.cmd.cores) = true ∧
    (let s := fun (h : Launch → Launch) => plotted (fun p => { p with st := .done }) h
     ((s id).retireAll.launchAt 0).any (fun l => (s id).retireAll.launchEnded l && !l.ending && l.credits.isEmpty && !(s id).retireAll.exitsHeld l) = true ∧
       (s id).retireAll.logOf 0 = [] ∧
       ((s fun l => { l with ending := true }).retireAll.launchAt 0).any (fun l => l.ending) = true) ∧
    (let s := plotted id id
     (s.tenantAt 0).supcmd.getLsbD 63 = false ∧ (s.launchNumbered 0 0).any (fun l => l.liveThread 0) = true ∧
       (s.preempt 0 0 true).plotAt 0 0 ≠ none) := by
  decide +kernel

/-- Of EventsOfDevice: a slot to bind and one bound; a slot whose keys load; a peer slot at both ends; a tenant without a realm, one with it and
its peer; a granule to give away and one that is scrubbed. -/
theorem witness_EventsOfDevice :
    (let q : QSlot := { tenant := 0, valid := true, busy := true, fmt := 1, n := 64, d := 16, keyBase := 0x40000, pages := [] }
     let s := (serving 0 id).modTenant 0 fun t => { t with qkeyBases := [(0, 0x40000)] }
     (s.tenantAt 0).qslot = some (0, 0) ∧ (s.tenantAt 0).tstat ≠ 3 ∧
     (let v : W64 := 0x8100_03F0_000F_0000
      v.getLsbD 63 = true ∧ (v.extractLsb' 56 4).toNat ∈ [1, 3, 4] ∧ 64 ≤ bitsOf v 47 36 + 1 ∧ 16 ≤ bitsOf v 24 16 + 1) ∧
     s.slot 0 0 = none ∧ s.keyMemory 0 0 + q.bytes ≤ 8 * 2 ^ 20 ∧ ((s.setSlot 0 0 q).slot 0 0).any (fun o => o.tenant = 0 && o.busy) = true) ∧
    (let r : Realm := { id := 0, key := 0, keyId := 0, edKey := [], mlKey := [], members := [] }
     let s := (serving 0 id).modTenant 0 fun t => { t with realm := some r, peers := [(1, { Peer.start with v := true, fails := 15 })] }
     ((serving 0 id).tenantAt 0).realm = none ∧ (s.tenantAt 0).realm = some r ∧ ((s.tenantAt 0).peer 1).v = true ∧
       ((s.tenantAt 0).peer 1).unreach = false ∧ ((s.tenantAt 0).peer 1).fails = 15 ∧ (0 : Nat) + 1 < 16 ∧ s.isRevoked 0 0 = false) ∧
    ((1 : Nat) ≠ 0 ∧ 63 ≤ 63 ∧ 127 < 128) ∧
    (isDevice (511 * 0x10000000) = true ∧ isDevice (512 * 0x10000000) = false ∧ (63 : BitVec 8) ≠ tabGet 0xFF (serving 0 id).owners 1) ∧
    (0 : Nat) ∈ ({ serving 0 id with scrubbing := [0] } : State).scrubbing := by
  decide +kernel

/-- More of EventsOfDevice: the management commands idle and done; a link whose retraining has taken 10 ms; a core to fence; an idle device in
A0; power good at both outcomes; tenant enables. -/
theorem witness_EventsOfDevice_module :
    (State.reset.mgmt.busy = false ∧ ((State.reset.modDie 3 fun d => { d with drained := true }).dieAt 3).drained = true ∧ linked 0 1 = true ∧
      linked 0 3 = false) ∧
    (let s : State := { State.reset with mgmt := { State.reset.mgmt with busy := true, cmd := 1 } }
     s.mgmt.busy = true ∧ s.mgmtDone = true ∧ s.mgmt.retrain = none ∧
       (s.setRetrain (some (s.startRetrain 0 0))).mgmt.retrain ≠ none) ∧
    ({ State.reset.mgmt with phase := 1 } : Mgmt).phase = 1 ∧ State.reset.mgmt.fwDead = false ∧ (0 : W64).toNat % 16 ∉ [1, 2, 3, 4] ∧
    ((serving 0 id).tenantAt 0).hslice = some 0 ∧
    (((serving 0 id).modTenant 0 fun t => { t with tstat := 3 }).tenantAt 0).tstat = 3 ∧
    (let s : State := { State.reset with brambles := State.reset.brambles.set 0 { retraining := some 0, down := false }, cycle := 12000000 }
     s.brambles[0].retraining = some 0 ∧ 12000000 ≤ (s.cycle - 0).toNat ∧ s.msgs = []) ∧
    (locAt 17 17 ∉ State.reset.mgmt.fenced ∧ locAt 17 17 ∉ State.reset.mgmt.fencing ∧ (locAt 17 17).kind = .compute ∧ State.reset.launches = [] ∧
      (State.reset.coreAt (locAt 17 17)).place = none) ∧ State.reset.assisting = false ∧
    (State.reset.mgmt.power = .at 0 ∧ State.reset.deviceIdle = true) ∧
    ({ State.reset.mgmt with power := .exiting 2 } : Mgmt).power = .exiting 2 ∧ State.reset.mgmt.phase = 0 ∧
    (serving 0 id).mgmt.phase = 2 ∧ ((serving 0 id).tenantAt 63).en = false ∧ ((serving 0 id).tenantAt 0).en = true ∧
    isOk ((serving 0 id).wakePower.devWrite 0 0x4FFFF [1]) = true ∧ 0x4FFFF + 1 ≤ 2 ^ 40 ∧ (serving 0 id).hostHeld 0 = false ∧
    ({ serving 0 id with hostWrites := [.data 0 0 [1]] } : State).hostHeld 0 = true := by
  decide +kernel

/-! ## More single instructions -/

/-- Sixteen lanes of 32 bits, lane 0 first. -/
def lanes32 (l : List Nat) : V512 := ofLanes 32 (l ++ List.replicate (16 - l.length) 0)
def vregs (l : List (BitVec 5 × V512)) : State := st fun c => l.foldl (fun (c : Core) p => c.setV p.1 p.2) c

/-- R172 to R181: a lane wraps by itself; saturation; a shift by the lane's width acts as 0; an inactive lane keeps or clears; a dot product of
signed bytes; lanes of the second source of VPERM. -/
theorem test_vadd_wraps : vAfter (.vadd (.reg 3) (.reg 2) (.reg 1) .i32 ⟨0, false⟩ none) (vregs [(1, lanes32 [0xFFFFFFFF, 1]), (2, lanes32 [1, 1])]) 3 =
    some (lanes32 [0, 2]) := by decide +kernel
theorem test_vadds_i8 : vAfter (.vadds (.reg 3) (.reg 2) (.reg 1) .i8 ⟨0, false⟩ none) (vregs [(1, 0x80), (2, 0xFF)]) 3 = some 0x80 := by
  decide +kernel
theorem test_vshl_width : vAfter (.vshl (.reg 3) (.reg 2) (.reg 1) .n16 ⟨0, false⟩ none) (vregs [(1, 3), (2, 16)]) 3 = some 3 := by decide +kernel
theorem test_vmask_merge : vAfter (.vadd (.reg 1) (.reg 2) (.reg 1) .i32 ⟨1, false⟩ none)
    (st fun c => ((c.setM 1 2).setV 1 (lanes32 [5, 6])).setV 2 (lanes32 [1, 1])) 1 = some (lanes32 [5, 7]) := by decide +kernel
theorem test_vmask_zero : vAfter (.vadd (.reg 1) (.reg 2) (.reg 1) .i32 ⟨1, true⟩ none)
    (st fun c => ((c.setM 1 2).setV 1 (lanes32 [5, 6])).setV 2 (lanes32 [1, 1])) 1 = some (lanes32 [0, 7]) := by decide +kernel
theorem test_vdot4 : vAfter (.vdot4 (.reg 4) (.reg 3) (.reg 2) (.reg 1) ⟨0, false⟩ none) (vregs [(1, 0xFF02), (2, 0x0203), (3, 1)]) 4 = some 5 := by
  decide +kernel
theorem test_vperm : vAfter (.vperm (.reg 4) (.reg 3) (.reg 2) (.reg 1) .n32 ⟨0, false⟩ none)
    (vregs [(1, lanes32 [7]), (2, lanes32 [9]), (3, lanes32 (16 :: List.replicate 15 1))]) 4 = some (lanes32 [9]) := by decide +kernel
theorem test_vredadd : xAfter (.vredadd 3 (.reg 1) .rne .i32 0 none) (vregs [(1, lanes32 [0xFFFFFFFF, 2, 0, 4])]) 3 = some 5 := by decide +kernel
theorem test_vextr_signed : xAfter (.vextr 3 2 (.reg 1) none) (st fun c => (c.setX 2 0x501).setV 1 0x8000) 3 = some 0xFFFFFFFFFFFFFF80 := by decide +kernel
theorem test_vcmp : after none (fun t => some (t.core.getM 1)) (exec (.vcmp 1 .lt (.reg 2) (.reg 1) .i32 ⟨0, false⟩ none)
    (vregs [(1, lanes32 [0xFFFFFFFF, 1]), (2, lanes32 [0, 1])])) = some 1 := by decide +kernel
/-- R184, R185: 64 bytes in a lane type; `auto` in a bank of f16 widens. -/
theorem test_vldl : vAfter (.vldl (.reg 1) 1 (.ty .n32) 0 none) (st fun c => bytesAt 0x40 [1, 2] (c.setX 1 0x40)) 1 = some 0x201 := by decide +kernel
theorem test_vldl_auto : vAfter (.vldl (.reg 1) 1 .auto 0 none) (st fun c => format 2 (bytesAt 0 [0x00, 0x3C] c)) 1 = some (lanes32 [0x3F800000]) := by
  decide +kernel
theorem test_vstl_outside : trapOf (.vstl (.reg 1) 1 (.ty .n32) 0 none) (regs [(1, 0x30000)]) = some (9, 0x30000) := by decide +kernel
/-- R197 to R200: SCFG's descriptor is 32-byte aligned; a count of zero passes a block. -/
theorem test_scfg_misaligned : trapOf (.scfgRead 0 1 none) (regs [(1, 0x10)]) = some (7, 0x10) := by decide +kernel
theorem test_rep_zero : pcAfter (.rep 1 1 0 none) ((block 0x54C0).setX 1 0) = some 0x40042 := by decide +kernel
theorem test_rep_count : (trapOf (.rep 1 1 0 none) ((block 0x54C0).setX 1 0x100000000)).map Prod.fst = some 1 := by decide +kernel
/-- R104, R275: a load of the code line's first bytes; an atomic answers what was there; a store to a page of no other write permission. -/
theorem test_ld : xAfter (.ld 3 1 .n16 0 none) (regs [(1, 0x40000)]) 3 = some 1 := by decide +kernel
theorem test_amo : after none (fun t => some (t.x 3, t.mem.read 0x40000)) (exec (.amo .add 3 2 1 true .relaxed .dev none) (regs [(1, 0x40000), (2, 2)])) =
    some (1, 3) := by decide +kernel
theorem test_st_misaligned : trapOf (.st 3 1 .s32 0 none) (regs [(1, 0x40102)]) = some (7, 0x40102) := by decide +kernel
theorem test_ld_miss_held : holds (.ld 3 1 .n64 0 none) (regs [(1, 0x90000)]) = true := by decide +kernel
theorem test_mwait_unarmed : xAfter (.mwait 3 0 none) (regs []) 3 = some 1 := by decide +kernel
theorem test_scopetrap : (trapOf (.strl 3 1 .s64 .sys none) (policy 2 (regs [(1, 0x40100)]))).map Prod.fst = some 0x13 := by decide +kernel
/-- R228 to R230, R226, R227: a full ring holds RSV; the pointers go modulo 2n; the front of a fresh window. -/
theorem test_ring_rsv_full : holds (.ringRsv 0 1 none) (ring .ring 2 0 false (regs [(1, 1)])) = true := by decide +kernel
theorem test_ring_advp : after none (fun t => some t.core.rings[0].t) (exec (.ringAdvp 0 1 none) (ring .ring 3 2 false (regs [(1, 1)]))) = some 0 := by
  decide +kernel
theorem test_ring_advc_empty : (trapOf (.ringAdvc 0 1 none) (ring .ring 0 0 false (regs [(1, 1)]))).map Prod.fst = some 1 := by decide +kernel
theorem test_win_pub : after none (fun t => some (t.core.wins[0].side)) (exec (.winPub 0 none) (window [] (regs []))) = some true := by decide +kernel
theorem test_stash_map_pages : (trapOf (.stashMap 0 2 1 none) (regs [(1, 0), (2, 0x1100000000)])).map Prod.fst = some 1 := by decide +kernel
/-- R206, R207, R209 to R217. -/
theorem test_whodim : xAfter (.whodim 3 none) (pair id (regs [])) 3 = some 0x2000102 := by decide +kernel
theorem test_gang_shape : (trapOf (.gang 1 1 none) (regs [])).map Prod.fst = some 1 := by decide +kernel
theorem test_bar_sync_fires : after none (fun t => some (t.core.homeRec 8 0x21).phase) (exec (.barSync 1 none) ((regs [(1, 8)]).onCore fun c =>
    c.setBinding { c.binding 8 with desc := 0x21 })) = some 1 := by decide +kernel
theorem test_bar_id : (trapOf (.barWait 1 none) (regs [(1, 2048)])).map Prod.fst = some 1 := by decide +kernel
theorem test_evt_test : gAfter (.evtTest 1 2 1 none) ((regs [(1, 5), (2, 8)]).modTenant 0 fun t => { t with events := [(5, 7)] }) 1 = some false := by
  decide +kernel
theorem test_stage_next : xAfter (.stageNext 3 1 none) (regs [(1, 1)]) 3 = some 0 := by decide +kernel
theorem test_stage_next_end : xAfter (.stageNext 3 1 none) (regs [(1, 0)]) 3 = some 0xFFFFFFFFFFFFFFFF := by decide +kernel
theorem test_halt : after none (fun t => some (t.launches.map fun l => l.exits)) (exec (.halt 7 none) (regs [])) = some [[(0, 7)]] := by decide +kernel
/-- R301, R311, R328: a block's alignment; a counted delivery; a counter's fault. -/
theorem test_lnk_open_misaligned : trapOf (.lnkOpen .e 1 0 0 0 none) (pair id (regs [(1, 0x10)])) = some (7, 0x10) := by decide +kernel
theorem test_lnk_absent : (trapOf (.lnkClose .w none) (regs [])).map Prod.fst = some 0x0E := by decide +kernel
theorem test_lnk_wait : pcAfter (.lnkWait 0 none) (window [{ id := 1, result := 1, row := 0, col := 0, refx := 0, refy := 0 }] (regs [])) = some 0x40004 := by
  decide +kernel
theorem test_ccnt_wait : holds (.ccntWait 0 1 none) (regs [(1, 1)]) = true := by decide +kernel
theorem test_xcopy_reserved : (trapOf (.xcopy 0 2 1 3 0 0 11 none) (regs [(1, 0), (2, 0x1000)])).map Prod.fst = some 0x0C := by decide +kernel
/-- R353, R268, R383, R398, R399. -/
theorem test_sfma : after none (fun t => ((t.sliceAt 0).inv).map fun v => v.f2) (exec (.sfma none) (handler [] fun v =>
    { v with f0 := some (natBytes 128 0x40000000, 0), f1 := some (natBytes 128 0x40400000, 0) })) = some 0x40C00000 := by decide +kernel
theorem test_sfma_unbound : after none (fun t => some t.core.run) (exec (.sfma none) (handler [] id)) = some .stopped := by decide +kernel
theorem test_sh_done : after true (fun t => ((t.sliceAt 0).inv).isSome) (exec (.shDone none) (handler [] id)) = false := by decide +kernel
theorem test_tlbinv_page : (trapOf (.tlbinvPage 1 none) (regs [(1, 0x1000000000000)])).map Prod.fst = some 1 := by decide +kernel
theorem test_tlbinv_tenant : after none (fun t => some t.core.tlb) (exec (.tlbinvTenant none) (regs [])) = some [] := by decide +kernel
theorem test_wfi_held : holds (.wfi none) (control id) = true := by decide +kernel
theorem test_wfi_priv : (trapOf (.wfi none) (regs [])).map Prod.fst = some 6 := by decide +kernel
theorem test_ldred_no_group : (trapOf (.ldred 0 1 2 1 0 false false none) (regs [])).map Prod.fst = some 1 := by decide +kernel
/-- Events: a signal wraps (R213, R409), a write-one-clear (R411), a tenant's enable in the serving phase (R410). -/
theorem test_evsig : after none (fun t => some (tabGet 0 (t.tenantAt 0).events 5)) (exec (.evsigWrite 0 5 1)
    ((serving 0 id).modTenant 0 fun t => { t with events := [(5, 0xFFFFFFFF)] })) = some 0 := by decide +kernel
theorem test_irqpend : after none (fun t => some (t.tenantAt 0).irqpend) (exec (.irqpendWrite (some 0) 0x04)
    ((serving 0 id).modTenant 0 fun t => { t with irqpend := 0x06 })) = some 2 := by decide +kernel
theorem test_tenant_en : after none (fun t => some ((t.tenantAt 1).tstat, (t.tenantAt 1).dies)) (exec (.tenantEnWrite 1 1 true) (serving 0 id)) =
    some (1, 1) := by decide +kernel

/-! ## Instructions whose checks all pass -/

/-- The kinds of the engine commands in flight after an instruction. -/
def cmdAfter (i : Instr) (s : State) : Option (List (Nat × Nat)) := after none (fun t => some (t.core.cmds.map fun m => (m.ctr, m.opc))) (exec i s)

def acc : List Byte := [0, 0x10, 0, 0, 0, 0, 0, 0, 1, 0, 0, 0, 4, 0, 0, 0, 1] ++ List.replicate 15 0

/-- LNK.OPEN of a dense f16 block; LNK.CLOSE of a contract that has been fed. -/
theorem test_lnk_open : after none (fun t => some ((t.core.port .e).mode, (t.core.port .e).id, (t.engineAt t.core.loc true).w.length))
    (exec (.lnkOpen .e 1 0 0 0 none) (pair id (st fun c =>
      bytesAt 0x40 ([1, 0, 0, 1, 31, 31, 0, 0, 15, 0, 0, 0, 0x31, 2] ++ List.replicate 18 0) (c.setX 1 0x40)))) = some (.instr, 1, 1) := by
  decide +kernel
theorem test_lnk_close : after none (fun t => some (t.core.port .e).mode) (exec (.lnkClose .e none)
    (pair id (st (port .instr [] fun p => { p with w := 1, fed := 1 })))) = some .word := by decide +kernel
/-- The engine commands, each with its counter and opcode (R326). -/
theorem test_xcopy : cmdAfter (.xcopy 2 2 1 3 0 0 0 none) (regs [(1, 0x2FFC0), (2, 0), (3, 16)]) = some [(2, 0xA1)] := by decide +kernel
theorem test_getx : cmdAfter (.getx 1 1 0 2 0 2 none) (st fun c => bytesAt 0x40 acc ((c.setX 1 0).setX 2 0x40)) = some [(1, 0xA2)] := by
  decide +kernel
theorem test_placex : cmdAfter (.placex 1 1 0 2 0 2 none) (st fun c => bytesAt 0x40 acc ((c.setX 1 0).setX 2 0x40)) = some [(1, 0xA3)] := by
  decide +kernel
theorem test_compact : cmdAfter (.compact 3 0 1 2 3 none) (window [] (regs [(1, 1), (2, 0), (3, 0x1000000000080)])) = some [(3, 0xA5)] := by decide +kernel
def keyBlock (f : Window → Window) : State :=
  ((window [] (st fun c => bytesAt 0x1000 ([0x10, 0, 1, 0, 0, 0, 0x20, 0, 0, 0x20, 0, 0, 0x0F, 0x10] ++ List.replicate 50 0) (c.setX 1 0x1000))).onCore
    fun c => { c with wins := c.wins.set 0 (f c.wins[0]) }).modTenant 0 fun t => { t with dies := 1 }
theorem test_keyq : cmdAfter (.keyq 1 none) (keyBlock fun w => { w with half := 128 }) = some [(2, 0xA6)] := by decide +kernel
theorem test_keyg : cmdAfter (.keyg 1 none) (keyBlock fun w => { w with half := 128 }) = some [(2, 0xA7)] := by decide +kernel
theorem test_keyq_window : (trapOf (.keyq 1 none) (keyBlock id)).map Prod.fst = some 1 := by decide +kernel
theorem test_slmsg : cmdAfter (.slmsg 4 1 2 1 none) ((regs [(1, 0x40), (2, 15)]).modTenant 0 fun t => { t with dies := 1 }) = some [(4, 0xA9)] := by
  decide +kernel
/-- A slot sent on a channel; nothing yet received on one (R338). -/
theorem test_chan_send : after none (fun t => some (t.core.rings[0].prodT, t.msgs.length)) (exec (.chanSend 0 1 none)
    (ring (.plotChan (-1) 0) 1 0 false (pair id (regs [(1, 0)])))) = some (1, 1) := by decide +kernel
theorem test_chan_recv : xAfter (.chanRecv 0 1 none) (ring (.plotChan 1 0) 1 0 false (pair id (regs []))) 1 = some 0 := by decide +kernel
theorem test_chan_recv_empty : holds (.chanRecv 0 1 none) (ring (.plotChan 1 0) 0 0 false (pair id (regs []))) = true := by decide +kernel
/-- A gang of two formed (R124, R207); a group declared (R398); LDRED's request sent once (R399). -/
theorem test_gang_forms : after none (fun t => some (t.core.gang.isSome, t.core.held, (t.coreAt (locAt 1 0)).held)) (exec (.gang 1 2 none)
    (pair (fun c => { c with held := true, prog := some (.gang 0x22) }) (regs []))) = some (true, false, false) := by decide +kernel
theorem test_grp_set : after none (fun t => some (t.groups.map fun g => (g.k, g.members))) (exec (.grpSet 2 2 1 none) (st fun c =>
    bytesAt 0x40 (natBytes 8 0x10000000000) ((c.setX 1 0x40).setX 2 0))) = some [(2, [0x10000000000])] := by decide +kernel
theorem test_ldred_sends : after none (fun t => some (t.core.held, t.msgs.length)) (exec (.ldred 0 1 2 1 0 false false none) (grouped fun c => c.setX 1 0)) =
    some (true, 1) := by decide +kernel
theorem test_ldred_absent : after none (fun t => some (t.x 2, t.core.getG 1)) (exec (.ldred 0 1 2 1 0 false false none) (grouped fun c =>
    { c with prog := some (.ldredGot [] 0 (.absent 1)) })) = some (0x101, false) := by decide +kernel
/-- CTX.SAVE waits for the plot it has stopped (R383); SH.FWD reaches a window of a thread and counts (R352). -/
theorem test_ctx_save : after none (fun t => some (t.core.held, t.launches.map fun l => l.plots.map fun p => p.hold))
    (exec (.ctxSave 2 1 none) (controlling [(1, 0), (2, 0x50000)] id id)) = some (true, [[true]]) := by decide +kernel
theorem test_sh_fwd : after none (fun t => (t.coreOfIndex 0 0).map fun q => q.ctrs[1].count) (exec (.shFwdAcc 2 none)
    ((forwarding fun c => { c with wins := c.wins.set 0 { init := true, base := 0, half := 64, side := false, queue := [] } }).setX 2
      0x1000000000000)) = some 1 := by decide +kernel
end Sys2Proof.Tests
end

section
/-! PROOFS. The machine's own moves on queues, launches and plots (R152 to R165, R365 to R367, R409 to R411): what a lookup reads after an
update, what each operation shared by these events answers in each of its cases, then one lemma per outcome of an event, from which
`Obligations.EventsOfLaunches` is put together. -/

namespace Sys2Proof.Machine.LaunchEvents

section
variable {s : State} {t q lid i : Nat}

/-! ## Tenants and their queues after an update -/

theorem tabGet_tabSet_same {α : Type} (d : α) (m : Tab α) (a : Nat) (v : α) : tabGet d (tabSet m a v) a = v := by
  induction m with
  | nil => simp [tabSet, tabGet]
  | cons e r ih =>
    obtain ⟨k, w⟩ := e
    by_cases hk : k = a
    · simp [tabSet, tabGet, hk]
    · simp [tabSet, tabGet, hk, ih]

@[simp] theorem tenantAt_modTenant_same (f : Tenant → Tenant) : (s.modTenant t f).tenantAt t = f (s.tenantAt t) :=
  tabGet_tabSet_same ..

@[simp] theorem queue_modQueue_same (f : LQueue → LQueue) :
    ((s.modQueue t q f).tenantAt t).queue q = f ((s.tenantAt t).queue q) := by
  simp only [State.modQueue, tenantAt_modTenant_same, Tenant.queue, tabGet_tabSet_same]

/-- Enrolling waiters in the scheduler table changes no tenant. -/
theorem tenantAt_foldl_enrol (ws : List (BitVec 16 × W32)) (n : Nat) :
    (ws.foldl (fun s w => s.enrol t w.1.toNat) s).tenantAt n = s.tenantAt n := by
  induction ws generalizing s with
  | nil => rfl
  | cons w r ih => exact ih

theorem plotAt_eq_some {l : Launch} {p : Plot} : s.plotAt lid i = some (l, p) ↔ s.launchAt lid = some l ∧ l.plots[i]? = some p := by
  unfold State.plotAt
  cases s.launchAt lid with
  | none => simp
  | some k => cases hp : k.plots[i]? <;> grind

/-! ## The host's writes in their order (R153, R409) -/

theorem hostArrive_held {w : HostWrite} (h : s.hostHeld w.tenant = true) :
    s.hostArrive w = { s with hostWrites := s.hostWrites ++ [w] } := by
  simp only [State.hostArrive, State.hostTurns, h, if_true]

theorem hostArrive_done {w : HostWrite} {u : State} (h : s.hostHeld w.tenant = false) (hu : s.hostWrite w = some u) :
    s.hostArrive w = u := by
  simp only [State.hostArrive, State.hostTurns, h, hu, Bool.false_eq_true, if_false]

theorem writable_iff {n : Tenant} : n.writable = true ↔ n.tstat ≠ 3 := bne_iff_ne

/-- LQTAIL_WRITE publishes commands (R153), behind the tenant's BAR2 writes that wait. -/
theorem lqtailWrite_publishes (hq : q < 16) (ha : (s.tenantAt t).tstat ≠ 3) (v : W32) :
    exec (.lqtailWrite t q v) s = .next (State.wakePower (if s.hostHeld t
      then { s with hostWrites := s.hostWrites ++ [.tail t q v] } else s.modQueue t q fun k => { k with tail := v })) := by
  have turn : exec (.lqtailWrite t q v) s = .next (s.hostArrive (.tail t q v)).wakePower := by
    change execLqtailWrite t q v s = _
    simp only [execLqtailWrite, event, hq, bne_iff_ne.mpr ha, decide_true, Bool.and_self, if_true]
  rw [turn]
  cases hh : s.hostHeld t with
  | true => rw [hostArrive_held hh]; rfl
  | false => rw [hostArrive_done hh rfl]; rfl

theorem evsigWrite_arrives (ha : (s.tenantAt t).tstat ≠ 3) (v : W32) :
    exec (.evsigWrite t q v) s = .next (s.wakePower.hostArrive (.evsig t (q % 65536) v)) := by
  change execEvsigWrite t q v s = _
  simp only [execEvsigWrite, event, writable_iff.mpr ha, if_true]

theorem fqheadWrite_moves (ha : (s.tenantAt t).tstat ≠ 3) (v : W32) :
    exec (.fqheadWrite t v) s = .next (s.modTenant t fun n => { n with fqHead := v }).wakePower := by
  change execFqheadWrite t v s = _
  simp only [execFqheadWrite, event, writable_iff.mpr ha, if_true]

/-- Ones clear; vector 0 is raised again while records remain (R411). -/
theorem irqpendWrite_clears (ha : (s.tenantAt t).tstat ≠ 3) (bits : BitVec 8) :
    let cleared := s.modTenant t fun n => { n with irqpend := n.irqpend &&& ~~~bits }
    exec (.irqpendWrite (some t) bits) s = .next
      (if bits.getLsbD 0 = true ∧ (s.tenantAt t).fqTail ≠ (s.tenantAt t).fqHead then cleared.irqVf t 0 else cleared) := by
  change execIrqpendWrite (some t) bits s = _
  simp only [execIrqpendWrite, event, writable_iff.mpr ha, if_true, Bool.and_eq_true, bne_iff_ne]

/-! ## Fault records (R365) -/

/-- The oldest record is written where the queue has room, and a launch error's queue then goes on. -/
theorem faultRecordPost_writes {r : Record} {rest : List Record} {u : State} (hr : (s.tenantAt t).records = r :: rest)
    (room : ((s.tenantAt t).fqTail - (s.tenantAt t).fqHead).toNat < 2 ^ (s.tenantAt t).fqK)
    (hu : s.devWrite t ((s.tenantAt t).fqBase.toNat + 64 * ((s.tenantAt t).fqTail.toNat % 2 ^ (s.tenantAt t).fqK))
      (r.bytes (s.tenantAt t).fqTail) = .ok u) :
    let u1 := (u.modTenant t fun n => { n with records := rest, fqTail := n.fqTail + 1 }).irqVf t 0
    exec (.faultRecordPost t) s = .next
      (if r.kind = 3 ∧ ((s.tenantAt t).queue r.queue.toNat).standsAt r.slot = true then u1.queueNext t r.queue.toNat else u1) := by
  change execFaultRecordPost t s = _
  simp only [execFaultRecordPost, event, hr, Nat.not_le.mpr room, if_false, hu, Bool.and_eq_true, decide_eq_true_eq]

/-! ## The queue head (R157, R158) -/

theorem devGet_again {r : Reads} {bs : List Byte} {rest : List (List Byte)} (h : r.left = bs :: rest) (a m : Nat) :
    devGet t a m r = ({ r with left := rest, got := r.got ++ [bs] }, .ok bs) := by
  simp only [devGet, h]

/-- The command that has passed its checks, with the waits that are met at once. -/
def checkedHead (s : State) (t : Nat) (c : Command) (bs : List BoundEntry) : HeadCmd :=
  { cmd := c, bounds := bs, satisfied := c.waits.map fun w => (s.tenantAt t).waitMet w }

/-- A queue holds a checked command, which waits for its events. -/
def holdHead (s : State) (t q : Nat) (h : HeadCmd) : State :=
  h.cmd.waits.foldl (fun s w => s.enrol t w.1.toNat) (s.modQueue t q fun k => { k with cur := some h, blocked := none, reads := [] })

theorem queue_holdHead (h : HeadCmd) : ((holdHead s t q h).tenantAt t).queue q =
    { (s.tenantAt t).queue q with cur := some h, blocked := none, reads := [] } := by
  rw [holdHead, tenantAt_foldl_enrol, queue_modQueue_same]

theorem checkHead_fails {c : Command} {bs : List BoundEntry} (h : s.headCode t c bs ≠ 0) :
    s.checkHead t q c bs = s.launchError t q (s.headCode t c bs) := by
  simp only [State.checkHead, ne_eq, h, not_false_eq_true, if_true]

theorem checkHead_passes {c : Command} {bs : List BoundEntry} (h : s.headCode t c bs = 0) :
    s.checkHead t q c bs = holdHead s t q (checkedHead s t c bs) := by
  simp only [State.checkHead, h, ne_eq, not_true_eq_false, if_false, holdHead, checkedHead]

section
variable {u : Reads}

theorem takeHead_waits (h : readHead t ((s.tenantAt t).queue q) (s.reads t q) = (u, .wait)) : s.takeHead t q = u.keep t q := by
  simp only [State.takeHead, h]

theorem takeHead_faults {code level va : Nat}
    (h : readHead t ((s.tenantAt t).queue q) (s.reads t q) = (u, .fault code level va)) :
    s.takeHead t q = (u.keep t q).holdQueue t q code level va := by
  simp only [State.takeHead, h]

theorem takeHead_reads {c : Command} {bs : List BoundEntry}
    (h : readHead t ((s.tenantAt t).queue q) (s.reads t q) = (u, .ok (c, bs))) : s.takeHead t q = u.s.checkHead t q c bs := by
  simp only [State.takeHead, h]

/-- What is held after a head that passes its checks: the command itself, and no fault. -/
theorem takeHead_holds {c : Command} {bs : List BoundEntry}
    (h : readHead t ((s.tenantAt t).queue q) (s.reads t q) = (u, .ok (c, bs))) (h0 : u.s.headCode t c bs = 0) :
    (((s.takeHead t q).tenantAt t).queue q).blocked = none ∧ (((s.takeHead t q).tenantAt t).queue q).cur ≠ none := by
  rw [takeHead_reads h, checkHead_passes h0, queue_holdHead]
  exact ⟨rfl, nofun⟩

/-- Without a slice descriptor a dequeue's reads are those of `pull` alone (R159). -/
theorem dequeue_pulls {h : HeadCmd} {p : Pulled} (hd : h.cmd.sliceDesc = 0)
    (hp : pull t h (s.reads t q) = (u, .ok (some p))) : s.dequeue t q h = u.s.addLaunch t q h p none := by
  have none_named : readDescriptor t h (s.reads t q) = (s.reads t q, .ok (some none)) := by
    simp only [readDescriptor, hd, if_true, DevM.ret]
  simp [State.dequeue, none_named, hp, State.withHandlers]

end

theorem launchQueueHead_takes (hq : q < 16) (ho : s.queueOpen t = true) (hc : ((s.tenantAt t).queue q).cur = none)
    (hne : ((s.tenantAt t).queue q).head ≠ ((s.tenantAt t).queue q).tail) (hb : ((s.tenantAt t).queue q).blocked = none)
    (he : (s.tenantAt t).errorWaits q = false) : exec (.launchQueueHead t q) s = .next (s.takeHead t q) := by
  change execLaunchQueueHead t q s = _
  simp [execLaunchQueueHead, event, hq, ho, hc, hne, hb, he]

/-! ## The retry of a held read (R157) -/

theorem launchReadRetry_errorWaits (he : (s.tenantAt t).errorWaits q = true) : exec (.launchReadRetry t q) s = .next s := by
  change execLaunchReadRetry t q s = _
  simp [execLaunchReadRetry, event, he]

section
variable (hb : ((s.tenantAt t).queue q).blocked ≠ none) (ho : s.queueOpen t = true) (he : (s.tenantAt t).errorWaits q = false)
include hb ho he

theorem launchReadRetry_head (hc : ((s.tenantAt t).queue q).cur = none) : exec (.launchReadRetry t q) s = .next (s.takeHead t q) := by
  change execLaunchReadRetry t q s = _
  simp [execLaunchReadRetry, event, Option.isSome_iff_ne_none.mpr hb, ho, he, hc]

theorem launchReadRetry_command {h : HeadCmd} (hc : ((s.tenantAt t).queue q).cur = some h) :
    exec (.launchReadRetry t q) s = .next (s.dequeue t q h) := by
  change execLaunchReadRetry t q s = _
  simp [execLaunchReadRetry, event, Option.isSome_iff_ne_none.mpr hb, ho, he, hc]

end

/-! ## The dequeue (R156, R159) -/

theorem ready_of_satisfied {k : LQueue} {h : HeadCmd} (hc : k.cur = some h) (hw : ∀ b ∈ h.satisfied, b = true) : k.ready = true := by
  rw [LQueue.ready, hc, Option.any_some, List.all_eq_true]; exact hw

section
variable {h : HeadCmd} (hc : ((s.tenantAt t).queue q).cur = some h) (ho : s.queueOpen t = true)
  (hb : ((s.tenantAt t).queue q).blocked = none) (hw : ∀ b ∈ h.satisfied, b = true)
include hc ho hb hw

theorem launchDequeue_signals (hty : h.cmd.ty = 1) : exec (.launchDequeue t q) s = .next
    (if s.hostHeld t then s else (s.queueNext t q).addEvent t h.cmd.sname.toNat h.cmd.samt) := by
  change execLaunchDequeue t q s = _
  simp [execLaunchDequeue, event, hc, ho, hb, hty, ready_of_satisfied hc hw]

theorem launchDequeue_dequeues (hty : h.cmd.ty ≠ 1) : exec (.launchDequeue t q) s = .next (s.dequeue t q h) := by
  change execLaunchDequeue t q s = _
  simp [execLaunchDequeue, event, hc, ho, hb, hty, ready_of_satisfied hc hw]

end

/-! ## The scheduler's pass (R162) -/

theorem passGo_placed {it : Item} {u : State} (h : s.tryPlace it = some u) (r : List Item) : passGo (it :: r) s = passGo r u := by
  simp only [passGo, h]

theorem schedulerPass_idle (hr : s.retireAll = s) (h : s.ranked = []) : exec .schedulerPass s = .next s := by
  change execSchedulerPass s = _
  simp [execSchedulerPass, event, hr, h, passGo]

/-- The one ranked item is placed once: in the first step where it is pinned, in the second where it is not. -/
theorem schedulerPass_places {it : Item} {u : State} (hr : s.retireAll = s) (h : s.ranked = [it]) (hp : s.tryPlace it = some u)
    (hu : s.itemPinned it = true → u.ranked = []) : exec .schedulerPass s = .next u := by
  change execSchedulerPass s = _
  cases pin : s.itemPinned it with
  | true => simp [execSchedulerPass, event, hr, h, pin, hp, hu pin, passGo]
  | false => simp [execSchedulerPass, event, hr, h, pin, passGo_placed hp, passGo]

/-! ## Plots: loads, slices and saves (R160, R164, R372) -/

section
variable {l : Launch} {p : Plot}

theorem plotLoadComplete_begins (h : s.plotAt lid i = some (l, p)) (hl : l.cmd.cores = false) :
    exec (.plotLoadComplete lid i) s = .next (s.beginPlot l i p) := by
  change execPlotLoadComplete lid i s = _
  simp [execPlotLoadComplete, event, h, hl]

theorem timeSliceExpiry_ends (h : s.plotAt lid i = some (l, p)) (hr : p.runs = true)
    (ht : (s.tenantAt l.tenant).sliceUs * 1200 ≤ (s.cycle - p.sliceStart).toNat) :
    exec (.timeSliceExpiry lid i) s = .next ((s.tryRetire lid i).sliceEnd lid i) := by
  change execTimeSliceExpiry lid i s = _
  simp only [execTimeSliceExpiry, event, h, hr, ht, decide_true, Bool.and_self, if_true]

theorem mem_savingPlots {d x y : Nat} (hp : l.plots[i]? = some p) (hs : p.st = .saving d x y) : i ∈ l.savingPlots := by
  have hi : i < l.plots.length := (List.getElem?_eq_some_iff.mp hp).1
  exact List.mem_filter.mpr ⟨List.mem_range.mpr hi, by simp only [hp, hs, Option.any_some]⟩

theorem savingPlots_filter_eq (h : i ∈ l.savingPlots) : (l.savingPlots.filter fun j => j = i) = [i] := by
  have once : l.savingPlots.Nodup := List.Pairwise.filter _ List.nodup_range
  rw [List.filter_eq, once.count, if_pos h, List.replicate_one]

/-- The plots that finish their saves together at an event of plot `i`. -/
def savedWith (l : Launch) (i : Nat) : List Nat := l.savingPlots.filter fun j => l.cmd.cores || j = i

theorem savedWith_alone (hl : l.cmd.cores = false) (h : i ∈ l.savingPlots) : savedWith l i = [i] := by
  simpa [savedWith, hl] using savingPlots_filter_eq h

theorem savedWith_together (hl : l.cmd.cores = true) : savedWith l i = l.savingPlots := by
  simp [savedWith, hl]

theorem plotSaveComplete_quiet (h : s.launchAt lid = some l) (hne : savedWith l i ≠ [])
    (hq : ∀ j ∈ savedWith l i, ∀ c ∈ s.plotCores lid j, s.threadQuiet c = true) : exec (.plotSaveComplete lid i) s = .next
      ((savedWith l i).foldl (fun (u : State) (j : Nat) => u.finishSave l j) s).fenceFree := by
  change execPlotSaveComplete lid i s = _
  have quiet : ((savedWith l i).all fun j => (s.plotCores lid j).all s.threadQuiet) = true := by simpa using hq
  simp only [savedWith] at hne quiet ⊢
  simp [execPlotSaveComplete, event, h, hne, quiet]

theorem plotSaveComplete_busy (h : s.launchAt lid = some l)
    (hb : ∃ j ∈ savedWith l i, ∃ c ∈ s.plotCores lid j, s.threadQuiet c = false) : exec (.plotSaveComplete lid i) s = .next s := by
  change execPlotSaveComplete lid i s = _
  have busy : ((savedWith l i).all fun j => (s.plotCores lid j).all s.threadQuiet) = false := by simpa using hb
  simp only [savedWith] at busy
  simp [execPlotSaveComplete, event, h, busy]

end

/-! ## The end of a launch (R164, R367) -/

section
variable {l : Launch} (hl : s.retireAll.launchAt lid = some l) (he : s.retireAll.launchEnded l = true)
  (hx : s.retireAll.exitsHeld l = false)
include hl he hx

theorem launchComplete_signals (hr : l.ending = false) (hlog : s.retireAll.logOf lid = []) (hcr : l.credits = []) :
    let s1 := (s.retireAll.writeExits l).dropLaunch lid
    exec (.launchComplete lid) s = .next
      ((if l.cmd.sigen then s1.addEvent l.tenant l.cmd.sname.toNat l.cmd.samt else s1).irqVf l.tenant 2) := by
  change execLaunchComplete lid s = _
  simp [execLaunchComplete, event, hl, he, hx, hr, hlog, hcr]

theorem terminationComplete_posts (hr : l.ending = true) :
    let s1 := (s.retireAll.writeExits l).dropLaunch lid
    exec (.terminationComplete lid) s = .next
      ((s1.post l.tenant { Record.plain 7 0 with launch := l.number }).irqVf l.tenant 2) := by
  change execTerminationComplete lid s = _
  simp [execTerminationComplete, event, hl, he, hx, hr]

end

/-! ## The supervisor (R366, R367, R410) -/

/-- SUPCMD holds a command, BUSY. -/
def supBegun (s : State) (t launch core cmd : Nat) : State :=
  s.modTenant t fun n => { n with supcmd := w64 (2 ^ 63 + launch % 2 ^ 32 * 2 ^ 29 + core % 2 ^ 25 * 2 ^ 4 + cmd) }

theorem supWord_busy (launch core cmd : Nat) :
    supWord true launch core cmd = w64 (2 ^ 63 + launch % 2 ^ 32 * 2 ^ 29 + core % 2 ^ 25 * 2 ^ 4 + cmd) := by
  simp only [supWord, flag, if_true, Nat.one_mul]

variable {core : Nat}

theorem supWrite_refused (h : (s.tenantAt t).supcmd.getLsbD 63 = true ∨ (s.tenantAt t).tstat = 3) (launch cmd : Nat)
    (f : State → State × Bool) : s.supWrite t launch core cmd f = s := by
  have closed : ((s.tenantAt t).supcmd.getLsbD 63 || !(s.tenantAt t).writable) = true := by simpa [Tenant.writable] using h
  rw [State.supWrite, if_pos closed]

theorem supWrite_taken (hb : (s.tenantAt t).supcmd.getLsbD 63 = false) (ha : (s.tenantAt t).tstat ≠ 3) (launch cmd : Nat)
    (f : State → State × Bool) : s.supWrite t launch core cmd f =
      if (f (supBegun s t launch core cmd)).2 then (f (supBegun s t launch core cmd)).1
      else (f (supBegun s t launch core cmd)).1.supDone t := by
  have opened : ((s.tenantAt t).supcmd.getLsbD 63 || !(s.tenantAt t).writable) = false := by
    simp only [hb, writable_iff.mpr ha, Bool.not_true, Bool.or_self]
  rw [State.supWrite, opened, supWord_busy]; rfl

section
variable (hb : (s.tenantAt t).supcmd.getLsbD 63 = false) (ha : (s.tenantAt t).tstat ≠ 3) {l : Launch}
include hb ha

theorem supcmdResume_resumes (hl : (supBegun s t lid core 1).launchNumbered t lid = some l) : exec (.supcmdResume t lid core) s = .next
    ((if l.liveThread core = true then (supBegun s t lid core 1).resumeThread t l core else supBegun s t lid core 1).supDone t) := by
  change execSupcmdResume t lid core s = _
  simp [execSupcmdResume, event, supWrite_taken hb ha, hl]

theorem supcmdTerminate_ends (hl : (supBegun s t lid core 3).launchNumbered t lid = some l) :
    exec (.supcmdTerminate t ⟨lid, core⟩) s = .next (((supBegun s t lid core 3).endLaunch l).supDone t) := by
  change execSupcmdTerminate t ⟨lid, core⟩ s = _
  simp [execSupcmdTerminate, event, supWrite_taken hb ha, hl]

theorem supcmdSave_dead (hl : (supBegun s t lid core 2).launchNumbered t lid = some l) (hd : l.liveThread core = false) :
    exec (.supcmdSave t lid core) s = .next ((supBegun s t lid core 2).supDone t) := by
  change execSupcmdSave t lid core s = _
  simp [execSupcmdSave, event, supWrite_taken hb ha, hl, hd]

/-- SAVE pre-empts the plot; BUSY clears at once where it stands saved already, and otherwise with the save. -/
theorem supcmdSave_live {l' : Launch} {u : State} {p : Plot} (hl : (supBegun s t lid core 2).launchNumbered t lid = some l)
    (hv : l.liveThread core = true) (hu : u = (supBegun s t lid core 2).preempt l.id (core / l.area) true)
    (hp : u.plotAt l.id (core / l.area) = some (l', p)) :
    exec (.supcmdSave t lid core) s = .next (if p.isSaved then (u.showImage l (core / l.area)).supDone t else u) := by
  subst hu
  change execSupcmdSave t lid core s = _
  simp only [execSupcmdSave, event, supWrite_taken hb ha, hl, hv, hp, if_true]
  cases p.isSaved <;> rfl

end
end

/-! ## The statement -/

/-- Settles O59: each clause is one outcome of one event, with its lemma above. -/
theorem eventsOfLaunches : Obligations.EventsOfLaunches := by
  unfold Obligations.EventsOfLaunches
  intro s t q lid i core v h bits n k alive tenant
  refine ⟨fun r rest hr room u hu => faultRecordPost_writes hr room hu, fun hq ha => lqtailWrite_publishes hq ha v, ?head,
    fun r a m bs rest hr => devGet_again hr a m, ?retry, fun _ he => launchReadRetry_errorWaits he, ?dequeue,
    fun hr => ⟨schedulerPass_idle hr, fun it u h1 hp hu => schedulerPass_places hr h1 hp hu⟩, ?plot, ?together, ?ended, ?refused, ?supervisor,
    ?registers, rfl⟩
  case head =>
    intro hq ho hc hne hb he
    rw [launchQueueHead_takes hq ho hc hne hb he]
    refine ⟨fun u hu => ?_, fun u code level va hu => ?_, fun u c bs hu => ⟨fun hcode => ?_, fun hcode => ?_⟩⟩
    · rw [takeHead_waits hu]; rfl
    · rw [takeHead_faults hu]; rfl
    · rw [takeHead_reads hu, checkHead_fails hcode]
    · rw [takeHead_reads hu, checkHead_passes hcode]; rfl
  case retry =>
    intro hb ho he
    refine ⟨fun hc u c bs hu h0 => ⟨_, launchReadRetry_head hb ho he hc, takeHead_holds hu h0⟩, fun hc u c bs hu hcode => ?_,
      fun hc hd u p hp => ?_⟩
    · rw [launchReadRetry_head hb ho he hc, takeHead_reads hu, checkHead_fails hcode]
    · rw [launchReadRetry_command hb ho he hc, dequeue_pulls hd hp]
  case dequeue =>
    intro hc ho hb hw
    refine ⟨launchDequeue_signals hc ho hb hw, fun hty hd u p hp => ?_⟩
    rw [launchDequeue_dequeues hc ho hb hw hty, dequeue_pulls hd hp]
  case plot =>
    intro l p hp
    refine ⟨plotLoadComplete_begins hp, timeSliceExpiry_ends hp, fun d x y hl hs hq => ?_⟩
    obtain ⟨hlaunch, hplot⟩ := plotAt_eq_some.mp hp
    have alone : savedWith l i = [i] := savedWith_alone hl (mem_savingPlots hplot hs)
    rw [plotSaveComplete_quiet hlaunch (by simp [alone]) (by simpa [alone] using hq), alone]; rfl
  case together =>
    intro l hlaunch hl hne
    have together : savedWith l i = l.savingPlots := savedWith_together hl
    rw [← together] at hne ⊢
    exact ⟨plotSaveComplete_quiet hlaunch hne, plotSaveComplete_busy hlaunch⟩
  case ended =>
    intro s0 l hl he hx s1
    exact ⟨launchComplete_signals hl he hx, terminationComplete_posts hl he hx⟩
  case refused =>
    intro hclosed e he
    simp only [List.mem_cons, List.not_mem_nil, or_false] at he
    rcases he with rfl | rfl | rfl
    all_goals exact congrArg Host.Outcome.next (supWrite_refused hclosed ..)
  case supervisor =>
    intro hb ha begun
    exact ⟨fun l hl => supcmdResume_resumes hb ha hl, fun l hl => supcmdTerminate_ends hb ha hl,
      fun l hl => ⟨supcmdSave_dead hb ha hl, fun l' u p hv hu hp => supcmdSave_live hb ha hl hv hu hp⟩⟩
  case registers =>
    intro ha
    refine ⟨fun hh => ?_, fun hh => ?_, fqheadWrite_moves ha v, irqpendWrite_clears ha bits⟩
    · rw [evsigWrite_arrives ha, hostArrive_done hh rfl]
    · rw [evsigWrite_arrives ha, hostArrive_held hh]; rfl

end Sys2Proof.Machine.LaunchEvents
end
